-- ==== Sys2Proof/Word.lean ====
section
/-! DEFINITION. The plain word types of the Moluk hub model: bytes, 32- and 64-bit register words, engine vectors and
the sparse map used for slot tables. -/

namespace Sys2Proof

/-- One byte. -/
abbrev Byte := BitVec 8

/-- A 32-bit register word. -/
abbrev Word := BitVec 32

/-- A 64-bit word: a fence value, a 64-bit counter, hub global time. -/
abbrev DWord := BitVec 64

/-- A 64-byte line or engine vector register (R240), byte 0 in the low bits. -/
abbrev Vec := BitVec 512

/-- A sparse table by number. Its canonical form has strictly rising keys. -/
abbrev NMap (α : Type) := List (Nat × α)

end Sys2Proof
end

