-- ==== Sys2Proof/Syntax.lean ====
section
/-! DEFINITION. The commands the hub takes: one constructor of Instr for each row of spec/opcode_table.json, with the
operands that the row's rule names. A row that the hub performs on its own (a fetch turn, a tile, a timer's expiry) is a
command too: its operand names the unit that takes the step. -/

namespace Sys2Proof

/-- Origin classes, R34. -/
inductive OClass where
  | hostPf | hostVf | keeper | hmFw | regionFw | partner | peer | debug
  deriving DecidableEq, Repr

/-- The origin of a register access, R34: a class and a 12-bit identity. -/
structure Origin where
  cls : OClass
  ident : Nat
  deriving DecidableEq, Repr

/-- A register page and its instance. The pages are those whose registers the chapters list, and the MSI-X table of a
function, whose entry v stands at offsets 0 to 15 (R438, R439). -/
inductive Page where
  | mf | annex
  | gw | gwCxl
  | qe | qeFn (f : Nat) | qeFb (b : Nat)
  | tu | tuFn (f : Nat)
  | gm | gmMover (m : Nat)
  | ch | chCluster (i : Nat)
  | ms
  | qy | qyBerth (b : Nat)
  | hl | hlLink (l : Nat)
  | st | stChan (c : Nat)
  | sp
  | hm | hmFn (f : Nat)
  | ec | ecBank (k : Nat)
  | lb | sl | tg
  | msix (f v : Nat)
  /-- The MSI-X pending-bit array of function f (R439). -/
  | pba (f : Nat)
  /-- Page n of the origin's BAR0 view, whatever stands there (R22, R439). -/
  | bar0 (n : Nat)
  /-- Doorbell page n of BAR4 (R70). -/
  | bar4 (n : Nat)
  deriving DecidableEq, Repr

/-- A register write as it reaches a page: who writes, the register's page and offset, the size in bytes and the value. -/
structure RegWr where
  org : Origin
  page : Page
  off : Nat
  size : Nat
  val : Nat
  deriving DecidableEq, Repr

/-- The answer to an ATS Translation Request (R111, R120, R155): a translation with its rights, or an error of the host. -/
inductive AtsAnswer where
  | xlate (out sizeLog2 : Nat) (r w : Bool)
  | error
  deriving DecidableEq, Repr

/-- Codes of a PRI page response, R131. -/
inductive PrgCode where
  | success | invalid | failure
  deriving DecidableEq, Repr

/-- What the host's answer to a PCIe AtomicOp is, R176. -/
inductive AtomicAnswer where
  | old (v : Nat) | unsupported
  deriving DecidableEq, Repr

/-- A Bresa message, R357: the header fields as they stand in the 32-byte header, and the payload bytes. -/
structure BresaMsg where
  cls : Nat
  typ : Nat
  len : Nat
  flags : Nat
  tag : Nat
  ctx : Nat
  label : Nat
  status : Nat
  rsv : Nat
  addr : Nat
  aux : Nat
  payload : List Byte
  deriving DecidableEq, Repr

/-- A host access to device memory through BAR2 or CXL.mem: the address, the bytes written (none for a read), the length
of a read, and the poison mark of a write (R441). -/
structure HostAcc where
  link : Nat
  addr : Nat
  data : Option (List Byte)
  len : Nat
  poison : Bool
  deriving DecidableEq, Repr

/-- Atomic operations, R172, with their operands. -/
inductive AOp where
  | add | swap | cas | minS | maxS | minU | maxU | and | or | xor
  deriving DecidableEq, Repr

/-- What a non-idempotent request asks its home to do (R552): an atomic, a packet addition, or the additions of one line of an
ACCUMULATE, each element by its offset in the line, its source encoding and its generator output. -/
inductive JOp where
  | atomic (op : AOp) (size a b : Nat)
  | packet (line : Vec) (poison : Bool)
  | accumulate (sfmt dfmt round : Nat) (sat : Bool) (elems : List (Nat × Nat × Nat)) (poison : Bool)
  deriving DecidableEq, Repr

/-- A journalled request as it reaches its home: what it does there, and the task label it travels under, its command's or its message's (R13,
R342). -/
structure JReq where
  op : JOp
  label : Nat := 0
  deriving DecidableEq, Repr

/-- A page of a PLAN: the receiving hub's window, the offset in it, and the rights asked for by their code (R410, R415). -/
structure PlanPage where
  win : Nat
  off : Nat
  rights : Nat
  deriving DecidableEq, Repr

/-- What an inbound remote request asks (R414 to R416); a PLAN on its way is passed on as one. -/
inductive RemOp where
  | read (len : Nat)
  | write (data : List Byte) (poison : Bool)
  | nonIdem (seq : Nat) (op : JOp)
  | plan (pages : List PlanPage)
  deriving DecidableEq, Repr

/-- A remote request as it arrives over a Hawser link: source hub, target hub, request tag, hop limit, window, offset, and the task label it
travels under (R13). -/
structure RemReq where
  link : Nat
  src : Nat
  dst : Nat
  tag : Nat
  hops : Nat
  win : Nat
  off : Nat
  op : RemOp
  label : Nat := 0
  deriving DecidableEq, Repr

/-- HELLO, R393. -/
structure HelloMsg where
  version : Nat
  grade : Nat
  id : Option Nat
  fixed : Bool
  eligible : Bool
  manager : Option Nat
  hops : Nat
  deriving DecidableEq, Repr

/-- What the receiver finds of a flit (R395, R424, R475): good, with n of its FEC codewords corrected; a codeword FEC cannot correct; a bad CRC;
a failed authentication; or good, and carrying the peer's request for a key update. -/
inductive FlitCheck where
  | good (corrected : Nat) | keyUpdate | uncorrectable | badCrc | badTag
  deriving DecidableEq, Repr

/-- An AVTP frame, R418 to R420: subtype (0 RVF, 1 TSCF), stream ID, sequence number, AVTP timestamp, RVF position and
end-of-frame mark, and the payload (for RVF the samples as packed by IEEE 1722). -/
structure Avtp where
  kind : Nat
  stream : Nat
  seq : Nat
  stamp : Nat
  lineNo : Nat
  pixel : Nat
  eof : Bool
  payload : List Byte
  deriving DecidableEq, Repr

/-- Host enables of one function that configuration writes change (R431, R432, R105, R106, R132, R168, R176, R434). -/
structure FnCfg where
  ats : Bool
  pasid : Bool
  pri : Bool
  opra : Nat
  atomicReq : Bool
  relaxed : Bool
  busMaster : Bool
  ltr : Bool
  pmeEn : Bool
  maxPayload : Nat
  maxRead : Nat
  /-- The Completion Timeout Value of Device Control 2, by PCIe's code (R434). -/
  cto : Nat
  deriving DecidableEq, Repr

/-- The BARs of R438: those of the PF, and those of its VFs, which stand in its SR-IOV capability. -/
inductive Bar where
  | bar0 | bar2 | bar4 | vfBar0 | vfBar2 | vfBar4
  deriving DecidableEq, Repr

/-- What a configuration write sets: one function's enables, VF Enable and NumVFs, a D-state, or a BAR. -/
inductive CfgWrite where
  | bar (b : Bar) (v : Nat)
  | fn (f : Nat) (c : FnCfg)
  | sriov (enable : Bool) (numVfs : Nat)
  | dstate (f : Nat) (d3hot : Bool)
  deriving DecidableEq, Repr

/-- A message about hub IDs (R399, R400): a hub without a fixed ID asks for one (none), or one that comes to a system names its fixed ID; the
manager assigns or confirms an ID, or refuses a fixed one. -/
inductive IdMsg where
  | ask (fixed : Option Nat) | assign (id : Nat) | refused
  deriving DecidableEq, Repr

/-- A message about an inbound window of a hub (R404, R411, R412): its registration with its length, the manager's acceptance of it, or its
deregistration. -/
inductive RegMsg where
  | register (len : Nat) | accepted | deregister
  deriving DecidableEq, Repr

/-- A RESOLVE on its way to the manager, or the manager's answer at the hub that asked (R411): window, length and rights. -/
inductive ResolveAnswer where
  | ask | ok (win len rights : Nat) | refused
  deriving DecidableEq, Repr

/-- The commands. One constructor per row of spec/opcode_table.json, in the table's order. -/
inductive Instr where
  | registerWrite (w : RegWr)
  | pageSeal (o : Origin) (p : Page) (v : Nat)
  | lbTailWrite (o : Origin) (v : Nat)
  | lbWinSeqWrite (o : Origin) (v : Nat)
  | lbStatRead (o : Origin)
  | vfCounterRead (f : Nat) (p : Page) (off : Nat)
  | byteCounterRead (o : Origin) (tier cls : Nat) (wr : Bool)
  | sqDoorbell (f page off size v : Nat)
  | cqHeadUpdate (f page size v : Nat)
  | fetchTurn (sq : Nat)
  | entryArrival (sq n : Nat) (data : List Byte) (poison : Bool)
  | refetchBackoffExpiry (sq : Nat)
  | dispatch (sq : Nat)
  | completionRecordWrite (k : Nat)
  | irqTimeExpiry (cq : Nat)
  | flushReadReturn (id : Nat)
  | nop (k : Nat)
  | copy (m : Nat)
  | convert (m : Nat)
  | quantise (m : Nat)
  | dequantise (m : Nat)
  | gather (m : Nat)
  | scatter (m : Nat)
  | compress (m : Nat)
  | decompress (m : Nat)
  | accumulate (m : Nat)
  | moverAssign (m : Nat)
  | moverTile (m : Nat)
  | lookaheadFill (m : Nat)
  | atsTranslationCompletion (id : Nat) (a : AtsAnswer)
  | deviceMapWalkDone (id : Nat)
  | pageRequestResponse (f grp : Nat) (c : PrgCode)
  | pageRequestTimeout (grp : Nat)
  | holdWaitTimeout (id : Nat)
  | atsInvalidateRequest (link f : Nat) (pasid : Option Nat) (addr sizeLog2 itag : Nat)
  | invalidateCompletion (id : Nat)
  | dinvRange (o : Origin) (v : Nat)
  | dinvAll (o : Origin) (v : Nat)
  | fnDmapRootWrite (o : Origin) (f : Nat) (hi : Bool) (v : Nat)
  | acClear (o : Origin) (v : Nat)
  | acDecay
  | fetchAdd (k : Nat)
  | swap (k : Nat)
  | cas (k : Nat)
  | fetchMinS (k : Nat)
  | fetchMaxS (k : Nat)
  | fetchMinU (k : Nat)
  | fetchMaxU (k : Nat)
  | fetchAnd (k : Nat)
  | fetchOr (k : Nat)
  | fetchXor (k : Nat)
  | fenceScope (k : Nat)
  | fenceSet (k : Nat)
  | fbValueWrite (o : Origin) (b off size v : Nat)
  | fbStatusWrite (o : Origin) (b off size v : Nat)
  | queueCreateSq (k : Nat)
  | queueCreateCq (k : Nat)
  | queueDestroy (k : Nat)
  | queueDestroyFinish (k : Nat)
  | contextCreate (k : Nat)
  | contextDestroy (k : Nat)
  | contextDrain (k : Nat)
  | contextDrainFinish (k : Nat)
  | fenceAlloc (k : Nat)
  | fenceFree (k : Nat)
  | windowCreate (k : Nat)
  | windowDestroy (k : Nat)
  | recipeStore (k : Nat)
  | recipeDelete (k : Nat)
  | keySessionOpen (k : Nat)
  | keySessionClose (k : Nat)
  | streamCreate (k : Nat)
  | streamDestroy (k : Nat)
  | adminCfgWrite (o : Origin) (f v : Nat)
  | churnInline (k : Nat)
  | churnStored (k : Nat)
  | windowPlanDone (k : Nat)
  | sequencerStart (cl : Nat)
  | windowStart (e : Nat)
  | recipeNop (e : Nat)
  | loopb (e : Nat)
  | loope (e : Nat)
  | setg (e : Nat)
  | ld (e : Nat)
  | st (e : Nat)
  | ldb (e : Nat)
  | dotb (e : Nat)
  | fma (e : Nat)
  | mul (e : Nat)
  | add (e : Nat)
  | max (e : Nat)
  | min (e : Nat)
  | scale (e : Nat)
  | wfma (e : Nat)
  | smax (e : Nat)
  | exp (e : Nat)
  | rcp (e : Nat)
  | poly (e : Nat)
  | cvt (e : Nat)
  | sumx (e : Nat)
  | accrnd (e : Nat)
  | accst (e : Nat)
  | accadd (e : Nat)
  | accclr (e : Nat)
  | topk (e : Nat)
  | gath (e : Nat)
  | scat (e : Nat)
  | fadd (e : Nat)
  | xch (e : Nat)
  | accx (e : Nat)
  | bar (e : Nat)
  | barrierRelease (cl : Nat)
  | engineFault (e : Nat)
  | clusterReset (cl : Nat)
  | clusterRemap (cl : Nat)
  | clusterResetRequest (o : Origin) (cl v : Nat)
  | redPack (l : Nat)
  | redMerge (l : Nat)
  | redRound (l : Nat)
  | redSum (l : Nat)
  | redCompare (l : Nat)
  | reduceLaneAssign (l : Nat)
  | journaledRequest (src seq addr tenant : Nat) (req : JReq)
  | journalAck (src seq : Nat)
  | patrolScrub (line : Nat)
  | replicaEnable (o : Origin) (v : Nat)
  | replicaDisable (o : Origin) (v : Nat)
  | replicaSyncDone (i : Nat)
  | groupModeWrite (o : Origin) (off v : Nat)
  | groupModeApply (lpddr : Bool) (g : Nat)
  | regulationUpdate (occ : List Nat)
  | bar2Access (a : HostAcc)
  | cxlMemAccess (a : HostAcc)
  | hdmCommit (d base size dpa ways : Nat)
  | hostSnoop (addr : Nat)
  | hostReadCompletion (id : Nat) (data : List Byte) (poison : Bool)
  | hostReadTimeout (id : Nat)
  | hostAtomicTimeout (k : Nat)
  | detach (cause : Nat)
  | detachHoldExpiry
  | linkLost (l : Nat)
  | reattachResume (o : Origin) (v : Nat)
  | reattachReset (o : Origin) (v : Nat)
  | flr (f : Nat)
  | d3hotEntry
  | d0Entry
  | idleEntry
  | wake (target : Nat)
  | berthEnable (o : Origin) (b v : Nat)
  | berthDisable (o : Origin) (b v : Nat)
  | berthEvict (o : Origin) (b v : Nat)
  | partnerReset (o : Origin) (b v : Nat)
  | partnerResetRelease (b : Nat)
  | berthLinkUp (b : Nat) (cxl : Bool) (modules half rate : Nat)
  | trainLimitExpiry (b : Nat)
  | card (b : Nat) (m : BresaMsg)
  | cardTimeout (b : Nat)
  | berthLinkDown (b : Nat)
  | berthDepartureEnd (b : Nat)
  | snoopLimit (b : Nat)
  | invLimit (b : Nat)
  | contextGrant (o : Origin) (b v : Nat)
  | contextRevoke (o : Origin) (b v : Nat)
  | rd (b : Nat) (m : BresaMsg)
  | wr (b : Nat) (m : BresaMsg)
  | bresaAtomic (b : Nat) (m : BresaMsg)
  | pktAdd (b : Nat) (m : BresaMsg)
  | credit (b : Nat) (m : BresaMsg)
  | rdShared (b : Nat) (m : BresaMsg)
  | rdOwn (b : Nat) (m : BresaMsg)
  | evictClean (b : Nat) (m : BresaMsg)
  | evictDirty (b : Nat) (m : BresaMsg)
  | snpRsp (b : Nat) (m : BresaMsg)
  | invAck (b : Nat) (m : BresaMsg)
  | tskDoorbell (b : Nat) (m : BresaMsg)
  | cqHead (b : Nat) (m : BresaMsg)
  | fenceSignal (b : Nat) (m : BresaMsg)
  | unbindAck (b : Nat) (m : BresaMsg)
  | event (b : Nat) (m : BresaMsg)
  | pwrRequest (b : Nat) (m : BresaMsg)
  | pwrRelease (b : Nat) (m : BresaMsg)
  | leave (b : Nat) (m : BresaMsg)
  | trace (b : Nat) (m : BresaMsg)
  | cxlPartnerRequest (b addr : Nat) (data : Option (List Byte)) (own : Bool)
  | berthTimeTimer
  | linkEnable (o : Origin) (l v : Nat)
  | lanesLocked (l : Nat)
  | hello (l : Nat) (h : HelloMsg)
  | sessionUp (l : Nat) (ok : Bool)
  | flitReceive (l : Nat) (k : FlitCheck)
  | laneLockLost (l : Nat)
  | retrainDone (l : Nat)
  | linkRetrainExpiry (l : Nat)
  | linkRekey (l : Nat)
  | announceTimer
  | announce (l cand hops beat : Nat)
  | electTimeExpiry
  | mgrTimeout
  | winWaitExpiry (k : Nat)
  | idRequest (l : Nat) (m : IdMsg)
  | windowRegister (hub win tag : Nat) (m : RegMsg) (rights allowId allowMask : Nat)
  | resolve (src target tag : Nat) (a : ResolveAnswer)
  | remoteRequest (r : RemReq)
  | plan (link src tag hops : Nat) (pages : List PlanPage)
  | remoteAck (tag status detail : Nat) (data : List Byte) (poison : Bool)
  | forward (r : RemReq)
  | timeSyncExchange (l : Nat) (behind : Bool) (offset : Nat)
  | avtpFrame (l : Nat) (f : Avtp)
  | gptpFrame (l gtime : Nat)
  | frameDropped (l : Nat)
  | streamSlot
  | spdmGetVersion
  | spdmGetCapabilities
  | spdmNegotiateAlgorithms
  | spdmGetDigests
  | spdmGetCertificate (slot off len : Nat)
  | spdmChallenge (nonce : Nat)
  | spdmKeyExchange (reqId : Nat)
  | spdmFinish (session : Nat) (ok : Bool)
  | spdmKeyUpdate (session : Nat)
  | spdmHeartbeat (session : Nat)
  | spdmEndSession (session : Nat)
  | spdmUnsupportedRequest (code : Nat)
  | retag (o : Origin) (v : Nat)
  | retagDone
  | teardownLimitExpiry (f : Nat)
  | teardownKeyZero (f : Nat)
  | teardownDone (f : Nat)
  | boot (trngOk tierHbm tierLpddr debugToken : Bool)
  | wholeDieReset (cause : Nat)
  | dieResetWrite (o : Origin) (v : Nat)
  | svnCommit (o : Origin) (v : Nat)
  | flashRead (o : Origin) (v : Nat)
  | flashErase (o : Origin) (v : Nat)
  | flashProgram (o : Origin) (v : Nat)
  | flashDone (deviceErr : Bool)
  | wdogKick (o : Origin) (v : Nat)
  | watchdogExpiry (c : Nat)
  | coreCrash (c cause : Nat)
  | coreReload (c : Nat) (imageOk : Bool)
  | fIfaceWrite (o : Origin) (f v : Nat)
  | traceEnable (o : Origin) (v : Nat)
  | traceDisable (o : Origin) (v : Nat)
  | traceHeadWrite (o : Origin) (v : Nat)
  | ecDoorbell (o : Origin) (v : Nat)
  | ecDeliver (c : Nat)
  | eoi (o : Origin) (v : Nat)
  | vinAonApplied
  | railPg (i : Nat)
  | railPgTimeout (i : Nat)
  | keelLock
  | keelLockLoss
  | staggerEnable
  | rampDone
  | adcSample (ch v : Nat)
  | tgDigitalInput (i : Nat)
  | checkpointDone
  | faultClear (o : Origin) (v : Nat)
  | tclkEdge
  | powerEstimate (hubW pkgHi pkgLo : Nat)
  | globalObservationResponse (id : Nat)
  | backInvalidateResponse (line : Nat) (dirty : Option (List Byte))
  | hostAtomicCompletion (k : Nat) (a : AtomicAnswer)
  | hostLinkUp (l : Nat) (cxl : Bool) (width rate : Nat)
  | linkDisable (o : Origin) (l v : Nat)
  | gptpSync (l : Nat)
  | vinAonRemoved
  | mainRailsFail
  | registerRead (o : Origin) (p : Page) (off size : Nat)
  | configSpaceWrite (link : Nat) (w : CfgWrite)
  | svnCommitDone
  deriving DecidableEq, Repr

end Sys2Proof
end

