-- ==== Sys2Proof/Decode.lean ====
section
/-! DEFINITION. The command a word spells. The hub is a block: its commands come as register accesses, messages and events, and
no row of spec/opcode_table.json gives a command bits ("fields" is empty in every row), so no word spells a command. -/

namespace Sys2Proof

/-- The command that a word of nbits bits spells by the table's bits: none, since no row has any. -/
def decodeTableWord (nbits w : Nat) : Option Instr :=
  match nbits, w with
  | _, _ => none

end Sys2Proof
end

