-- ==== Sys2Proof/Config.lean ====
section
/-! DEFINITION. What an implementation fixes and the spec leaves open. Every constant of this file is opaque: nothing
proves a value of it, and a statement about it holds for every value. -/

namespace Sys2Proof

/-- The BAR0 page where the first instance of a page kind stands: "the page within the band may differ between steppings"
(R23). Applied to the number of the kind in Machine/Pages.lean. -/
opaque Config.pageBase : Nat → Nat

/-- Where in a VF's BAR0 view its own instance of a page kind stands (R439). -/
opaque Config.vfPageBase : Nat → Nat

/-- The pages between instances of a page kind (R25). -/
opaque Config.pageStride : Nat → Nat

/-- The page kind within its block, for PAGE_ID.KIND and TYPE (R25, R30): the spec numbers no kinds. -/
opaque Config.pageKind : Nat → Nat

/-- The page version, for PAGE_ID.VER and VERSION (R25, R30). -/
opaque Config.pageVersion : Nat → Nat

/-- PAGE_CAP of a page kind: "block-specific capability bits" (R30) that no block lists. -/
opaque Config.pageCap : Nat → Word

/-- FLAGS bits other than VF-visible of a Manifest entry (R25). -/
opaque Config.pageFlags : Nat → Nat

/-- Where the annex keeps each part of its content, by the part's number in Machine/Views.lean: "with offsets and formats in the annex's own
Manifest entries" (R27), which are not given. -/
opaque Config.annexPage : Nat → Nat

/-- Where in the GW CXL page the HDM Decoder Capability stands: the page is "laid out as that standard defines" (R443, R454), and the
standard leaves the place to the device. -/
opaque Config.hdmPlace : Nat

/-- Where in the lower half of the retention island the Keeper keeps the firmware images (R490, R523). -/
opaque Config.imagePlace : Nat

/-- The device identity certificate, the first of the DICE chain, by the die's fuses (R478). -/
opaque Config.identityCert : List Byte

/-- The digest of a certificate chain, by what the chain holds: the byte layout of a certificate is not architected (R478). -/
opaque Config.chainDigest : List Nat → BitVec 384

/-- Which of the results within 1 ulp EXP returns for an operand (R257): an index among the candidates. -/
opaque Config.expChoice : Word → Nat

/-- The entry a full ATC gives up: "the replacement policy is not architected" (R111). -/
opaque Config.atcVictim : Nat → Nat

/-- The snoop-filter entry evicted from a full set: "in a way that is not architected" (R375). -/
opaque Config.sfVictim : Nat → Nat

/-- Bytes whose value the spec leaves undefined: overlapped bytes (R231, R316), concurrently sealed bounce units (R471). -/
opaque Config.freeByte : Nat → Byte

/-- AES-256-GCM sealing of a bounce unit: key, nonce, additional data, plaintext to ciphertext and 128-bit tag (R470). -/
opaque Config.gcmSeal : Nat → Nat → List Byte → List Byte → List Byte × BitVec 128

/-- AES-256-GCM opening of a bounce unit: the plaintext when the tag verifies (R470, R472). -/
opaque Config.gcmOpen : Nat → Nat → List Byte → List Byte → BitVec 128 → Option (List Byte)

/-- Whether the signature, key hash and digest checks of R489 pass for a boot-flash slot's bytes: header and image. The
algorithms are those of their standards; the fused key hash is the die's. -/
opaque Config.slotSigned : List Byte → Bool

/-- The settings the signed flash configuration of an accepted image carries: HL.SYS_CFG (R399). The component table's
format "is not architected" (R488). -/
opaque Config.flashSysCfg : List Byte → Word

/-- The Logbook policy the signed flash configuration names, if any (R45). -/
opaque Config.flashLogPolicy : List Byte → Option Bool

/-- The Tidegauge rule table of the signed flash configuration: for each rule RULE_CFG, RULE_THR and RULE_AUX (R546). -/
opaque Config.flashRules : List Byte → List (Word × Word × Word)

/-- The SHA-384 digests of the firmware images and of the signed flash configuration of an accepted slot (R479). -/
opaque Config.imageDigests : List Byte → List (BitVec 384) × BitVec 384

/-- The DICE alias key that the unique device secret and the measurement of the Keeper firmware give, by the slot's bytes (R478). -/
opaque Config.aliasKey : Option (List Byte) → BitVec 384

/-- The protection regions that the component table of an accepted image gives a core: first and last 4 KiB unit of DPA, and the permissions
R, W and X as bits 0 to 2 (R493, R494). The table's format "is not architected" (R488). -/
opaque Config.coreRegions : List Byte → Nat → List (Nat × Nat × Nat)

/-- The DPA ranges, by first and last 4 KiB unit, of the Keeper's pages and of the SP key slot state (R494). The spec does not place them. -/
opaque Config.keeperPages : List (Nat × Nat)

/-- A 32-bit value that the spec leaves open, by the number of the draw. -/
opaque Config.freeWord : Nat → Word

end Sys2Proof
end

