-- ==== Sys2Proof/Machine/State.lean ====
section
/-! DEFINITION. The hub's whole state as plain data, the reasons a command can stop, and the state right after the release
of the die reset. A sparse table (NMap) lists rising keys; a key it does not list stands for the default its use names. -/

namespace Sys2Proof.Machine

/-- Reasons a command stops with a fault. -/
inductive Fault where
  /-- A command names a unit the hub does not have (mover 64 and up, berth 8 and up, ...). Raised by onUnit. Safe: the
  spec numbers the units, and gives a command for another number no effect. -/
  | noSuchUnit
  deriving DecidableEq, Repr

/-- Reasons a command is refused. -/
inductive Refusal where
  /-- The command has no meaning yet. Raised by an arm of exec only. Safe: the model stops. -/
  | notModelled (mnemonic : String)
  deriving DecidableEq, Repr

/-- The party an access, a translation or a host read works for. -/
inductive Who where
  | mover (m : Nat) | lane (l : Nat) | atomicUnit (k : Nat) | result (k : Nat) | churn (k : Nat) | engine (e : Nat)
  | recipe (k : Nat) | bresa (b id : Nat) | cxl (b id : Nat) | remote (link src tag : Nat) | planReq (link src tag : Nat)
  | host (link tag : Nat) | hostMem (link tag : Nat) | cmd (k : Nat) | queue (f : Nat) | stream (c : Nat) | migration | firmware (core : Nat) | none
  deriving DecidableEq, Repr

/-- The three rights of R119. -/
structure Rights where
  r : Bool := false
  w : Bool := false
  a : Bool := false
  deriving DecidableEq, Repr

/-- One byte on its way, with its poison: the DETAIL of R557 and the address it came from, or clean. -/
structure PByte where
  at_ : Nat
  val : Byte
  poison : Option Nat := none
  deriving DecidableEq, Repr

/-! ### Memory (R18, R319 to R344) -/

/-- What the stored MAC of a 256-byte external block is bound to: the tenant key's identity and the DPA of its tweak
(R326). A block never written has no such tag and fails its MAC. -/
structure BlockTag where
  key : Nat
  dpa : Nat
  deriving DecidableEq, Repr

/-- An access waiting at the home of a line (R159, R375): what it does there when every cached copy has gone. -/
inductive HomeAct where
  | read
  | write (bytes : List PByte)
  | atomic (op : AOp) (size a b : Nat) (off : Nat)
  | packet (line : Vec) (poison : Bool)
  /-- ACCUMULATE (R226): source and destination format, rounding mode, SAT, and for each element its offset in the line, the
  source encoding and the generator's output; and the line in which an element that crosses the line's end goes on. -/
  | accumulate (sfmt dfmt round : Nat) (sat : Bool) (elems : List (Nat × Nat × Nat)) (poison : Bool) (next : Nat)
  | share (b : Nat)
  | own (b : Nat)
  deriving DecidableEq, Repr

/-- One access at one line's home: its order number, the line's DPA, the tenant, the origin for captures, the requester,
and its journal ID (R552). -/
structure HomeOp where
  id : Nat
  /-- The source of R345, by the numbers of MS.SRC_SEL, if it is one of them. -/
  src : Option Nat := none
  /-- Part of a write of its whole 256-byte block, which reads nothing of it (R327). -/
  whole : Bool := false
  /-- The request it is part of: the order number of that request's first access. A transaction is a request's part in one 256-byte block (R345). -/
  req : Nat := 0
  line : Nat
  tenant : Nat
  firmware : Bool
  origin : Origin
  cls : Nat
  act : HomeAct
  who : Who
  jid : Option (Nat × Nat)
  deriving DecidableEq, Repr

/-- An answer that waits for several lines: a Bresa read, a host read, a peer's read. `want` lists the DPA ranges asked for, in order; with
none listed the answer is every byte that comes. -/
structure Gather where
  who : Who
  want : List (Nat × Nat) := []
  left : Nat
  bytes : List PByte
  status : Nat
  /-- The 256-byte blocks whose failed MAC this request has met already (R326). -/
  macs : List Nat := []
  deriving DecidableEq, Repr

/-- A home's turn of the weighted round robin (R344): the class served, and the transactions it was served in this turn, by request and block. -/
structure Turn where
  cls : Nat := 0
  served : List (Nat × Nat) := []
  deriving DecidableEq, Repr

/-- A journal entry (R552): the source, its sequence, and the journalled result (old value, or poisoned). -/
structure JEntry where
  src : Nat
  seq : Nat
  home : Nat
  old : Nat
  poison : Option Nat
  deriving DecidableEq, Repr

/-- The memory system beyond its registers. `bytes` holds memory by physical place: hub SRAM at its DPA, an external byte at
the stack or channel address of R323. -/
structure Mem where
  bytes : List Host.Cell := []
  poison : NMap Nat := []
  correctable : List Nat := []
  uncorrectable : List Nat := []
  blocks : NMap BlockTag := []
  tags : NMap Nat := []
  queue : List HomeOp := []
  gathers : List Gather := []
  hostCopies : List Nat := []
  biOpen : List Nat := []
  journal : List JEntry := []
  nextOp : Nat := 0
  modesHbm : Nat := 0
  modesLpddr : Nat := 0
  /-- The mode changes asked for and not applied, by group (an LPDDR group above 64): requests to the group from this order number on
  wait (R324). -/
  modeFrom : NMap Nat := []
  hbmAbsent : Bool := false
  lpddrAbsent : Bool := false
  /-- The limits of R346 by 8 × tier + class (tier 0 HBM, 1 LPDDR): every source's limits move alike. -/
  limits : NMap Nat := []
  /-- The turn of each home's round robin. -/
  arb : NMap Turn := []
  counts : NMap Nat := []
  hiLatch : NMap Nat := []
  srcSeq : NMap Nat := []
  deriving DecidableEq, Repr

/-! ### Queue Engine (R50 to R102, R178 to R196, R277) -/

/-- A context (R50, R51, R92). -/
structure Ctx where
  f : Nat
  pasid : Option Nat
  report : Bool
  drop : Bool
  draining : Bool := false
  drained : Bool := false
  used : Bool := false
  /-- Entries and commands the drain aborted so far (R92). -/
  aborted : Nat := 0
  deriving DecidableEq, Repr

/-- A submission queue (R56, R92). `fetchNext` is the entry number the next fetch reads, `next` the entry number dispatched
next, `stalled` the stop of R75. -/
structure Sq where
  f : Nat
  base : Nat
  log2 : Nat
  device : Bool
  weight : Nat
  berth : Option Nat
  owner : Nat
  cq : Nat
  en : Bool
  draining : Bool := false
  tailCount : Nat := 0
  fetchNext : Nat := 0
  next : Nat := 0
  issued : List Nat := []
  arrived : NMap (List Byte × Bool) := []
  ready : NMap (List Byte) := []
  tries : Nat := 0
  backoff : Bool := false
  stalled : Bool := false
  /-- Step 2 of R95 met an entry that was not written. -/
  drainEnd : Bool := false
  destroying : Bool := false
  /-- Entries already refused, whose numbers a re-fetch after a core restart passes over (R78). -/
  answered : List Nat := []
  /-- What completed commands of this SQ left behind at a narrower SCOPE (R188): links with unflushed writes, observations,
  remote acknowledgements, commands whose device writes may wait. -/
  carried : List Nat := []
  trailObs : List Nat := []
  trailRemote : List Nat := []
  trailK : List Nat := []
  deriving DecidableEq, Repr

/-- A completion or event record (R80), before its phase and time are known. -/
structure Rec where
  cmdId : Nat
  sq : Nat
  status : Nat
  detail : Nat
  ctx : Nat
  done : Nat
  fault : Nat
  irq : Bool := false
  k : Option Nat := none
  deriving DecidableEq, Repr

/-- A completion queue (R79, R84, R85). -/
structure Cq where
  f : Nat
  base : Nat
  log2 : Nat
  device : Bool
  vector : Nat
  irqCount : Nat
  irqTime : Nat
  berth : Option Nat
  head : Nat := 0
  written : Nat := 0
  unread : Nat := 0
  unsignalled : Nat := 0
  held : List Rec := []
  fullPosted : Bool := false
  lastLink : Option Nat := none
  irqWaits : Bool := false
  deriving DecidableEq, Repr

/-- A fence (R178, R184): status 0 OK, 1 ERROR, 2 ABANDONED. -/
structure Fence where
  value : DWord := 0
  status : Nat := 0
  deriving DecidableEq, Repr

/-- An allotted fence block (R190). -/
structure FBlock where
  f : Nat
  ctx : Nat
  deriving DecidableEq, Repr

/-- A stored recipe (R277). -/
structure Recipe where
  f : Nat
  steps : List Word
  deriving DecidableEq, Repr

/-- Where a dispatched command stands. -/
inductive Phase where
  /-- Waits on its wait fence (R182). -/
  | fence
  /-- Dispatched and waiting for a mover, a lane, its plan or its unit. -/
  | ready
  /-- Has begun to execute. -/
  | running
  /-- Its effect is complete; it waits for visibility at SCOPE and room in its CQ (R82). -/
  | finished
  deriving DecidableEq, Repr

/-- A dispatched command (R554): the entry's bytes and what the command has done so far. -/
structure Cmd where
  sq : Nat
  n : Nat
  raw : List Byte
  f : Nat
  ctx : Nat
  tenant : Nat
  pasid : Option Nat
  report : Bool
  drop : Bool
  phase : Phase
  status : Nat := 0
  detail : Nat := 0
  done : Nat := 0
  fault : Nat := 0
  poisonAt : Option (Nat × Nat) := none
  /-- The first poisoned destination line an addition met, with its DETAIL (R227, R314). -/
  dstPoison : Option (Nat × Nat) := none
  links : List Nat := []
  observing : List Nat := []
  flushes : List Nat := []
  /-- The links its flushing reads were sent on (R168). -/
  flushedOn : List Nat := []
  /-- It entered by dispatch, not by a refusal or an abort before it (R283). -/
  dispatched : Bool := false
  /-- Its record keeps ring order among the entries a drain's step 2 aborts (R95). -/
  inOrder : Bool := false
  /-- SIGNAL_FENCE named a fence of the command's function when the entry was checked (R65). -/
  sigOk : Bool := false
  remote : List Nat := []
  old : Option Nat := none
  stage : Nat := 0
  aux : Nat := 0
  /-- Bytes read for an atomic's result or for a step copy. -/
  buf : List PByte := []
  stop : Option (Nat × Nat) := none
  held : Bool := false
  /-- Waits for the host (R451), and the units committed when a detach was detected. -/
  waitsHost : Bool := false
  atDetach : Option Nat := none
  deriving DecidableEq, Repr

/-- The Queue Engine's objects and its table of dispatched commands, keyed by dispatch number. -/
structure Qe where
  sqs : NMap Sq := []
  cqs : NMap Cq := []
  ctxs : NMap Ctx := []
  fences : NMap Fence := []
  blocks : NMap FBlock := []
  recipes : NMap Recipe := []
  cmds : NMap Cmd := []
  nextK : Nat := 0
  served : List Nat := []
  /-- The fetch turn that waits for room among the 512 reads (R77): its SQ and the reads it has left. -/
  turn : Option (Nat × Nat) := none
  live : List Nat := []
  deriving DecidableEq, Repr

/-! ### Translation Unit (R103 to R157) -/

/-- Where a translated access goes: host memory on the bus, or a DPA (R110). -/
inductive OutKind where
  | host | dpa
  deriving DecidableEq, Repr

/-- An ATC entry (R110): a page or, in the central ATC, a range. -/
structure Xl where
  f : Nat
  pasid : Option Nat
  space : Nat
  base : Nat
  len : Nat
  out : Nat
  kind : OutKind
  rights : Rights
  /-- A merged range of the central ATC (R114), whatever its length. -/
  range : Bool := false
  deriving DecidableEq, Repr

/-- Why a page cannot be used. -/
inductive Bad where
  | absent
  /-- FAULT, DETAIL 0, whatever the fault policy (R131, R413, R471). -/
  | forced
  | timeout
  | short (missing : Rights)
  | reserved
  | tag (needed : Rights)
  | walkPoison
  | recall
  | link
  | host
  /-- A page of a peer's PLAN that its window refuses: the status and DETAIL to answer (R414). -/
  | refused (status detail : Nat)
  deriving DecidableEq, Repr

/-- How far the translation of one page of a plan has come. -/
inductive ItemSt where
  | need
  | wait (id : Nat)
  | held (id : Nat)
  | asked (grp : Nat)
  | planned (out : Nat)
  | remoteWait (tag out : Nat)
  | ok (out : Nat) (kind : OutKind)
  | bad (b : Bad)
  deriving DecidableEq, Repr

/-- One page of a plan: its space and input address, the first element's address in it (R136), the rights it needs. -/
structure Item where
  space : Nat
  page : Nat
  first : Nat
  rights : Rights
  /-- The function whose map a page of a peer's PLAN goes through, where it is not the plan's own: its window's (R414, R415). -/
  own : Option Nat := none
  st : ItemSt := .need
  asked : Bool := false
  deriving DecidableEq, Repr

/-- The plan of one tile, atomic, window set or partner request (R134, R268, R369). -/
structure Plan where
  who : Who
  f : Nat
  pasid : Option Nat
  tenant : Nat
  report : Bool
  cls : Nat
  items : List Item
  deriving DecidableEq, Repr

/-- An ATS Translation Request in flight (R111, R118): for the lookahead of a mover, or for demand. -/
structure AtsReq where
  id : Nat
  f : Nat
  pasid : Option Nat
  page : Nat
  lookahead : Option Nat
  stale : Bool := false
  deriving DecidableEq, Repr

/-- A device-map walk in flight (R122), under its requester's QoS class (R342). -/
structure Walk where
  id : Nat
  f : Nat
  page : Nat
  who : Who
  cls : Nat
  lookahead : Option Nat
  stale : Bool := false
  deriving DecidableEq, Repr

/-- A page request group in flight (R131). -/
structure Prg where
  grp : Nat
  f : Nat
  who : Who
  pages : List Nat
  deriving DecidableEq, Repr

/-- What an invalidation answers (R138). -/
inductive InvSrc where
  | ats (link itag : Nat) | dinv | root (f : Nat) | drain (k : Nat) | window (k : Nat) | teardown (f : Nat)
  deriving DecidableEq, Repr

/-- An invalidation in progress (R139): the range, the requests recorded in step 2 (host reads, accesses at homes, partners' and
peers' requests, AtomicOps at the host, remote requests), the berths still to acknowledge, the links whose recorded writes need a
flush. -/
structure Inv where
  id : Nat
  src : InvSrc
  f : Nat
  pasid : Option Nat
  anyPasid : Bool
  space : Nat
  base : Nat
  size : Nat
  reads : List Nat
  ops : List Nat
  asks : List (Nat × Nat) := []
  peers : List (Nat × Nat × Nat) := []
  atomics : List Nat := []
  remotes : List Nat := []
  berths : List (Nat × Nat)
  flushes : List Nat
  links : List Nat
  started : Nat
  deriving DecidableEq, Repr

/-- An access-counter tracker entry (R146): the granule, its ten counters, and how many counted lines were writes. -/
structure Granule where
  granule : Nat
  counts : List Nat
  writes : List Nat
  deriving DecidableEq, Repr

/-- The Translation Unit beyond its registers. -/
structure Tu where
  region : NMap (List Xl) := []
  central : List Xl := []
  ahead : NMap (List Xl) := []
  plans : List Plan := []
  ats : List AtsReq := []
  walks : List Walk := []
  prgs : List Prg := []
  priStopped : List Nat := []
  invs : List Inv := []
  granules : List Granule := []
  nextId : Nat := 0
  migWritten : Nat := 0
  deriving DecidableEq, Repr

/-! ### Gantry (R197 to R237, R306 to R316) -/

/-- Where a mover or lane stands in its tile. -/
inductive TilePhase where
  | start | aux | auxRead | plan | reading | loaded
  deriving DecidableEq, Repr

/-- A mover or reduce lane at work: its command, the tile, the bytes read so far. -/
structure Job where
  k : Nat
  tile : Nat := 0
  phase : TilePhase := .start
  buf : List PByte := []
  aux : List PByte := []
  /-- Index entries a GATHER's earlier tiles used (R231). -/
  seen : List PByte := []
  /-- Output ranges the command has read and written so far, and those of the written it read later (R231). -/
  reads : List (OutKind × Nat × Nat) := []
  wrotes : List (OutKind × Nat × Nat) := []
  freed : List (OutKind × Nat × Nat) := []
  /-- Pieces of the tile already written, one page at a time (R144). -/
  wrote : Nat := 0
  /-- RED_COMPARE's running counts: mismatches, first, no majority (R313). -/
  mism : Nat := 0
  first : Option Nat := none
  noMaj : Nat := 0
  deriving DecidableEq, Repr

/-- The Gantry beyond its registers. -/
structure Gm where
  movers : NMap Job := []
  lanes : NMap Job := []
  scrubbing : List Nat := []
  deriving DecidableEq, Repr

/-! ### Churn (R238 to R285) -/

/-- A superaccumulator (R299). RANGE is set exactly when COUNT is at least 2^40, so it is computed. -/
structure Acc where
  value : BitVec 320 := 0
  count : DWord := 0
  nan : Bool := false
  posInf : Bool := false
  negInf : Bool := false
  poison : Bool := false
  deriving DecidableEq, Repr

/-- A value an engine's XCH or ACCX step showed its partners (R266): command, round, engine, step, iteration. -/
structure Shown where
  k : Nat
  round : Nat
  engine : Nat
  step : Nat
  iter : Nat
  vec : Vec
  poison : Bool
  acc : Acc
  deriving DecidableEq, Repr

/-- An engine's registers (R240) and the window it runs: command, window number, round, step, iteration. -/
structure Eng where
  v : NMap Vec := []
  vp : List Nat := []
  acc : NMap Acc := []
  g : NMap (Nat × Nat) := []
  win : Option Nat := none
  k : Nat := 0
  round : Nat := 0
  step : Nat := 0
  iter : Nat := 0
  atBar : Bool := false
  deriving DecidableEq, Repr

/-- One planned window of a command: its number and the DPA it is placed at (R268). -/
structure Win where
  w : Nat
  dpa : Nat
  runs : Bool
  started : Bool := false
  ended : Bool := false
  /-- Ran its recipe to the end. -/
  whole : Bool := false
  deriving DecidableEq, Repr

/-- A CHURN command being planned or running: its steps, broadcast lines, placed windows, the translation that died (R273), the
base of the window an engine fault abandoned (R280). -/
structure Run where
  steps : List Word
  bcast : List (Vec × Bool) := []
  wins : List Win := []
  planned : Bool := false
  reading : Bool := false
  buf : List PByte := []
  clusters : List Nat := []
  stop : Option (Bad × Nat) := none
  fault : Option Nat := none
  deriving DecidableEq, Repr

/-- A cluster (R281, R284): the engines quarantined and retired, spares, where each logical engine is built, the command it
runs, and whether a reset is asked or runs. -/
structure Cluster where
  quar : List Nat := []
  retired : List Nat := []
  spares : Nat := 2
  map : NMap Nat := []
  qrec0 : Word := 0
  qrec1 : Word := 0
  run : Option Nat := none
  asked : Bool := false
  resetting : Bool := false
  deriving DecidableEq, Repr

/-- The Churn array beyond its registers. -/
structure Ch where
  runs : NMap Run := []
  clusters : NMap Cluster := []
  engines : NMap Eng := []
  shown : List Shown := []
  deriving DecidableEq, Repr

/-! ### Quays (R351 to R389) -/

/-- A snoop-filter entry (R374): the line, its holders, whether it is Modified, and the tenant it was granted under. -/
structure SfEntry where
  line : Nat
  holders : List Nat
  modified : Bool
  tenant : Nat := 0
  deriving DecidableEq, Repr

/-- A partner's request without its answer: the message, how far it has come, and whether its berth has stayed. -/
structure Open where
  msg : BresaMsg
  issued : Bool := false
  live : Bool := true
  /-- The translated pages of a bounce context's request, which is answered by way of whole units (R471). -/
  items : List Item := []
  deriving DecidableEq, Repr

/-- A berth. States as QY.B_STAT.STATE: 0 OFF to 6 PAIRED_UPPER. -/
structure Berth where
  st : Nat := 0
  cxl : Bool := false
  paired : Bool := false
  depart : Nat := 0
  modules : Nat := 0
  half : Nat := 0
  rate : Nat := 0
  major : Nat := 0
  minor : Nat := 0
  caps : Nat := 0
  card : List Byte := []
  grants : List Nat := []
  unbinds : List Nat := []
  opens : NMap Open := []
  /-- Open snoops: tag and line. -/
  snoops : List (Nat × Nat) := []
  invs : List (Nat × Nat) := []
  rxCredits : List Nat := [512, 256, 64, 64, 8, 8, 64]
  txCredits : List Nat := [0, 0, 0, 0, 0, 0, 0]
  waiting : List BresaMsg := []
  carded : Bool := false
  evicting : Bool := false
  powered : Bool := false
  resetPin : Bool := true
  asked : Nat := 0
  granted : Nat := 0
  counted : Nat := 0
  /-- Grants sent that do not hold yet: start time and level (R531). -/
  rises : List (Nat × Nat) := []
  /-- The TCLK edge at which BRST_N was released. -/
  edge : Nat := 0
  nextTag : Nat := 0
  deriving DecidableEq, Repr

/-- The Quays: the berths and the snoop filter. -/
structure Qy where
  berths : NMap Berth := []
  filter : List SfEntry := []
  /-- When the last supply enable was asserted (R520). -/
  staggerLast : Option Nat := none
  deriving DecidableEq, Repr

/-! ### Hawser links and streams (R390 to R427) -/

/-- A Hawser or Ethernet link. States as HL.L_STAT.STATE. -/
structure Link where
  st : Nat := 0
  lanes : Nat := 0
  /-- The best announcement heard from the peer: candidate, hops, heartbeat (R402). -/
  heard : Option (Nat × Nat × Nat) := none
  peer : Option Nat := none
  peerVersion : Nat := 0
  peerGrade : Nat := 0
  peerHops : Option Nat := none
  peerManager : Option Nat := none
  epoch : Nat := 0
  replays : Nat := 0
  flits : Nat := 0
  keyGen : Nat := 0
  /-- Whether the peer has asked for a key update that has not been performed (R475). -/
  rekeyAsked : Bool := false
  gptpOfs : BitVec 64 := 0
  deriving DecidableEq, Repr

/-- An inbound window (R409). -/
structure InWin where
  f : Nat
  base : Nat
  len : Nat
  rights : Rights
  tag : Nat
  allowId : Nat
  allowMask : Nat
  open_ : Bool := true
  deriving DecidableEq, Repr

/-- An outbound window (R409). -/
structure OutWin where
  f : Nat
  target : Nat
  win : Nat
  len : Nat
  rights : Rights
  deriving DecidableEq, Repr

/-- A window-directory entry the manager holds (R411). -/
structure DirEntry where
  hub : Nat
  win : Nat
  tag : Nat
  len : Nat
  rights : Rights
  allowId : Nat
  allowMask : Nat
  deriving DecidableEq, Repr

/-- A remote request of this hub that has no answer yet: its tag, link, the party, what it is. -/
structure RemOut where
  tag : Nat
  link : Nat
  who : Who
  kind : Nat
  va : Nat
  len : Nat
  win : Nat
  seq : Nat := 0
  /-- The aperture address it goes to. -/
  at_ : Nat := 0
  /-- The outbound windows of a PLAN's pages. -/
  wins : List Nat := []
  deriving DecidableEq, Repr

/-- A request this hub has passed on and that has no answer yet (R396, R401): the tag it goes on under, the link it went on, and the link, the
source and the tag it came with. -/
structure Forwarded where
  tag : Nat
  link : Nat
  inLink : Nat
  src : Nat
  inTag : Nat
  deriving DecidableEq, Repr

/-- An inbound remote request that waits for a walk, a hold or a home. -/
structure RemIn where
  req : RemReq
  f : Nat
  dva : Nat
  issued : Bool := false
  deriving DecidableEq, Repr

/-- A PLAN that the lookahead sent for a coming tile of mover m: its tag, the hub it went to, the aperture pages with the rights asked for, and
whether it was answered OK (R415). -/
structure AheadPlan where
  m : Nat
  tag : Nat
  hub : Nat
  pages : List (Nat × Nat)
  ok : Bool := false
  deriving DecidableEq, Repr

/-- The Hawser system state: role as HL.SYS_STAT.STATE. -/
structure Hl where
  ahead : List AheadPlan := []
  links : NMap Link := []
  inw : NMap InWin := []
  outw : NMap OutWin := []
  dir : List DirEntry := []
  known : List Nat := []
  /-- ID requests sent toward the manager without an answer, oldest first: this hub's own (none) or one relayed for a link (R399). -/
  idAsks : List (Option Nat) := []
  /-- Whether this hub has named its fixed ID to a manager (R400). -/
  claimed : Bool := false
  /-- The links on which hubs named their fixed IDs to this hub as manager, by ID (R400). -/
  claims : NMap Nat := []
  /-- The WINDOW_CREATEs whose REGISTER or RESOLVE has no answer yet, each with the link it went on (R396). -/
  winAsks : List (Nat × Nat) := []
  forwards : List Forwarded := []
  outs : List RemOut := []
  ins : List RemIn := []
  role : Nat := 0
  idValid : Bool := false
  hubId : Nat := 0
  manager : Option Nat := none
  cand : Option Nat := none
  hops : Nat := 0
  beat : Nat := 0
  upstream : Nat := 0
  /-- The last measured offset to the upstream neighbour, ns: positive when this hub is behind. -/
  offset : Int := 0
  nextTag : Nat := 0
  slew : Int := 0
  slewLeft : Nat := 0
  deriving DecidableEq, Repr

/-- A buffered AVTP packet (R418). -/
structure Packet where
  frame : Avtp
  arrival : Nat
  present : Nat
  gap : Bool
  taken : Nat := 0
  deriving DecidableEq, Repr

/-- A stream channel (R417 to R422). -/
structure Chan where
  link : Nat
  kind : Nat
  sample : Nat
  streamId : Nat
  width : Nat
  height : Nat
  ring : Nat
  pitch : Nat
  slots : Nat
  cls : Nat
  deadline : Nat
  desc : Nat
  descLog2 : Nat
  vector : Nat
  input : List Packet := []
  cur : Option Nat := none
  lastSlot : Option Nat := none
  /-- The last slot is free again: its descriptor was discarded (R421). -/
  lastFree : Bool := false
  first : Nat := 0
  present : Nat := 0
  seq : Nat := 0
  /-- Payload bytes placed in the current slot's records. -/
  bytes : Nat := 0
  lines : List Nat := []
  gap : Bool := false
  dropped : Bool := false
  written : Nat := 0
  lastAvtp : Option Nat := none
  ending : Bool := false
  /-- The current frame is dropped for want of a slot; the slot waits for its writes before its descriptor. -/
  dead : Bool := false
  closing : Bool := false
  /-- When the slot completed (R421). -/
  done : Nat := 0
  deriving DecidableEq, Repr

/-- The stream engine. `map` is the slot table in force in the engine frame (R419). -/
structure St where
  chans : NMap Chan := []
  slot : Nat := 0
  map : List Nat := []
  deriving DecidableEq, Repr

/-! ### What leaves the hub -/

/-- How a request to host memory is marked (R105): the function it is made for, its PASID, and whether its address is translated. -/
structure HostTag where
  f : Nat
  pasid : Option Nat := none
  translated : Bool := false
  deriving DecidableEq, Repr

/-- What the hub sends out of its ports, newest first in State.out. -/
inductive Out where
  /-- A memory write on a host link: address, bytes, poison, CXL.cache or PCIe. -/
  | hostWrite (link addr : Nat) (bytes : List Byte) (poison cxl : Bool) (tag : HostTag)
  | hostRead (link id addr len : Nat) (tag : HostTag)
  | flushRead (link id : Nat)
  | hostAtomic (link k addr : Nat) (op : AOp) (size a b : Nat) (tag : HostTag)
  /-- An MSI-X message: link, function, vector. -/
  | msix (link f vector : Nat)
  | atsRequest (id f : Nat) (pasid : Option Nat) (page : Nat)
  | pageRequest (grp f : Nat) (pasid : Option Nat) (pages : List Nat) (last : Bool)
  | invalidateCompletion (link itag : Nat)
  | hostData (link tag : Nat) (bytes : List Byte) (poison : Bool)
  | backInvalidate (line : Nat)
  | snoopMiss (addr : Nat)
  /-- The annex-changed event to the PF driver (R28). -/
  | annexChanged
  | unsupported (link : Nat)
  /-- An LTR message on link 0: the latency in µs that the hub tolerates, snoop and no-snoop, or no requirement (R445). -/
  | ltr (us : Option Nat)
  /-- Configuration Request Retry Status (R490). -/
  | configRetry (link : Nat)
  | regRead (o : Origin) (page : Page) (off value : Nat)
  /-- A Bresa message to berth b. -/
  | bresa (b : Nat) (m : BresaMsg)
  | cxlData (b addr : Nat) (bytes : List Byte) (poison : Bool)
  /-- A Hawser message: link, message name, its numbers. -/
  | hawser (link : Nat) (name : String) (args : List Nat)
  | remote (link : Nat) (r : RemReq)
  | remoteAck (link dst tag status detail : Nat) (bytes : List Byte) (poison : Bool)
  | gptp (link time : Nat)
  | spdm (answer : String) (args : List Nat)
  /-- A pin of the package: name and level. -/
  | pin (name : String) (i : Nat) (level : Bool)
  /-- A core's vector port (R503). -/
  | vector (core addr : Nat)
  | coreError (o : Origin)
  deriving DecidableEq, Repr

/-! ### Gangway (R428 to R455) -/

/-- A host link. -/
structure HostLink where
  up : Bool := false
  cxl : Bool := false
  width : Nat := 0
  rate : Nat := 0
  deriving DecidableEq, Repr

/-- A read of host memory in flight. -/
structure HostRead where
  id : Nat
  link : Nat
  who : Who
  va : Nat
  bus : Nat
  len : Nat
  /-- When it was sent, ns since whole-die reset. -/
  sent : Nat := 0
  deriving DecidableEq, Repr

/-- A flushing read in flight (R168, R139 step 5). -/
structure Flush where
  id : Nat
  link : Nat
  inv : Option Nat
  k : Option Nat
  deriving DecidableEq, Repr

/-- A CXL.cache write whose global-observation response is awaited (R160): what is written, for snoops (R443). -/
structure Observe where
  id : Nat
  link : Nat
  k : Option Nat
  addr : Nat
  len : Nat
  deriving DecidableEq, Repr

/-- A committed HDM decoder (R443). -/
structure Hdm where
  base : Nat
  size : Nat
  dpa : Nat
  tenant : Nat
  deriving DecidableEq, Repr

/-- A decoder's base, size, CXL DPA and interleave ways as programmed (R442, R443). -/
structure HdmRegs where
  base : Nat
  size : Nat
  dpa : Nat
  ways : Nat
  deriving DecidableEq, Repr

/-- A register access of the host, or a BAR4 write by a function. -/
inductive HostReg where
  | write (w : RegWr)
  | read (o : Origin) (p : Page) (off size : Nat)
  | bell (f page off size v : Nat)
  | commit (d : Nat) (r : HdmRegs)
  deriving DecidableEq, Repr

/-- The Gangway beyond its registers. Enables (`fns`) and D3hot functions (`d3`) are numbered 64 × link + function. -/
structure Gw where
  links : NMap HostLink := []
  fns : NMap FnCfg := []
  /-- Whether the last LTR message stated a requirement (R445). -/
  ltrTold : Bool := false
  /-- The BARs' writable bits, numbered 8 × link + BAR (R438). -/
  bars : NMap DWord := []
  vfEnable : Bool := false
  numVfs : Nat := 0
  d3 : List Nat := []
  detached : Bool := false
  heldOver : Bool := false
  /-- NumVFs as the first detach found it (R453). -/
  vfsAtDetach : Nat := 0
  /-- MSI-X messages that wait for the host: function and vector. -/
  heldMsi : List (Nat × Nat) := []
  reads : List HostRead := []
  flushes : List Flush := []
  observes : List Observe := []
  hdm : NMap Hdm := []
  /-- What was last programmed into each decoder, committed or not (R443). -/
  hdmRegs : NMap HdmRegs := []
  /-- Decoders that read Error Not Committed. -/
  hdmErr : List Nat := []
  /-- Links that carried posted writes of partners under a function's translations: function and link (R139 step 5). -/
  partnerLinks : List (Nat × Nat) := []
  nextId : Nat := 0
  wakePin : Bool := false
  perst : Bool := false
  /-- Register accesses and doorbells of the host, oldest first, that follow BAR2 writes still waiting at their homes, each with the order number
  of the first access that came after it (R440). -/
  later : List (Nat × HostReg) := []
  /-- PERST# came while the PF was in D3hot: the main rails that fall now are those of D3cold (R448). -/
  cold : Bool := false
  deriving DecidableEq, Repr

/-! ### Separator (R456 to R485) -/

/-- A key slot (R458): state 1 ACTIVE or 2 QUARANTINE; a FREE slot is not listed. -/
structure Slot where
  st : Nat
  bounce : Bool
  f : Nat
  ctx : Nat
  key : Nat
  bufBase : Nat := 0
  bufLen : Nat := 0
  tagBase : Nat := 0
  counter : Nat := 0
  deriving DecidableEq, Repr

/-- A teardown in progress (R481): its step, the ranges of external memory to scrub, and the bytes still to scrub. -/
structure Teardown where
  f : Nat
  step : Nat
  exts : List (Nat × Nat) := []
  left : Nat := 0
  deriving DecidableEq, Repr

/-- The DICE alias certificate (R478, R479): the digests of the images and of the flash configuration, the fused anti-rollback counter,
MF.HUB_VERSION, MF.GRADE and SP.DEBUG as boot left them, and the alias key it certifies. -/
structure AliasCert where
  images : List (BitVec 384) := []
  config : BitVec 384 := 0
  svn : Nat := 0
  version : Nat := 0
  grade : Nat := 0
  debug : Nat := 0
  key : BitVec 384 := 0
  deriving DecidableEq, Repr

/-- The Separator beyond its registers. -/
structure Sp where
  /-- The alias certificate of this boot (R478, R479). -/
  alias_ : AliasCert := {}
  slots : NMap Slot := []
  nextKey : Nat := 0
  trngOk : Bool := true
  /-- Open secured sessions, each with a number no other session ever has. -/
  sessions : List (Nat × Nat) := []
  handshakes : List (Nat × Nat) := []
  negotiated : Nat := 0
  teardowns : List Teardown := []
  retag : Option (Nat × Nat × Nat) := none
  nextSession : Nat := 0
  deriving DecidableEq, Repr

/-! ### Harbourmaster and event controller (R486 to R513) -/

/-- A protection region of a core (R493): first and last 4 KiB unit of DPA, and its permissions. -/
structure Prot where
  base : Nat
  limit : Nat
  r : Bool
  w : Bool
  x : Bool
  deriving DecidableEq, Repr

/-- A firmware core: 0 running, 1 reset, 2 reloading (R509). -/
structure Core where
  st : Nat := 1
  cause : Nat := 0
  crashes : Nat := 0
  recent : List Nat := []
  run : Nat := 64
  stack : List Nat := []
  inService : List Nat := []
  /-- Set by the Keeper when it releases or reloads the core (R494). -/
  regions : List Prot := []
  /-- When the core's watchdog was last restarted, ns since whole-die reset (R497). -/
  kicked : Nat := 0
  deriving DecidableEq, Repr

/-- The Harbourmaster beyond its registers. `stage` 0 boot ROM, 1 recovery, 2 functions presented. -/
structure Hm where
  stage : Nat := 0
  cores : NMap Core := []
  flash : List Host.Cell := []
  flashOp : Option (Nat × Nat) := none
  slotUsed : Nat := 0
  fusedSvn : Nat := 0
  imageSvn : Nat := 0
  svnBusy : Bool := false
  deriving DecidableEq, Repr

/-- The event controller (R500 to R513): pending and unmasked sources, the source table, messages in this millisecond. -/
structure Ec where
  pend : List Nat := []
  unmasked : List Nat := []
  cfg : NMap Word := []
  storm : NMap Nat := []
  deriving DecidableEq, Repr

/-! ### Sluice and Tidegauge (R514 to R546) -/

/-- The Sluice. `power` is the power-up stage of R519: 0 VIN_AON off, 1 to 4 waiting for RAIL_PG 0 to 3, 5 waiting for the Keel, 6 up,
7 held after a rail failure, 8 VIN_AON up with the main rails down: asleep in H4, or held by a CHECKPOINT rule. `ramp` is what follows the running ramp: 1 whole-die reset, 2 H2, 3 H3, 4 H4, 5 checkpoint. -/
structure Sl where
  power : Nat := 6
  h : Nat := 0
  ramp : Option Nat := none
  rampCause : Nat := 0
  railEn : Nat := 15
  ballast : Nat := 0
  hubW : Nat := 0
  pkgLo : Nat := 0
  ckptH3 : Bool := false
  /-- The checkpoint came in an ordinary H3, whose exit has hub SRAM outside the island still to lose (R523). -/
  sramGone : Bool := false
  thermalH4 : Bool := false
  mpwr : Nat := 0
  lpwr : Nat := 0
  /-- The 100 µs interval last counted as throttled (R528). -/
  throttledAt : Option Nat := none
  /-- A fall beyond what ballast holds goes on, counted already (R529). -/
  falling : Bool := false
  deriving DecidableEq, Repr

/-- A Tidegauge rule's running state: whether it is tripped, and consecutive values beyond THR. -/
structure RuleSt where
  tripped : Bool := false
  run : Nat := 0
  deriving DecidableEq, Repr

/-- An analog channel (R536): raw sample, last five samples, filter output. -/
structure Chn where
  raw : Nat := 0
  last : List Nat := []
  y : Option Int := none
  out : Nat := 0
  deriving DecidableEq, Repr

/-- A Tidegauge log record (R543). -/
structure TgRec where
  time : Nat
  rule : Nat
  action : Nat
  value : Nat
  deriving DecidableEq, Repr

/-- Tidegauge. Its registers live here because they survive a whole-die reset (R15, R545). -/
structure Tg where
  regs : NMap Word := []
  chans : NMap Chn := []
  rules : NMap RuleSt := []
  log : NMap TgRec := []
  next : Nat := 0
  us : Nat := 0
  faultPin : Bool := false
  ckpt : Bool := false
  ckptDone : Bool := false
  last : Nat := 0
  cause : Nat := 0
  throttles : NMap Nat := []
  hot : List Nat := []
  wake : Option Nat := none
  deriving DecidableEq, Repr

/-! ### Logbook -/

/-- A Logbook entry (R40). The register's place is kept as its page and offset; its OFFSET is LogEntry.offset in Views.lean. -/
structure LogEntry where
  seq : Nat
  time : Nat
  origin : Origin
  flags : Nat
  page : Option Page
  off : Nat
  old : Nat
  new : Nat
  deriving DecidableEq, Repr

/-- The Logbook (R38 to R49): the ring, newest entry first, and its numbers. -/
structure Lb where
  ring : List LogEntry := []
  seq : Nat := 0
  tail : Nat := 0
  doorbells : Nat := 0
  fences : Nat := 0
  denied : Bool := false
  overrun : Bool := false
  deriving DecidableEq, Repr

/-- The grade and what the die's fuses and straps fix (R4, R429, R480, R518, R533). -/
structure Fuses where
  vehicle : Bool := false
  split0 : Bool := false
  p1mode : Nat := 0
  debugLock : Bool := false
  /-- The code that VID[3:0] carries: 9 to 15 are never driven (R518). -/
  vid : Fin 9 := 0
  pFloor : Nat := 90
  deriving DecidableEq, Repr

/-- What the hub keeps under a check code of R555: the journal of a home, and the state of an SQ, a CQ, a context and a fence. -/
inductive Kept where
  | journal (home : Nat) | sq (q : Nat) | cq (q : Nat) | ctx (n : Nat) | fence (n : Nat)
  deriving DecidableEq, Repr

/-- The whole state. -/
structure State where
  fuses : Fuses := {}
  /-- What holds an error that its check code cannot correct, not met yet (R555). -/
  damaged : List Kept := []
  /-- Hub global time in ns (R17). -/
  time : DWord := 0
  /-- TCLK edges since whole-die reset. -/
  tclk : Nat := 0
  /-- Block-page registers by key (page, bank, offset), where they differ from their reset value. -/
  regs : NMap Word := []
  /-- The value the most recent read of a register returned (R43). -/
  lastRead : NMap Word := []
  /-- The register file as latched at the last 1 ms boundary, for VF reads of counters (R483). -/
  latched : NMap Word := []
  /-- The DPA a page's ERR_CAP records beside its code and origin, by the key of that register (R19). -/
  errDpa : NMap Nat := []
  lb : Lb := {}
  mem : Mem := {}
  qe : Qe := {}
  tu : Tu := {}
  gm : Gm := {}
  ch : Ch := {}
  qy : Qy := {}
  hl : Hl := {}
  st : St := {}
  gw : Gw := {}
  sp : Sp := {}
  hm : Hm := {}
  ec : Ec := {}
  sl : Sl := {}
  tg : Tg := {}
  out : List Out := []
  /-- The model's own field: how many free values have been drawn. -/
  fresh : Nat := 0
  /-- Commands waiting, first in, first out. -/
  pending : List Instr := []
  deriving DecidableEq, Repr

/-- The hub right after the Sluice releases the die reset of a first power-up (time 0 of R490), with nothing waiting. -/
def State.reset : State := {}

end Sys2Proof.Machine
end

