-- ==== Sys2Proof/Machine/Maps.lean ====
section
/-! DEFINITION. The sparse tables: look-up, update, removal; and bytes of memory in the same canonical form. -/

namespace Sys2Proof.Machine

/-- The value at key k. -/
def mget {α : Type} : NMap α → Nat → Option α
  | [], _ => none
  | (a, v) :: t, k => if a = k then some v else mget t k

/-- The value at key k, or d. -/
def mgetD {α : Type} (m : NMap α) (k : Nat) (d : α) : α := (mget m k).getD d

/-- m with v at key k, keys kept rising. -/
def mset {α : Type} : NMap α → Nat → α → NMap α
  | [], k, v => [(k, v)]
  | (a, w) :: t, k, v => if k < a then (k, v) :: (a, w) :: t else if a = k then (k, v) :: t else (a, w) :: mset t k v

/-- m without key k. -/
def mdel {α : Type} (m : NMap α) (k : Nat) : NMap α := m.filter fun p => p.1 ≠ k

/-- m with f applied at key k, if it is there. -/
def mupd {α : Type} (m : NMap α) (k : Nat) (f : α → α) : NMap α := m.map fun p => if p.1 = k then (p.1, f p.2) else p

/-- m with f applied at key k, taking d where nothing is listed. -/
def mmod {α : Type} (m : NMap α) (k : Nat) (d : α) (f : α → α) : NMap α := mset m k (f (mgetD m k d))

/-- Whether key k is listed. -/
def mhas {α : Type} (m : NMap α) (k : Nat) : Bool := (mget m k).isSome

/-- The least key from lo up to hi that m does not list. -/
def mfree {α : Type} (m : NMap α) (lo hi : Nat) : Option Nat :=
  ((List.range' lo (m.length + 1)).find? fun k => !mhas m k).filter (· < hi)

/-- m with v at key k, in the canonical form whose entries differ from the default d. -/
def mput {α : Type} [DecidableEq α] (d : α) (m : NMap α) (k : Nat) (v : α) : NMap α :=
  if v = d then mdel m k else mset m k v

/-- What an unlisted byte of device memory reads as. DESIGN CHOICE: zero (log entry 5). -/
def Memory.blank : Byte := 0

/-- The byte at a physical place. -/
def Memory.read (m : List Host.Cell) (a : Nat) : Byte := mgetD m a Memory.blank

/-- m with byte b at physical place a. -/
def Memory.write (m : List Host.Cell) (a : Nat) (b : Byte) : List Host.Cell := mput Memory.blank m a b

/-- The canonical form: addresses strictly rising, no entry equal to what an unlisted address reads as. -/
abbrev Memory.wf (m : List Host.Cell) : Prop :=
  (m.map Prod.fst).Pairwise (· < ·) ∧ ∀ c ∈ m, c.2 ≠ Memory.blank

/-- The bytes from physical place a on, n of them. -/
def Memory.readN (m : List Host.Cell) (a n : Nat) : List Byte := (List.range n).map fun i => Memory.read m (a + i)

/-- m with the listed bytes from physical place a on. -/
def Memory.writeN (m : List Host.Cell) (a : Nat) (bs : List Byte) : List Host.Cell :=
  (bs.zipIdx).foldl (fun m p => Memory.write m (a + p.2) p.1) m

end Sys2Proof.Machine
end

