-- ==== Sys2Proof/Machine/Bits.lean ====
section
/-! DEFINITION. Bit fields and little-endian bytes. -/

namespace Sys2Proof.Machine

/-- Bits [hi:lo] of n. -/
def bits (n hi lo : Nat) : Nat := n / 2 ^ lo % 2 ^ (hi + 1 - lo)

/-- Bit i of n. -/
def bit (n i : Nat) : Bool := n.testBit i

/-- The mask of bits [hi:lo]. -/
def mask (hi lo : Nat) : Nat := (2 ^ (hi + 1 - lo) - 1) * 2 ^ lo

/-- The number little-endian bytes stand for. -/
def leNat : List Byte → Nat
  | [] => 0
  | b :: t => b.toNat + 256 * leNat t

/-- The n little-endian bytes of v. -/
def leBytes : Nat → Nat → List Byte
  | 0, _ => []
  | n + 1, v => BitVec.ofNat 8 v :: leBytes n (v / 256)

/-- The little-endian field of n bytes at byte off of a structure. -/
def fld (raw : List Byte) (off n : Nat) : Nat := leNat ((raw.drop off).take n)

/-- n read as a w-bit two's complement integer. -/
def sext (w n : Nat) : Int := if 2 ^ (w - 1) ≤ n % 2 ^ w then (n % 2 ^ w : Int) - 2 ^ w else (n % 2 ^ w : Int)

/-- The w-bit two's complement encoding of i. -/
def twos (w : Nat) (i : Int) : Nat := (i % (2 ^ w : Int)).toNat

/-- n within lo and hi. -/
def clampN (lo hi n : Nat) : Nat := Nat.max lo (Nat.min hi n)

/-- n as its field, where 0 acts as 1. -/
def zero1 (n : Nat) : Nat := if n = 0 then 1 else n

/-- Rounded-up quotient. -/
def cdiv (a b : Nat) : Nat := (a + b - 1) / b

/-- A Bool as a bit. -/
def b2n (b : Bool) : Nat := if b then 1 else 0

/-- The bytes of an engine vector, byte 0 first. -/
def vecBytes (v : Vec) : List Byte := leBytes 64 v.toNat

/-- The vector of 64 bytes. -/
def vecOf (bs : List Byte) : Vec := BitVec.ofNat 512 (leNat bs)

/-- 32-bit lane i of a vector. -/
def lane (v : Vec) (i : Nat) : Word := BitVec.ofNat 32 (v.toNat / 2 ^ (32 * i))

/-- v with 32-bit lane i replaced. -/
def setLane (v : Vec) (i : Nat) (x : Word) : Vec :=
  BitVec.ofNat 512 (v.toNat % 2 ^ (32 * i) + x.toNat * 2 ^ (32 * i) + v.toNat / 2 ^ (32 * i + 32) * 2 ^ (32 * i + 32))

/-- A vector of 16 lanes. -/
def ofLanes (f : Nat → Word) : Vec :=
  BitVec.ofNat 512 (((List.range 16).map fun i => (f i).toNat * 2 ^ (32 * i)).sum)

/-- Split a byte range at multiples of unit: the pieces' addresses and lengths. -/
def pieces (unit a n : Nat) : List (Nat × Nat) :=
  ((List.range (cdiv (a % unit + n) unit)).map fun i =>
    let s := Nat.max a ((a / unit + i) * unit)
    (s, Nat.min (a + n) ((a / unit + i + 1) * unit) - s)).filter fun p => p.2 ≠ 0

/-- Serial arithmetic of fences, R178: a is at or past b. -/
def reaches (a b : DWord) : Bool := (a - b).toNat < 2 ^ 63

/-- R178: a signal of v advances a fence holding c. -/
def advances (v c : DWord) : Bool := v ≠ c && reaches v c

/-- The stamp of entry n, R67. -/
def stampOf (n : Nat) : Nat := 1 + n % 65535

/-- Phase of record m in a ring of 2^k records, R81. -/
def phaseOf (m k : Nat) : Bool := m / 2 ^ k % 2 = 0

end Sys2Proof.Machine
end

