-- ==== Sys2Proof/Machine/Formats.lean ====
section
/-! DEFINITION. Number formats and rounding: encodings (R287, R288), exact values (R290), round_to (R291 to R293, R566), the
stochastic generator (R294), FP32 lane arithmetic (R253), EXP and RCP (R257), MX scales. -/

namespace Sys2Proof.Machine

/-- The exact value of an encoding (R290): NaN, an infinity, or a signed dyadic number m · 2^e. A zero keeps its sign. -/
inductive Num where
  | nan
  | inf (neg : Bool)
  | fin (neg : Bool) (m : Nat) (e : Int)
  deriving DecidableEq, Repr

/-- Parameters of a floating-point format (R287): exponent and mantissa widths, bias, and whether all-ones exponents are
infinity and NaN (true), E4M3's single NaN (false, nan1), or neither. -/
structure FFmt where
  eb : Nat
  mb : Nat
  bias : Nat
  ieee : Bool
  nan1 : Bool
  deriving DecidableEq, Repr

/-- An element format of R200. -/
inductive Fmt where
  | flt (f : FFmt)
  | int (w : Nat) (signed : Bool)
  deriving DecidableEq, Repr

/-- FP32 of R287. -/
def fp32 : FFmt := ⟨8, 23, 127, true, false⟩

/-- The format of code c of R200; RAW8 is read as an unsigned byte. -/
def fmtOf (c : Nat) : Fmt :=
  match c with
  | 1 => .flt fp32
  | 2 => .flt ⟨5, 10, 15, true, false⟩
  | 3 => .flt ⟨8, 7, 127, true, false⟩
  | 4 => .flt ⟨4, 3, 7, false, true⟩
  | 5 => .flt ⟨5, 2, 15, true, false⟩
  | 6 => .int 8 true
  | 7 => .int 8 false
  | 8 => .int 16 false
  | 9 => .int 32 true
  | 10 => .int 4 true
  | 11 => .flt ⟨4, 3, 7, false, true⟩
  | 12 => .flt ⟨5, 2, 15, true, false⟩
  | 13 => .flt ⟨3, 2, 3, false, false⟩
  | 14 => .flt ⟨2, 3, 1, false, false⟩
  | 15 => .flt ⟨2, 1, 1, false, false⟩
  | _ => .int 8 false

/-- Width in bits of format code c. -/
def fmtWidth (c : Nat) : Nat :=
  match fmtOf c with
  | .flt f => 1 + f.eb + f.mb
  | .int w _ => w

/-- The exponent of the least significant bit of the format's subnormals. -/
def FFmt.low (f : FFmt) : Int := 1 - (f.bias : Int) - (f.mb : Int)

/-- The canonical quiet NaN of R289; formats without NaN never need one. -/
def FFmt.qnan (f : FFmt) : Nat :=
  if f.nan1 then 2 ^ (f.eb + f.mb) - 1 else (2 ^ f.eb - 1) * 2 ^ f.mb + 2 ^ (f.mb - 1)

/-- The encoding of the largest finite magnitude. -/
def FFmt.maxBits (f : FFmt) : Nat :=
  if f.ieee then (2 ^ f.eb - 1) * 2 ^ f.mb - 1 else if f.nan1 then 2 ^ (f.eb + f.mb) - 2 else 2 ^ (f.eb + f.mb) - 1

/-- exact_value of encoding n of a format, R290. -/
def exactValue (c : Fmt) (n : Nat) : Num :=
  match c with
  | .int w signed =>
    let v : Int := if signed then sext w n else (n % 2 ^ w : Nat)
    .fin (decide (v < 0)) v.natAbs 0
  | .flt f =>
    let neg := n / 2 ^ (f.eb + f.mb) % 2 = 1
    let e := n / 2 ^ f.mb % 2 ^ f.eb
    let m := n % 2 ^ f.mb
    if f.ieee && e = 2 ^ f.eb - 1 then (if m = 0 then .inf neg else .nan)
    else if f.nan1 && e = 2 ^ f.eb - 1 && m = 2 ^ f.mb - 1 then .nan
    else if e = 0 then .fin neg m f.low
    else .fin neg (m + 2 ^ f.mb) (f.low + (e - 1 : Nat))

/-- Rounding modes of R201 with STOCH's generator output. -/
structure Rnd where
  mode : Nat := 0
  r : Nat := 0
  deriving DecidableEq, Repr

/-- RNE. -/
def rne : Rnd := {}

/-- Round a / 2^s to an integer by R292 and R293. -/
def roundShift (neg : Bool) (a s : Nat) (rd : Rnd) : Nat :=
  let lo := a / 2 ^ s
  let rem := a % 2 ^ s
  if rem = 0 then lo
  else match rd.mode with
    | 0 => if 2 ^ s < 2 * rem || (2 * rem = 2 ^ s && lo % 2 = 1) then lo + 1 else lo
    | 1 => lo
    | 2 => if neg then lo else lo + 1
    | 3 => if neg then lo + 1 else lo
    | _ => if rd.r < rem * 2 ^ 24 / 2 ^ s then lo + 1 else lo

/-- m · 2^e on the grid of spacing 2^q: the number of spacings (R292). -/
def onGrid (neg : Bool) (m : Nat) (e q : Int) (rd : Rnd) : Nat :=
  if q ≤ e then m * 2 ^ (e - q).toNat else roundShift neg m (q - e).toNat rd

/-- round_to of R291: the encoding, without limit on what v is. -/
def roundTo (c : Fmt) (v : Num) (rd : Rnd) (sat : Bool) : Nat :=
  match c with
  | .int w signed =>
    let hi : Int := if signed then 2 ^ (w - 1) - 1 else 2 ^ w - 1
    let lo : Int := if signed then -2 ^ (w - 1) else 0
    match v with
    | .nan => 0
    | .inf neg => twos w (if neg then lo else hi)
    | .fin neg m e =>
      let a : Int := onGrid neg m e 0 rd
      twos w (max lo (min hi (if neg then -a else a)))
  | .flt f =>
    let s (neg : Bool) : Nat := b2n neg * 2 ^ (f.eb + f.mb)
    match v with
    | .nan => f.qnan
    | .inf neg => if f.ieee then s neg + (2 ^ f.eb - 1) * 2 ^ f.mb else if sat then s neg + f.maxBits else f.qnan
    | .fin neg m e =>
      if m = 0 then s neg else
      let q := max f.low ((Nat.log2 m : Int) + e - f.mb)
      let n := onGrid neg m e q rd
      let mag := if n < 2 ^ f.mb then n else
        let n' := if n < 2 ^ (f.mb + 1) then n else n / 2
        let x := (q - f.low).toNat + (if n < 2 ^ (f.mb + 1) then 1 else 2)
        x * 2 ^ f.mb + (n' - 2 ^ f.mb)
      if mag ≤ f.maxBits then s neg + mag
      else if sat then s neg + f.maxBits
      else if !f.ieee then f.qnan
      else if rd.mode = 1 || (rd.mode = 2 && neg) || (rd.mode = 3 && !neg) then s neg + f.maxBits
      else s neg + (2 ^ f.eb - 1) * 2 ^ f.mb

/-- Exact sum with the sign of zero of R566. -/
def Num.add (rdn : Bool) : Num → Num → Num
  | .nan, _ => .nan
  | _, .nan => .nan
  | .inf a, .inf b => if a = b then .inf a else .nan
  | .inf a, _ => .inf a
  | _, .inf b => .inf b
  | .fin a m e, .fin b n g =>
    let q := min e g
    let x : Int := (m * 2 ^ (e - q).toNat : Nat)
    let y : Int := (n * 2 ^ (g - q).toNat : Nat)
    let t := (if a then -x else x) + (if b then -y else y)
    if t = 0 then .fin (if a = b && m = 0 && n = 0 then a else rdn) 0 q
    else .fin (decide (t < 0)) t.natAbs q

/-- Exact product. -/
def Num.mul : Num → Num → Num
  | .nan, _ => .nan
  | _, .nan => .nan
  | .inf a, .inf b => .inf (a != b)
  | .inf a, .fin b n _ => if n = 0 then .nan else .inf (a != b)
  | .fin a m _, .inf b => if m = 0 then .nan else .inf (a != b)
  | .fin a m e, .fin b n g => .fin (a != b) (m * n) (e + g)

/-- v · 2^i. -/
def Num.scale (i : Int) : Num → Num
  | .fin a m e => .fin a m (e + i)
  | v => v

/-- Order of two non-NaN values. -/
def Num.lt (x y : Num) : Bool :=
  match x, y with
  | .inf a, .inf b => a && !b
  | .inf a, .fin .. => a
  | .fin .., .inf b => !b
  | .fin a m e, .fin b n g =>
    let q := min e g
    let u : Int := (m * 2 ^ (e - q).toNat : Nat)
    let v : Int := (n * 2 ^ (g - q).toNat : Nat)
    decide ((if a then -u else u) < (if b then -v else v))
  | _, _ => false

/-- The value of an FP32 word. -/
def f32 (w : Word) : Num := exactValue (.flt fp32) w.toNat

/-- Round to FP32, to nearest even. -/
def to32 (v : Num) : Word := BitVec.ofNat 32 (roundTo (.flt fp32) v rne false)

/-- The canonical quiet NaN of FP32. -/
def qnan32 : Word := 0x7FC00000

/-- FP32 addition, R253. -/
def fadd32 (x y : Word) : Word := to32 (Num.add false (f32 x) (f32 y))
/-- FP32 multiplication. -/
def fmul32 (x y : Word) : Word := to32 (Num.mul (f32 x) (f32 y))
/-- Fused multiply-add x·y + z. -/
def ffma32 (x y z : Word) : Word := to32 (Num.add false (Num.mul (f32 x) (f32 y)) (f32 z))

/-- Whether an FP32 word is NaN. -/
def isNan32 (x : Word) : Bool := f32 x = .nan

/-- Whether a word is a negative zero. -/
def negZero32 (x : Word) : Bool := x = 0x80000000

/-- MAX of R566 and R289. -/
def fmax32 (x y : Word) : Word :=
  if isNan32 x || isNan32 y then qnan32 else if Num.lt (f32 x) (f32 y) then y else if Num.lt (f32 y) (f32 x) then x
  else if negZero32 x then y else x

/-- MIN of R566 and R289. -/
def fmin32 (x y : Word) : Word :=
  if isNan32 x || isNan32 y then qnan32 else if Num.lt (f32 x) (f32 y) then x else if Num.lt (f32 y) (f32 x) then y
  else if negZero32 x then x else y

/-- RCP, correctly rounded (R252): a long quotient with a sticky bit is rounded once. -/
def rcp32 (x : Word) : Word :=
  match f32 x with
  | .nan => qnan32
  | .inf neg => if neg then 0x80000000 else 0
  | .fin neg m e =>
    if m = 0 then to32 (.inf neg)
    else to32 (.fin neg (2 ^ 400 / m * 2 + b2n (2 ^ 400 % m ≠ 0)) (-401 - e))

/-- e^(a / 2^400) in units of 2^−400, for 0 ≤ a: Taylor on a / 2^8, then eight squarings. -/
def expFixed (a : Nat) : Nat :=
  let one := 2 ^ 400
  let y := a / 256
  let t := (List.range 80).foldl (fun (p : Nat × Nat) i => (p.1 * y / one / (i + 1), p.2 + p.1 * y / one / (i + 1))) (one, one)
  (List.range 8).foldl (fun z _ => z * z / one) t.2

/-- EXP of R257: one of the results within 1 ulp, which one being free. -/
def exp32 (x : Word) : Word :=
  match f32 x with
  | .nan => qnan32
  | .inf neg => if neg then 0 else 0x7F800000
  | .fin neg m e =>
    if m = 0 then
      match Config.expChoice x % 3 with
      | 0 => 0x3F800000
      | 1 => 0x3F800001
      | _ => 0x3F7FFFFF
    else if (Nat.log2 m : Int) + e ≥ 8 then (if neg then BitVec.ofNat 32 (Config.expChoice x % 2) else 0x7F800000)
    else
      let a := if 0 ≤ e + 400 then m * 2 ^ (e + 400).toNat else m / 2 ^ (-(e + 400)).toNat
      let y := if neg then 2 ^ 800 / expFixed a else expFixed a
      let lo := roundTo (.flt fp32) (.fin false (2 * y + 1) (-401)) { mode := 1 } false
      if lo = fp32.maxBits then 0x7F800000 else BitVec.ofNat 32 (lo + Config.expChoice x % 2)

/-- The generator of R294, 0 to 16,777,215. -/
def srg (seed : Nat) (cs : List Nat) : Nat :=
  let h := cs.foldl (fun (h : Word) c =>
    let h := h ^^^ BitVec.ofNat 32 c
    let h := h ^^^ (h >>> 16)
    let h := h * 0x7FEB352D
    let h := h ^^^ (h >>> 15)
    let h := h * 0x846CA68B
    h ^^^ (h >>> 16)) (BitVec.ofNat 32 seed ^^^ 0x6B43A9B5)
  (h >>> 8).toNat

/-- A rounding with its generator output for these coordinates. -/
def mkRnd (mode seed : Nat) (cs : List Nat) : Rnd := { mode := mode, r := if mode = 4 then srg seed cs else 0 }

/-- An MX element with its block's scale byte (R216, R288): NaN when the scale is 0xFF. -/
def mxValue (c scale n : Nat) : Num :=
  if scale = 255 then .nan else Num.scale ((scale : Int) - 127) (exactValue (fmtOf c) n)

/-- emax of an MX element format, R215. -/
def mxEmax (c : Nat) : Int := if c = 11 then 8 else if c = 12 then 15 else if c = 13 then 4 else 2

/-- QUANTISE of one block, R215: scale byte and elements; each element comes with its rounding. -/
def quantiseBlock (c : Nat) (xs : List (Num × Rnd)) : Nat × List Nat :=
  if xs.any fun p => match p.1 with | .fin .. => false | _ => true then (255, xs.map fun _ => 0)
  else
    let logs := xs.filterMap fun p => match p.1 with
      | .fin _ m e => if m = 0 then none else some ((Nat.log2 m : Int) + e)
      | _ => none
    let e : Int := match logs with
      | [] => -127
      | a :: t => max (-127) (min 127 (t.foldl max a - mxEmax c))
    ((e + 127).toNat, xs.map fun p => roundTo (fmtOf c) (Num.scale (-e) p.1) p.2 true)

end Sys2Proof.Machine
end

