-- ==== Sys2Proof/Machine/Accum.lean ====
section
/-! DEFINITION. Superaccumulators and carry-form packets: R299 to R304, and the integer atomics of R172. -/

namespace Sys2Proof.Machine

/-- Saturating addition of COUNTs. -/
def satCount (a b : DWord) : DWord := if 2 ^ 64 ≤ a.toNat + b.toNat then BitVec.ofNat 64 (2 ^ 64 - 1) else a + b

/-- RANGE of R299. -/
def Acc.range (a : Acc) : Bool := decide (2 ^ 40 ≤ a.count.toNat)

/-- Adding one value, R300. -/
def accAdd (a : Acc) (v : Num) : Acc :=
  let a := { a with count := satCount a.count 1 }
  match v with
  | .nan => { a with nan := true }
  | .inf neg => if neg then { a with negInf := true } else { a with posInf := true }
  | .fin neg m e =>
    let x := BitVec.ofNat 320 (m * 2 ^ (e + 149).toNat / 2 ^ (-(e + 149)).toNat)
    { a with value := if neg then a.value - x else a.value + x }

/-- Combination of two accumulators or packets, R302. -/
def accMerge (a b : Acc) : Acc :=
  { value := a.value + b.value, count := satCount a.count b.count, nan := a.nan || b.nan, posInf := a.posInf || b.posInf,
    negInf := a.negInf || b.negInf, poison := a.poison || b.poison }

/-- The FLAGS byte of a packet. -/
def accFlags (a : Acc) : Nat := b2n a.nan + 2 * b2n a.posInf + 4 * b2n a.negInf + 8 * b2n a.poison + 16 * b2n a.range

/-- The carry-form packet of an accumulator, R301. -/
def packetOf (a : Acc) : Vec :=
  BitVec.ofNat 512 (a.value.toNat + a.count.toNat * 2 ^ 320 + accFlags a * 2 ^ 384)

/-- The accumulator a packet line enters a combination as, R302, R303 and R314: from a line stored poisoned, or with its carrier's poison mark. A
malformed packet has NAN, and POISON as well where it is poisoned. -/
def accOfPacket (v : Vec) (storedPoison carrier : Bool) : Acc :=
  let n := v.toNat
  let fl := n / 2 ^ 384 % 256
  let a : Acc := { value := BitVec.ofNat 320 n, count := BitVec.ofNat 64 (n / 2 ^ 320), nan := bit fl 0, posInf := bit fl 1,
                   negInf := bit fl 2, poison := bit fl 3 }
  if n / 2 ^ 389 ≠ 0 || bit fl 4 != a.range then { nan := true, poison := storedPoison || carrier }
  else if storedPoison || carrier then { poison := true } else a

/-- The exact value an accumulator rounds from, when it is not poisoned (R304). -/
def accNum (a : Acc) : Num :=
  if a.nan || a.range || (a.posInf && a.negInf) then .nan
  else if a.posInf then .inf false
  else if a.negInf then .inf true
  else .fin a.value.msb a.value.toInt.natAbs (-149)

/-- Rounding an accumulator to format code c (R304): the encoding, and whether it is poisoned. -/
def accRound (a : Acc) (c : Nat) (rd : Rnd) (sat : Bool) : Nat × Bool :=
  if a.poison then (roundTo (fmtOf c) .nan rd sat, true)
  else if accNum a = .fin false 0 (-149) then (0, false)
  else (roundTo (fmtOf c) (accNum a) rd sat, false)

/-- The value an atomic of R172 leaves, on operands of s bytes. -/
def atomicNew (op : AOp) (s old a b : Nat) : Nat :=
  let m := 2 ^ (8 * s)
  let so := sext (8 * s) old
  let sa := sext (8 * s) a
  match op with
  | .add => (old + a) % m
  | .swap => a % m
  | .cas => if old = a % m then b % m else old
  | .minS => if so ≤ sa then old else a % m
  | .maxS => if sa ≤ so then old else a % m
  | .minU => Nat.min old (a % m)
  | .maxU => Nat.max old (a % m)
  | .and => old &&& (a % m)
  | .or => old ||| (a % m)
  | .xor => old ^^^ (a % m)

/-- The operation of an ATOMIC opcode (R172). -/
def aopOf (op : Nat) : Option AOp :=
  match op with
  | 0x40 => some .add | 0x41 => some .swap | 0x42 => some .cas | 0x43 => some .minS | 0x44 => some .maxS
  | 0x45 => some .minU | 0x46 => some .maxU | 0x47 => some .and | 0x48 => some .or | 0x49 => some .xor
  | _ => none

/-- Whether an atomic opcode allows a SIZE code (R172, R176). -/
def atomicSizeOk (op size : Nat) : Bool := size = 0 || size = 1 || (size = 2 && op = 0x42)

end Sys2Proof.Machine
end

