-- ==== Sys2Proof/Machine/Pages.lean ====
section
/-! DEFINITION. The register pages: block codes (R26), instances, OWNER resets, event sources (R569), the registers of
every page with their access masks and reset values, and the reserved codes of R12. -/

namespace Sys2Proof.Machine

/-- Block code (R26), page kind and instance of a page. The numbering of kinds within a block is the model's. -/
def pageTriple : Page → Nat × Nat × Nat
  | .mf => (1, 0, 0) | .annex => (1, 1, 0)
  | .gw => (2, 0, 0) | .gwCxl => (2, 1, 0)
  | .qe => (3, 0, 0) | .qeFn f => (3, 1, f) | .qeFb b => (3, 2, b)
  | .tu => (4, 0, 0) | .tuFn f => (4, 1, f)
  | .gm => (5, 0, 0) | .gmMover m => (5, 1, m)
  | .ch => (6, 0, 0) | .chCluster i => (6, 1, i)
  | .ms => (7, 0, 0)
  | .qy => (8, 0, 0) | .qyBerth b => (8, 1, b)
  | .hl => (9, 0, 0) | .hlLink l => (9, 1, l)
  | .st => (10, 0, 0) | .stChan c => (10, 1, c)
  | .sp => (11, 0, 0)
  | .hm => (12, 0, 0) | .hmFn f => (12, 1, f)
  | .ec => (13, 0, 0) | .ecBank k => (13, 1, k)
  | .lb => (14, 0, 0) | .sl => (15, 0, 0) | .tg => (16, 0, 0)
  | .msix f v => (32, 0, f * 2048 + v)
  | .pba f => (32, 1, f)
  | .bar0 n => (33, 0, n) | .bar4 n => (34, 0, n)

/-- How many instances a page kind has. -/
def pageCount : Page → Nat
  | .qeFn _ | .tuFn _ | .hmFn _ | .gmMover _ => 64
  | .qeFb _ => 256 | .chCluster _ => 512 | .qyBerth _ => 8 | .hlLink _ => 48 | .stChan _ => 16 | .ecBank _ => 128
  | _ => 1

/-- Instance i of a page's kind. -/
def instanceOf (p : Page) (i : Nat) : Page :=
  match p with
  | .qeFn _ => .qeFn i | .qeFb _ => .qeFb i | .tuFn _ => .tuFn i | .gmMover _ => .gmMover i | .chCluster _ => .chCluster i
  | .qyBerth _ => .qyBerth i | .hlLink _ => .hlLink i | .stChan _ => .stChan i | .hmFn _ => .hmFn i | .ecBank _ => .ecBank i
  | p => p

/-- A number of its own for every page instance. -/
def pageCode (p : Page) : Nat := let t := pageTriple p; (t.1 * 4 + t.2.1) * 131072 + t.2.2

/-- The key of a register: page, bank (the entry a select register shows, else 0) and offset. -/
def regKey (p : Page) (bank off : Nat) : Nat := (pageCode p * 65536 + bank) * 4096 + off

/-- OWNER at reset, from each page's text. The Manifest and annex hold no writable field; the CXL page takes the main
page's owners (DESIGN CHOICE, log entry 7). -/
def ownerReset : Page → Nat
  | .mf | .annex => 0
  | .msix f _ | .pba f => if f = 0 then 0x0D else f * 65536 + 0x0F
  | .qeFn f => if f = 0 then 0x0D else f * 65536 + 0x0F
  | .hmFn f => if f = 0 then 0x05 else f * 65536 + 0x07
  | .chCluster _ => 0x1D
  | .hm => 0x9D
  | .ec | .ecBank _ => 0x1C
  | .lb => 0x8D
  | _ => 0x0D

/-- EVT_SRC of a page (R569); 0 where the page defines no events. The table of R569 omits the CH main page, whose page text
gives it events: the table's own formula is taken for it. The QY main page defines no event, but the table gives it a place: its
EVT_SRC shows that place, 64, and not 0 (both DESIGN CHOICE, log entry 8). -/
def evtSrc : Page → Nat
  | .gw => 16 | .qe => 24 | .tu => 32 | .ch => 48 | .ms => 56 | .qy => 64 | .hl => 72 | .sp => 88 | .hm => 96
  | .ec => 104 | .lb => 112 | .sl => 120 | .tg => 128
  | .qyBerth b => 0x100 + 8 * b | .hlLink l => 0x200 + 8 * l | .stChan c => 0x380 + 8 * c
  | .qeFb b => 0x400 + 4 * b | .chCluster i => 0x1000 + 4 * i
  | _ => 0

/-- The number of EVT_PEND bits a page defines. -/
def evtBits : Page → Nat
  | .gw => 5 | .qe => 3 | .tu => 5 | .ch => 2 | .ms => 6 | .hl => 2 | .sp => 5 | .hm => 3 | .ec => 2 | .lb => 2
  | .sl => 3 | .tg => 2 | .qyBerth _ => 5 | .hlLink _ => 4 | .stChan _ => 3 | .qeFb _ => 3 | .chCluster _ => 4
  | _ => 0

/-- The page whose events hold source number s, and its bit. -/
def pageOfSource (s : Nat) : Option (Page × Nat) :=
  let mains : List Page := [.gw, .qe, .tu, .ch, .ms, .hl, .sp, .hm, .ec, .lb, .sl, .tg]
  match mains.find? fun p => evtSrc p = s / 8 * 8 with
  | some p => if s < 256 then some (p, s % 8) else none
  | none =>
    if 0x100 ≤ s && s < 0x140 then some (.qyBerth ((s - 0x100) / 8), s % 8)
    else if 0x200 ≤ s && s < 0x380 then some (.hlLink ((s - 0x200) / 8), s % 8)
    else if 0x380 ≤ s && s < 0x400 then some (.stChan ((s - 0x380) / 8), s % 8)
    else if 0x400 ≤ s && s < 0x800 then some (.qeFb ((s - 0x400) / 4), s % 4)
    else if 0x1000 ≤ s && s < 0x1800 then some (.chCluster ((s - 0x1000) / 4), s % 4)
    else none

/-- A register: its bits by access (R9 to R11), whether hardware also changes it (RWH, R43), what a read clears, and its
reset value. Bits in no mask are reserved. -/
structure RegInfo where
  rw : Nat := 0
  sl : Nat := 0
  w1c : Nat := 0
  w1s : Nat := 0
  ro : Nat := 0
  rc : Nat := 0
  wo : Nat := 0
  rwh : Bool := false
  reset : Nat := 0
  deriving DecidableEq, Repr

/-- Every bit a register implements. -/
def RegInfo.all (r : RegInfo) : Nat := r.rw ||| r.sl ||| r.w1c ||| r.w1s ||| r.ro ||| r.rc ||| r.wo

/-- All 32 bits. -/
def w32 : Nat := 0xFFFFFFFF

/-- The bits STAT implements: ERR, and what R44 and R349 give LB.STAT and MS.STAT. -/
def statBits : Page → Nat
  | .lb => 0x80000007
  | .ms => 0x8000000B
  | _ => 0x80000000

/-- The common header of R30. -/
def headerReg (p : Page) (off : Nat) : Option RegInfo :=
  match off with
  | 0x000 => some { ro := w32 }
  | 0x004 => some { ro := w32 }
  | 0x008 => some { sl := 0x3F00FF, reset := ownerReset p }
  | 0x00C => some { w1s := 1 }
  | 0x010 => some {}
  | 0x014 => some { ro := statBits p }
  | 0x018 => some { w1c := 2 ^ evtBits p - 1 }
  | 0x01C => some { rw := w32, rwh := true, reset := w32 }
  | 0x020 => some { ro := w32, reset := evtSrc p }
  | 0x024 => some { rw := 0x80000000, ro := 0x0FFFFFFF, rwh := true }
  | 0x028 => some { ro := w32 }
  | _ => if off < 0x40 && off % 4 = 0 then some {} else none

/-- The registers of a page from 0x040 on. `veh` is the vehicle profile. -/
def blockReg (veh : Bool) (p : Page) (off : Nat) : Option RegInfo :=
  let ro (m : Nat) : Option RegInfo := some { ro := m }
  let rc : Option RegInfo := some { rc := w32 }
  let rw (m r : Nat) : Option RegInfo := some { rw := m, reset := r }
  match p with
  | .gw =>
    match off with
    | 0x040 => some { sl := 0x31 }
    | 0x044 => ro w32
    | 0x048 => rw 0xFFFFF 0
    | 0x04C => rw 1 0
    | 0x050 | 0x058 | 0x05C | 0x060 | 0x064 => ro w32
    | 0x054 => ro 3
    | 0x068 => rw 0xFFFFFF 10000
    | 0x06C => some { rw := w32, rwh := true }
    | _ =>
      if 0x080 ≤ off && off < 0x180 then
        (if off % 16 = 0 then rw 0xFFFF8003 0 else if off % 16 = 8 then rw 0xFFFF0000 0
          else if off % 4 = 0 then rw w32 0 else none)
      else if 0x180 ≤ off && off < 0x1A0 && off % 4 = 0 then rw 0x3F 0 else none
  | .qe =>
    match off with
    | 0x040 => rw 0xFFFF 0x408
    | 0x044 => rw 0x1FFF 0
    | 0x048 => some { rw := 1, ro := 6, rwh := true }
    | 0x04C => ro w32
    | 0x050 => rw 0x3F 0
    | 0x054 => rw 0x1FFF1FFF 0
    | 0x058 => rw 0x1FFF01FF 0
    | 0x05C | 0x060 => rc
    | _ => none
  | .qeFn _ =>
    match off with
    | 0x040 | 0x048 => rw 0xFFFFF000 0
    | 0x044 | 0x04C => rw w32 0
    | 0x050 => rw 0x87FFFF01 0
    | _ => none
  | .qeFb _ =>
    match off with
    | 0x040 => ro 0xBF000FFF
    | 0x044 | 0x048 => rc
    | 0x04C => ro 0xFF
    | _ =>
      if 0x100 ≤ off && off < 0x200 && off % 4 = 0 then some { w1c := 0x03030303 }
      else if 0x800 ≤ off && off < 0x1000 && off % 4 = 0 then some { rw := w32, rwh := true } else none
  | .tu =>
    match off with
    | 0x040 => rw 0xFFFF 100
    | 0x044 => rw 0x01FF003F 0x01000008
    | 0x048 => rw 0x80FFFFFF 0x00641000
    | 0x04C => rw 0xC01F07FF 0
    | 0x050 => rw 0xFFFFF000 0
    | 0x054 => rw w32 0
    | 0x058 => rw 0xFFFF 0
    | 0x05C => ro 0xFFFF
    | 0x060 => rc
    | 0x064 => some { wo := w32 }
    | 0x068 => rw 0xFFFFF000 0
    | 0x06C => rw 0xFFFF 0
    | 0x070 => some { rw := 0xFE3F00, w1s := 1, ro := 0x80000000, rwh := true, reset := 12 * 2 ^ 18 }
    | 0x074 | 0x078 => rc
    | 0x07C => ro 0x07FF03FF
    | _ => none
  | .tuFn _ =>
    match off with
    | 0x040 => rw 0xFFFFF001 0
    | 0x044 => rw 0xFFFF 0
    | 0x048 | 0x04C => ro w32
    | 0x050 => rc
    | _ => none
  | .gm =>
    match off with
    | 0x040 | 0x044 | 0x054 | 0x058 => ro w32
    | 0x048 => ro 0xFFFF
    | 0x04C | 0x050 => rw w32 0x40404040
    | _ => none
  | .gmMover _ =>
    match off with
    | 0x040 => ro 0x9FFFFFFF
    | 0x044 => ro 0xFF070FFF
    | 0x04C => ro 0x7FFFFFFF
    | 0x048 | 0x050 | 0x054 | 0x058 | 0x05C => ro w32
    | _ => none
  | .ch =>
    match off with
    | 0x040 => ro 0x7FF
    | 0x044 => ro 0x3F003F
    | 0x048 => ro 0xFFFF
    | 0x04C => ro 0x03FF03FF
    | 0x050 | 0x054 => ro w32
    | _ => none
  | .chCluster _ =>
    match off with
    | 0x040 => ro 0xF8001FFF
    | 0x044 => some { w1s := 1, rwh := true }
    | 0x048 | 0x04C | 0x050 | 0x054 => ro w32
    | 0x058 | 0x05C => ro 0x803F7F7F
    | 0x060 | 0x064 => rc
    | _ => none
  | .ms =>
    match off with
    | 0x040 => rw w32 0
    | 0x044 => rw 0x3FFFFFFF 0
    | 0x048 => rw 0x7FFFFFFF 0
    | 0x04C => rw 0x80FFFFFF (if veh then 0x80010404 else 0x80081818)
    | 0x050 => rw 0xFFFF (if veh then 16 else 256)
    | 0x054 | 0x058 | 0x05C | 0x080 | 0x084 => rc
    | 0x060 => ro 0xFFFFFFC0
    | 0x064 => ro 0x1FFFF
    | 0x068 => some { rw := 0xF, ro := 0xF00, reset := if veh then 0x200 else 0 }
    | 0x06C => some { rw := 0x83010000, ro := 0x60000000, rwh := true }
    | 0x070 => rw 0x1FFFFF 0
    | 0x074 | 0x078 | 0x07C => rw w32 0
    | 0x088 => ro 0xFFFFFFC0
    | 0x08C => ro 0xFE00FFFF
    | 0x090 => rw 0x07070700 0x00070700
    | 0x094 => rw w32 0x44444444
    | 0x098 => rw 0x17 0
    | 0x09C => rw 0xFFFF0F0F 0x40020408
    | 0x0A0 => rw 0x01FF01FF 0x00600018
    | 0x0A4 => rw 0xFF0107 0
    | 0x0A8 => ro 0xFF00FF
    | _ =>
      if 0x100 ≤ off && off < 0x200 then
        (if off % 16 = 8 then rw 0x80030007 0 else if off % 16 = 0 || off % 16 = 4 then rw w32 0 else none)
      else if 0x200 ≤ off && off < 0x380 && off % 4 = 0 then ro w32 else none
  | .qy =>
    match off with
    | 0x040 => some { ro := 0xFFFF, reset := 0x202 }
    | 0x044 => rw 0xFFFF 10
    | 0x048 => ro 0x1FFFFFF
    | 0x04C => rc
    | 0x050 => rw 0x3FF 20
    | 0x054 => rw 0x3FF 200
    | _ => none
  | .qyBerth b =>
    match off with
    | 0x040 => ro 0xFFFF0FFF
    | 0x044 => some { rw := if b % 2 = 0 then 9 else 1, w1s := 6, rwh := true }
    | 0x048 => rw 0x03FF073F 0
    | 0x04C => some { wo := 0x80000FFF }
    | 0x050 => ro 0x1FFF
    | 0x054 | 0x064 | 0x068 | 0x06C | 0x070 => ro w32
    | 0x058 => ro 0x1FFFFFF
    | 0x05C | 0x060 => rc
    | _ => none
  | .hl =>
    match off with
    | 0x040 => some { sl := 0xC0000FFF }
    | 0x044 => ro 0xFFFF0FFF
    | 0x048 => rw 0xFF 20
    | 0x04C => rw 0xFF 10
    | 0x050 => rw 0xFFFF 50
    | 0x054 => rw 0xFFF 0
    | 0x058 => rw 0x8000BF3F 0
    | 0x05C => ro 0xFF3FFFFF
    | 0x060 => rc
    | 0x064 => ro w32
    | 0x068 => ro 0xFFFF
    | 0x06C | 0x070 => rw w32 0
    | _ => none
  | .hlLink _ =>
    match off with
    | 0x040 => rw 0xF8000000 0
    | 0x044 => ro 0xFF001FFF
    | 0x048 => rw 0xFFFF 10
    | 0x04C | 0x050 | 0x054 | 0x058 => rc
    | 0x05C | 0x060 => ro w32
    | _ => none
  | .st =>
    if off = 0x040 then ro 0xFFFF
    else if 0x080 ≤ off && off < 0x0C0 && off % 4 = 0 then rw 0x8F8F8F8F 0 else none
  | .stChan _ =>
    match off with
    | 0x040 => ro 0x803F000F
    | 0x044 => rw 0xFFFF 0
    | 0x048 => ro w32
    | 0x04C => rw 0xFFF 0
    | 0x050 => ro 0xFFF
    | 0x054 | 0x058 | 0x05C => rc
    | _ => none
  | .sp =>
    match off with
    | 0x040 => rw 0x7F 0
    | 0x044 => ro 0xE03F0FFF
    | 0x048 => ro 0xFFFFFF
    | 0x04C => rw 0x1FFFFF 0
    | 0x050 => rw 0x3FFFFF 0
    | 0x054 => some { rw := 0x7F, w1s := 0x100, ro := 0x80000000, rwh := true }
    | 0x058 => rw 0xFFFF 50
    | 0x05C => ro 0xBF000007
    | 0x060 => ro 0x3FFFFFF
    | 0x064 | 0x068 => rc
    | 0x06C => rw 0xF 4
    | 0x070 => rw 0x3F 32
    | 0x074 => ro 3
    | 0x078 => ro 0x3FFFFF
    | _ => none
  | .hm =>
    match off with
    | 0x040 => ro 0xFFFF0000
    | 0x044 => ro 0xE0FFFF0F
    | 0x048 => ro 0x3F3F
    | 0x04C => some { w1s := 1, ro := 2, rwh := true }
    | 0x050 => rw 0x1F 0
    | 0x054 => ro 0xCF00FFFF
    | 0x058 => rw 0xFFFFF 0x30064
    | 0x05C | 0x068 => some { wo := w32 }
    | 0x060 => rw 0x3FFFFFF 0
    | 0x064 => some { rw := 6, w1s := 1, ro := 0x80000700, rwh := true }
    | 0x06C => rw 0x8000001F 0
    | 0x070 => rw 0x1FFFFF 0
    | 0x074 => rw 0xFFFFFF 0
    | 0x078 => ro 0xFFFFFF
    | 0x07C => rc
    | _ =>
      if 0x100 ≤ off && off < 0x160 && off % 4 = 0 then rw 0xFFFFFFE0 0
      else if 0x400 ≤ off && off < 0x800 && off % 4 = 0 then ro w32
      else if 0x800 ≤ off && off < 0x1000 && off % 4 = 0 then rw w32 0 else none
  | .hmFn _ =>
    match off with
    | 0x040 => rw 0xFFFF0001 0
    | 0x044 => ro 1
    | _ => none
  | .ec =>
    match off with
    | 0x040 => some { wo := 0xFFFF }
    | 0x044 => some { wo := w32 }
    | 0x048 => rw 0xFFFF 0
    | 0x04C => rw 0xFF1F0FFF 0
    | 0x050 => rw 0xFFFF 0x400
    | 0x054 | 0x058 | 0x05C => rc
    | _ => if 0x080 ≤ off && off < 0x0E0 && off % 4 = 0 then some { ro := 0x7F001F, reset := 0x400000 } else none
  | .ecBank _ =>
    if off % 4 ≠ 0 then none
    else if 0x100 ≤ off && off < 0x140 then some { rw := w32, rwh := true }
    else if 0x140 ≤ off && off < 0x180 then some { w1s := w32 }
    else if 0x180 ≤ off && off < 0x1C0 then some { w1c := w32 }
    else if 0x200 ≤ off && off < 0x240 then some { rw := w32, rwh := true, reset := w32 }
    else if 0x240 ≤ off && off < 0x280 then some { w1s := w32, reset := w32 }
    else if 0x280 ≤ off && off < 0x2C0 then some { w1c := w32, reset := w32 } else none
  | .lb =>
    match off with
    | 0x040 | 0x050 | 0x054 | 0x058 | 0x05C => ro w32
    | 0x044 => some { rw := w32, rwh := true }
    | 0x048 => some { sl := 1, reset := b2n veh }
    | 0x04C => rc
    | 0x060 => rw w32 0
    | _ => if 0x800 ≤ off && off < 0x1000 && off % 4 = 0 then ro w32 else none
  | .sl =>
    match off with
    | 0x040 => rw 0xFF07 0x3203
    | 0x044 => ro 0xFFFF0007
    | 0x048 => rw 0x3FF (if veh then 400 else 950)
    | 0x04C => rw 0x3FF 150
    | 0x050 => rw 0xFF00FF 0x140014
    | 0x054 => rw 0x800001FF 0x8000012C
    | 0x058 => rw 0xFFFF 2000
    | 0x05C => rw 0xFFFF (if veh then 500 else 200)
    | 0x060 => rw 0x1FFF 8191
    | 0x064 => ro 0x1FF03FF
    | 0x068 => ro 0x1FFF
    | 0x06C => rw 0x3FF 20
    | 0x070 => ro 0x3FF
    | 0x074 => rw 1 (b2n veh)
    | 0x078 | 0x07C => rc
    | 0x080 => ro 0xF
    | _ => if 0x0C0 ≤ off && off < 0x0E0 && off % 4 = 0 then ro 0x03FF03FF else none
  | .tg =>
    match off with
    | 0x040 => some { w1c := 0xA0000000, ro := 0x4000001F, rwh := true }
    | 0x044 => rw 0x1F 0
    | 0x048 => rw 0x1F 0
    | 0x04C => ro 0x0FFF0FFF
    | 0x050 => rw 0x1F 0
    | 0x054 => rw 0xBFFFFF1F 0
    | 0x058 => rw 0x0FFF0FFF 0
    | 0x05C => rw 0x3FF 0
    | 0x060 => rw 0x3F 0
    | 0x064 | 0x068 | 0x06C | 0x070 => ro w32
    | 0x074 => ro 0x3F
    | _ => none
  | _ => none

/-- The register at an offset of a page, if there is one. The Manifest and the annex are read-only throughout. -/
def regInfo (veh : Bool) (p : Page) (off : Nat) : Option RegInfo :=
  match p with
  | .mf | .annex => if off % 4 = 0 then some { ro := w32 } else none
  | .msix .. => if off < 16 && off % 4 = 0 then some { rw := w32 } else none
  | .pba f => if off < (if f = 0 then 256 else 16) && off % 4 = 0 then some { ro := w32 } else none
  | .gwCxl => if off < 0x40 then headerReg p off else if off % 4 = 0 then some { ro := w32 } else none
  | _ => if off < 0x40 then headerReg p off else blockReg veh p off

/-- R12: fields that hold a code keep their previous value when a write places a reserved code in them. The fields are
given as high bit, low bit and the codes that are reserved. A select or a quantity whose range the spec states, without a word on what lies
outside, holds no code: it is stored as written, unflagged, and selects nothing there (TG.CH_SEL 19 to 31, HM.CORE_SEL 24 to 31,
QY.B_CFG.CXL_POWER 0 or above 1,000; DESIGN CHOICE, log entry 108). -/
def codedFields (p : Page) (off : Nat) : List (Nat × Nat × (List Nat)) :=
  match p, off with
  | .hlLink _, 0x040 => [(29, 28, [3])]
  | .gw, 0x06C => [(31, 30, [3])]
  | .ms, 0x06C => [(25, 24, [3])]
  | .tg, 0x054 => [(23, 22, [3]), (21, 19, [5, 6, 7]), (18, 16, [4, 5, 6, 7]), (29, 24, List.range' 19 13 ++ List.range' 36 28)]
  | .hm, 0x064 => [(2, 1, [3])]
  | _, _ => []

/-- The write value with every reserved code replaced by the field's old value, and whether one was there. -/
def fixCodes (p : Page) (off old v : Nat) : Nat × Bool :=
  (codedFields p off).foldl (fun (a : Nat × Bool) c =>
    if c.2.2.contains (bits v c.1 c.2.1) then
      (a.1 - bits v c.1 c.2.1 * 2 ^ c.2.1 + bits old c.1 c.2.1 * 2 ^ c.2.1, true) else a) (v, false)

/-- What a write of v (bytes en enabled) to a register holding old leaves, under R9 to R12 and R33. -/
def writtenValue (r : RegInfo) (sealed_ : Bool) (en old v : Nat) : Nat :=
  let rwm := (r.rw ||| (if sealed_ then 0 else r.sl)) &&& en
  let x := (old &&& (w32 ^^^ rwm)) ||| (v &&& rwm)
  let x := x &&& (w32 ^^^ (v &&& r.w1c &&& en))
  x ||| (v &&& r.w1s &&& en)

/-- The number of a page's kind: its block code and its kind within the block. -/
def kindCode (p : Page) : Nat := let t := pageTriple p; t.1 * 4 + t.2.1

/-- The band of BAR0 pages a page lies in (R22): first page and pages. The PF's MSI-X table and PBA take nine pages of the block band (R439). -/
def pageBand (p : Page) : Nat × Nat :=
  match p with
  | .ch | .chCluster _ => (0x1000, 0x7000)
  | .qy | .qyBerth _ | .hl | .hlLink _ | .st | .stChan _ => (0x8000, 0x4000)
  | _ => (0x20, 0xFE0)

/-- Instance 0 of every page kind whose place the stepping chooses within its band (R23). -/
def placedKinds : List Page :=
  [.gw, .gwCxl, .qe, .qeFn 0, .qeFb 0, .tu, .tuFn 0, .gm, .gmMover 0, .ch, .chCluster 0, .ms, .qy, .qyBerth 0, .hl, .hlLink 0,
    .st, .stChan 0, .sp, .hm, .hmFn 0, .ec, .ecBank 0, .lb, .sl, .tg]

/-- The BAR0 pages of a kind's instances, from page base on, stride apart (R26). -/
def kindPages (p : Page) (base stride : Nat) : List Nat := (List.range (pageCount p)).map fun i => base + i * stride

/-- Whether the stepping's layout is one R22 admits: every instance in its band, no two on one page, none on the PF's MSI-X table and PBA. -/
def layoutLegal : Bool :=
  let at_ (p : Page) : List Nat := kindPages p (Config.pageBase (kindCode p)) (Config.pageStride (kindCode p))
  placedKinds.all (fun p => (at_ p).all fun n => (pageBand p).1 ≤ n && n < (pageBand p).1 + (pageBand p).2 && (n < 0xFE0 || 0xFE8 < n))
    && decide ((placedKinds.flatMap at_).Nodup)

/-- A layout of the model: kind after kind from the first page of each band. It stands for the stepping's where that is none. -/
def plainBase (p : Page) : Nat :=
  (pageBand p).1 + (((placedKinds.takeWhile fun q => kindCode q ≠ kindCode p).filter fun q => pageBand q = pageBand p).map pageCount).sum

/-- BASE_PAGE of a page's kind (R25). -/
def basePage (p : Page) : Nat :=
  match p with
  | .mf => 0 | .annex => 16
  | _ => if layoutLegal then Config.pageBase (kindCode p) else plainBase p

/-- STRIDE of a page's kind (R25). -/
def stridePages (p : Page) : Nat := if layoutLegal then Config.pageStride (kindCode p) else 1

/-- The BAR0 page number of a page (R22, R26): BASE_PAGE + i × STRIDE. -/
def pageNumber (p : Page) : Nat :=
  match p with
  | .mf => 0 | .annex => 16 | .msix _ v => 0xFE0 + v / 256 | .pba _ => 0xFE8
  | .bar0 n | .bar4 n => n
  | _ => basePage p + (pageTriple p).2.2 * stridePages p

/-- Whether the VF views' layout is one R439 admits: four different pages of 0x010 to 0x2FD. -/
def vfLayoutLegal : Bool :=
  let at_ := [Page.qeFn 0, .tuFn 0, .hmFn 0, .sl].map fun p => Config.vfPageBase (kindCode p)
  at_.all (fun n => 0x10 ≤ n && n < 0x2FE) && decide at_.Nodup

/-- Where a page stands in a VF's BAR0 view (R439). -/
def vfPageNumber (p : Page) : Nat :=
  match p with
  | .mf => 0
  | .msix .. => 0x2FE
  | .pba _ => 0x2FF
  | .qeFb b => 0x300 + b
  | .bar0 n => n
  | _ =>
    if vfLayoutLegal then Config.vfPageBase (kindCode p)
    else match p with
      | .qeFn _ => 0x10 | .tuFn _ => 0x11 | .hmFn _ => 0x12 | _ => 0x13

/-- Whether a page exists: its instance is within its kind's count (R25), an MSI-X entry within its table (R439). A place in a BAR is no
page of its own: bar0At in Registers.lean says which page stands there. -/
def pageExists : Page → Bool
  | .qeFn f | .tuFn f | .hmFn f | .gmMover f => f < 64
  | .qeFb b => b < 256
  | .chCluster i => i < 512
  | .qyBerth b => b < 8
  | .hlLink l => l < 48
  | .stChan c => c < 16
  | .ecBank k => k < 128
  | .msix f v => if f = 0 then v < 2048 else f < 64 && v < 128
  | .pba f => f < 64
  | .bar0 _ | .bar4 _ => false
  | _ => true

/-- Whether a VF's BAR0 view holds a page (R439): its own instance of each VF-visible page. -/
def vfVisible (f : Nat) (fbOwner : Option Nat) : Page → Bool
  | .qeFn g | .tuFn g | .hmFn g | .msix g _ | .pba g => g = f
  | .qeFb _ => fbOwner = some f
  | .sl | .mf => true
  | _ => false

end Sys2Proof.Machine
end

