-- ==== Sys2Proof/Machine/Flags.lean ====
section
/-! DEFINITION. Registers, flags and events: reading and changing a register by hardware, EVT_PEND and the event
controller's pending bits (R31, R501, R502), ERR_CAP (R32), status codes (R87) and what each does to a signal (R571). -/

namespace Sys2Proof.Machine

/-- The reset value of a register. The fuses decide the values that differ by grade or die. -/
def regReset (s : State) (p : Page) (off : Nat) : Nat :=
  match p, off with
  | .gw, 0x040 => b2n s.fuses.split0 + 16 * (if s.fuses.p1mode = 3 then 2 else s.fuses.p1mode)
  | .gw, 0x00C => 1
  | .sp, 0x074 => b2n s.fuses.debugLock
  | .sl, 0x070 => s.fuses.pFloor
  | .sl, 0x080 => s.fuses.vid.val
  | _, _ => match regInfo s.fuses.vehicle p off with | some r => r.reset | none => 0

/-- The stored value of a register; Tidegauge's registers are kept in Tidegauge (R15, R545). -/
def getReg (s : State) (p : Page) (bank off : Nat) : Nat :=
  let m := if p = .tg then s.tg.regs else s.regs
  match mget m (regKey p bank off) with
  | some w => w.toNat
  | none => regReset s p off

/-- The stored value of a register set to v. -/
def setReg (p : Page) (bank off v : Nat) (s : State) : State :=
  if p = .tg then { s with tg := { s.tg with regs := mset s.tg.regs (regKey p bank off) (BitVec.ofNat 32 v) } }
  else { s with regs := mset s.regs (regKey p bank off) (BitVec.ofNat 32 v) }

/-- A counter register increased by n, modulo 2^32 (DESIGN CHOICE, log entry 15). -/
def bump (p : Page) (off n : Nat) (s : State) : State := setReg p 0 off ((getReg s p 0 off + n) % 2 ^ 32) s

/-- A 64-bit counter in two registers increased by n. -/
def bump64 (p : Page) (off n : Nat) (s : State) : State :=
  let v := getReg s p 0 off + 2 ^ 32 * getReg s p 0 (off + 4) + n
  setReg p 0 (off + 4) (v / 2 ^ 32 % 2 ^ 32) (setReg p 0 off (v % 2 ^ 32) s)

/-- Record what leaves the hub. -/
def emit (o : Out) (s : State) : State := { s with out := o :: s.out }

/-- One free value drawn: its number, and the state in which it is spent. -/
def draw (s : State) : Nat × State := (s.fresh, { s with fresh := s.fresh + 1 })

/-- Bytes whose value nothing gives: those of a read that brought no data. -/
def freeBytes (n : Nat) (s : State) : List Byte × State :=
  ((List.range n).map fun i => Config.freeByte (s.fresh + i), { s with fresh := s.fresh + n })

/-- The 4-bit class code of R34. -/
def classCode : OClass → Nat
  | .hostPf => 0 | .hostVf => 1 | .keeper => 2 | .hmFw => 3 | .regionFw => 4 | .partner => 5 | .peer => 6 | .debug => 7

/-- The 16-bit origin of R34. -/
def originCode (o : Origin) : Nat := classCode o.cls * 4096 + o.ident % 4096

/-- The origin of function f, R568. -/
def fnOrigin (f : Nat) : Origin := if f = 0 then ⟨.hostPf, 0⟩ else ⟨.hostVf, f⟩

/-- Whether an origin is firmware (R466). -/
def isFw (o : Origin) : Bool := match o.cls with | .keeper | .hmFw | .regionFw => true | _ => false

/-- Capture the first error of a page, R32. -/
def capErr (p : Page) (code : Nat) (o : Origin) (s : State) : State :=
  if bit (getReg s p 0 0x024) 31 then s else setReg p 0 0x024 (2 ^ 31 + code * 2 ^ 16 + originCode o) s

/-- Capture an error that records a DPA beside its code and origin (R19): the register has no bits for it. -/
def capDpa (p : Page) (code : Nat) (o : Origin) (dpa : Nat) (s : State) : State :=
  if bit (getReg s p 0 0x024) 31 then s else { capErr p code o s with errDpa := mset s.errDpa (regKey p 0 0x024) dpa }

/-- The registers of a page return to reset. -/
def resetPage (p : Page) (s : State) : State :=
  let off (n : Nat) : Bool := n / (65536 * 4096) ≠ pageCode p
  { s with regs := s.regs.filter fun r => off r.1, errDpa := s.errDpa.filter fun r => off r.1 }

/-- Set a bit of a page's EVT_PEND, and name the source to sense, if the pair of bits became set-and-clear (R31, R502). -/
def pendEvent (p : Page) (b : Nat) (s : State) : State × Option Nat :=
  let pend := getReg s p 0 0x018
  let s' := setReg p 0 0x018 (pend ||| 2 ^ b) s
  (s', if bit pend b || bit (getReg s p 0 0x01C) b then none else some (evtSrc p + b))

/-- The event controller senses source n (R501): pending or coalesced, and storm-masked beyond RATE: by the first message beyond it, masked
already or not, and by any later one that finds the source unmasked again (DESIGN CHOICE, log entry 80). The STORM event of the EC page is
sensed in turn, fuel bounding the chain that R502 ends by itself. -/
def ecSense : Nat → Nat → State → State
  | 0, _, s => s
  | fuel + 1, n, s =>
    let s := if s.ec.pend.contains n then bump .ec 0x054 1 s else { s with ec := { s.ec with pend := n :: s.ec.pend } }
    let cnt := mgetD s.ec.storm n 0 + 1
    let s := { s with ec := { s.ec with storm := mset s.ec.storm n cnt } }
    let rate := bits (getReg s .ec 0 0x050) 15 0
    if rate ≠ 0 && rate < cnt && (cnt = rate + 1 || s.ec.unmasked.contains n) then
      let s := { s with ec := { s.ec with unmasked := s.ec.unmasked.erase n } }
      let s := bump .ec 0x058 1 s
      let s := match pageOfSource n with
        | some (p, b) => setReg p 0 0x01C (getReg s p 0 0x01C ||| 2 ^ b) s
        | none => s
      match pendEvent .ec 0 s with
      | (s, some m) => ecSense fuel m s
      | (s, none) => s
    else s

/-- Raise event b of a page (R31). -/
def raise (p : Page) (b : Nat) (s : State) : State :=
  match pendEvent p b s with
  | (s, some n) => ecSense 3 n s
  | (s, none) => s

/-! ### Status codes, R87 -/

/-- SUCCESS. -/
def stSuccess : Nat := 0x00
/-- PARTIAL. -/
def stPartial : Nat := 0x01
/-- FAULT. -/
def stFault : Nat := 0x02
/-- RIGHTS. -/
def stRights : Nat := 0x03
/-- ABORTED. -/
def stAborted : Nat := 0x04
/-- ABORTED_RETRYABLE. -/
def stRetryable : Nat := 0x05
/-- INVALID_OPCODE. -/
def stOpcode : Nat := 0x06
/-- INVALID_FIELD. -/
def stField : Nat := 0x07
/-- CONTEXT_INVALID. -/
def stContext : Nat := 0x08
/-- FOOTPRINT. -/
def stFootprint : Nat := 0x09
/-- FENCE_INVALID. -/
def stFence : Nat := 0x0A
/-- FENCE_ERROR. -/
def stFenceError : Nat := 0x0B
/-- POISONED. -/
def stPoisoned : Nat := 0x0C
/-- ADDRESS_ERROR. -/
def stAddress : Nat := 0x0D
/-- BERTH_GONE. -/
def stBerthGone : Nat := 0x0E
/-- LINK_GONE. -/
def stLinkGone : Nat := 0x0F
/-- RECIPE_INVALID. -/
def stRecipe : Nat := 0x10
/-- HOST_DETACHED. -/
def stDetached : Nat := 0x11
/-- LOG_FULL. -/
def stLogFull : Nat := 0x12
/-- NO_RESOURCE. -/
def stNoResource : Nat := 0x13
/-- BUSY. -/
def stBusy : Nat := 0x14
/-- VERSION_MISMATCH. -/
def stVersion : Nat := 0x15
/-- NOT_PERMITTED. -/
def stNotPermitted : Nat := 0x16

/-- What a completion does to the signal of its command, R571. -/
inductive SignalUse where
  | plain | error | none
  deriving DecidableEq, Repr

/-- The table of R571. -/
def signalUse (status : Nat) : SignalUse :=
  if status = stSuccess then .plain
  else if [stFault, stRights, stAborted, stPoisoned, stAddress, stBerthGone, stLinkGone, stDetached, stFenceError].contains status
  then .error else .none

/-- Whether DONE and FAULT_ADDR of a status carry what was committed (R88). -/
def carriesDone (status : Nat) : Bool :=
  [stSuccess, stPartial, stFault, stRights, stAborted, stPoisoned, stAddress, stBerthGone, stLinkGone, stDetached].contains status

end Sys2Proof.Machine
end

