-- ==== Sys2Proof/Machine/Ops.lean ====
section
/-! DEFINITION. Named operations that every family uses: commands of the table by number, Logbook entries (R38 to R47), host
links and host traffic (R433, R434), and the outcome of a command that names a unit. A block has no exception to take; what
stands in its place is the completion, the event and the error capture of Flags.lean. -/

namespace Sys2Proof.Machine

/-- A step's outcome when the command names unit n of bound units: the effect, or the fault noSuchUnit. -/
def onUnit (n bound : Nat) (t : State) : Host.Outcome State Fault Refusal :=
  if n < bound then .next t else .fault .noSuchUnit

/-! ### Commands -/

/-- The dispatched command k. -/
def getCmd (s : State) (k : Nat) : Option Cmd := mget s.qe.cmds k

/-- Command k changed by f. -/
def updCmd (k : Nat) (f : Cmd → Cmd) (s : State) : State :=
  { s with qe := { s.qe with cmds := mupd s.qe.cmds k f } }

/-- The entry's opcode. -/
def Cmd.op (c : Cmd) : Nat := fld c.raw 0 1
/-- The entry's SCOPE, R64. -/
def Cmd.scope (c : Cmd) : Nat := bits (fld c.raw 2 2) 13 12
/-- The entry's QoS class, R58. -/
def Cmd.cls (c : Cmd) : Nat := bits (fld c.raw 4 2) 15 13
/-- The entry's CMD_ID. -/
def Cmd.cmdId (c : Cmd) : Nat := fld c.raw 6 2
/-- FLAGS bit of R61. -/
def Cmd.flag (c : Cmd) (i : Nat) : Bool := bit (fld c.raw 1 1) i

/-- Command k ends with a status: its effect is complete and its completion may follow (R82). The first end stands. -/
def finish (k status detail done fault : Nat) (s : State) : State :=
  updCmd k (fun c => if c.phase = .finished then c else
    { c with phase := .finished, status := status, detail := detail, done := done, fault := fault }) s

/-- An abort stops a command at its next tile or window; an atomic that has been issued ends with its result (R175). -/
def Cmd.abort (c : Cmd) : Cmd :=
  if c.stop.isNone && !(0x40 ≤ c.op && c.op < 0x50 && 2 ≤ c.stage) then { c with stop := some (stAborted, 0) } else c

/-- Note the first poisoned address a command met, with its DETAIL. -/
def notePoison (k addr detail : Nat) (s : State) : State :=
  updCmd k (fun c => match c.poisonAt with | none => { c with poisonAt := some (addr, detail) } | some _ => c) s

/-- The annex changed: its generation moves to the next even value, and the PF driver is told (R28). -/
def annexTouch (s : State) : State := emit .annexChanged (bump .annex 0x000 2 s)

/-- MF.HUB_VERSION. -/
def hubVersion : Nat := 0x030000B0

/-- MF.GRADE. -/
def hubGrade (s : State) : Nat := if s.fuses.vehicle then 0x11 else 0

/-- The hub holds an ID (R399); the annex shows it (R27). -/
def holdId (id : Nat) (s : State) : State :=
  if s.hl.idValid && s.hl.hubId = id % 4096 then s else annexTouch { s with hl := { s.hl with idValid := true, hubId := id % 4096 } }

/-! ### Logbook -/

/-- Entries not consumed. -/
def Lb.unread (l : Lb) : Nat := (l.seq + 2 ^ 32 - l.tail) % 2 ^ 32

/-- Whether the ring is full. -/
def logFull (s : State) : Bool := s.lb.unread = 2 ^ 20

/-- Whether the policy is hold. -/
def logHolds (s : State) : Bool := bit (getReg s .lb 0 0x048) 0

/-- Append one entry (R41, R42); under wrap a full ring loses its oldest entry (R46). -/
def logAppend (o : Origin) (flags : Nat) (p : Option Page) (off old new : Nat) (s : State) : State :=
  let full := logFull s
  let e : LogEntry := { seq := s.lb.seq, time := s.time.toNat, origin := o, flags := flags, page := p, off := off, old := old, new := new }
  let lb := { s.lb with ring := (e :: s.lb.ring).take (2 ^ 20), seq := (s.lb.seq + 1) % 2 ^ 32 }
  let lb := if full then { lb with tail := (lb.tail + 1) % 2 ^ 32, overrun := true } else lb
  let s := { s with lb := lb }
  match p with
  | some q => setReg q 0 0x028 e.seq s
  | none => s

/-- A configuration write refused under hold (R47). -/
def logRefuse (o : Origin) (s : State) : State :=
  let s := raise .lb 0 (bump .lb 0x04C 1 s)
  if isFw o then emit (.coreError o) s else s

/-! ### Errors of kept state -/

/-- A ramp begins: running work is replaced with ballast, as much as there is power above SL.P_FLOOR (R530). -/
def rampTo (kind cause : Nat) (s : State) : State :=
  let all_ := s.sl.hubW + s.sl.ballast
  let floor_ := Nat.min (getReg s .sl 0 0x070) all_
  { s with sl := { s.sl with ramp := some kind, rampCause := cause, hubW := floor_, ballast := all_ - floor_ } }

/-- Whether a ramp withholds work (R530). A checkpoint's ramp does not: its commands stop at their next tile or window (R540). -/
def rampHolds (s : State) : Bool := match s.sl.ramp with | some k => k < 5 | none => false

/-- A whole-die reset is asked for: the Sluice ramps first (R530). One on its way, or a thermal trip's ramp, stands. -/
def startReset (cause : Nat) (s : State) : State :=
  if s.sl.ramp = some 1 || s.sl.thermalH4 then s else rampTo 1 cause s

/-- Whether any of some kept state holds an error that its check code cannot correct (R555). -/
def spoilt (s : State) (ks : List Kept) : Bool := ks.any s.damaged.contains

/-- Work with kept state: an uncorrectable error in it is a Keeper crash, cause 2, and the work is not done (R555). -/
def withKept (ks : List Kept) (go : State → State) (s : State) : State := if spoilt s ks then startReset 2 s else go s

/-- Time since whole-die reset in ns, by TCLK. -/
def dieNs (s : State) : Nat := 10 * s.tclk

/-! ### Host links -/

/-- Whether link l is up. -/
def linkUp (s : State) (l : Nat) : Bool := match mget s.gw.links l with | some h => h.up | none => false

/-- Whether link l runs CXL. -/
def linkCxl (s : State) (l : Nat) : Bool := match mget s.gw.links l with | some h => h.up && h.cxl | none => false

/-- The link a host address takes, R433. -/
def steer (s : State) (addr : Nat) : Nat :=
  let hit := (List.range 16).find? fun n =>
    let b := getReg s .gw 0 (0x080 + 16 * n)
    let base := (b / 2 ^ 16 * 2 ^ 16) + 2 ^ 32 * getReg s .gw 0 (0x084 + 16 * n)
    let lim := getReg s .gw 0 (0x088 + 16 * n) / 2 ^ 16 * 2 ^ 16 + 2 ^ 32 * getReg s .gw 0 (0x08C + 16 * n) + 0xFFFF
    bit b 15 && base ≤ addr && addr ≤ lim
  match hit with
  | some n => let l := bits (getReg s .gw 0 (0x080 + 16 * n)) 1 0; if linkUp s l then l else 0
  | none => 0

/-- The configuration enables of function f on link l; the sizes an unwritten Device Control register gives are PCIe's. -/
def linkFnCfg (s : State) (l f : Nat) : FnCfg :=
  mgetD s.gw.fns (64 * l + f) ⟨false, false, false, 0, false, false, false, false, false, 128, 512, 0⟩

/-- The enables that govern function f: link 0's (R432). -/
def fnCfg (s : State) (f : Nat) : FnCfg := linkFnCfg s 0 f

/-- The most bytes one write to host memory carries on link l (R434). -/
def maxWrite (s : State) (l : Nat) : Nat := clampN 64 256 (linkFnCfg s l 0).maxPayload
/-- The most bytes one read request asks for on link l. -/
def maxRead (s : State) (l : Nat) : Nat := clampN 64 256 (linkFnCfg s l 0).maxRead

/-- The least time, in ns, after which a host read may time out (R142, R434): of the range that the Completion Timeout Value of link 0's PF names
(PCIe's ranges A and B, and its default range; PRESUMED, log entry 109), capped at 900 µs. -/
def hostTimeout (s : State) : Nat :=
  match (linkFnCfg s 0 0).cto % 16 with
  | 0 | 1 => 50000
  | _ => 900000

/-- The requests a range of host memory is read by: at most the size their link allows each (R434). -/
def readPieces (s : State) (bus n : Nat) : List (Nat × Nat) :=
  (pieces 4096 bus n).flatMap fun p => pieces (maxRead s (steer s p.1)) p.1 p.2

/-- The mark of a request under a function's own host addresses: queue rings, records, recipe copies, the migration ring. -/
def plainTag (f : Nat) : HostTag := { f := f }

/-- The mark of an access through space SVA (R105): with ATS on a translated request under the context's PASID; with ATS off the address
goes untranslated, and with no PASID (DESIGN CHOICE, log entry 91). -/
def svaTag (s : State) (f : Nat) (pasid : Option Nat) : HostTag :=
  if (fnCfg s f).ats then { f := f, pasid := pasid, translated := true } else { f := f }

/-- One write to host memory of at most 256 bytes on its link (R430, R434): a CXL.cache write waits for its observation
(R160), a PCIe write is remembered by its command for the flushes of R168. -/
def hostWrite1 (g : HostTag) (k : Option Nat) (addr : Nat) (bs : List Byte) (poison : Bool) (s : State) : State :=
  let l := steer s addr
  let cxl := linkCxl s l
  let s := emit (.hostWrite l addr bs poison cxl g) s
  if cxl then
    let id := s.gw.nextId
    let s := { s with gw := { s.gw with nextId := id + 1, observes := ⟨id, l, k, addr, bs.length⟩ :: s.gw.observes } }
    match k with
    | some k => updCmd k (fun c => { c with observing := id :: c.observing }) s
    | none => s
  else match k with
    | some k => updCmd k (fun c => { c with links := if c.links.contains l then c.links else l :: c.links }) s
    | none => s

/-- A write to host memory, cut into writes of at most 256 bytes that cross no 64-byte line twice (R165, R434). -/
def hostWrite (g : HostTag) (k : Option Nat) (addr : Nat) (bs : List Byte) (poison : Bool) (s : State) : State :=
  ((pieces 4096 addr bs.length).flatMap fun p => pieces (maxWrite s (steer s p.1)) p.1 p.2).foldl (fun s p => hostWrite1 g k p.1 ((bs.drop (p.1 - addr)).take p.2) poison s) s

/-- Reads of host memory for who, of at most 256 bytes each (R434). -/
def hostRead (g : HostTag) (who : Who) (va bus n : Nat) (s : State) : State :=
  (readPieces s bus n).foldl (fun s p =>
    let id := s.gw.nextId
    let l := steer s p.1
    let r : HostRead := { id := id, link := l, who := who, va := va + (p.1 - bus), bus := p.1, len := p.2, sent := dieNs s }
    emit (.hostRead l id p.1 p.2 g) { s with gw := { s.gw with nextId := id + 1, reads := r :: s.gw.reads } }) s

/-- A flushing zero-length read on link l, for command k or invalidation inv (R168, R139). -/
def flushRead (l : Nat) (inv k : Option Nat) (s : State) : State :=
  let id := s.gw.nextId
  let s := emit (.flushRead l id) { s with gw := { s.gw with nextId := id + 1, flushes := ⟨id, l, inv, k⟩ :: s.gw.flushes } }
  match k with
  | some k => updCmd k (fun c => { c with flushes := id :: c.flushes }) s
  | none => s

/-- Whether who still reads host memory. -/
def reading (s : State) (w : Who) : Bool := s.gw.reads.any fun r => r.who = w

/-- Whether host traffic of records and interrupts flows: the host is attached and the function is in D0 (R449, R451). -/
def hostFlows (s : State) : Bool := !s.gw.detached && !s.gw.d3.contains 0

/-- An MSI-X message of function f. -/
def msix (l f vector : Nat) (s : State) : State := emit (.msix l f vector) s

end Sys2Proof.Machine
end

