-- ==== Sys2Proof/Machine/Memory.lean ====
section
/-! DEFINITION. Device memory at its homes: the address map (R18, R19, R319 to R323), line check, MAC and poison (R326 to R332,
R468), page tags (R467), replicas (R335 to R341), snoops and back-invalidation (R159, R375, R376), journals (R552, R553), and
the queue in which accesses to a line wait. -/

namespace Sys2Proof.Machine

/-! ### Addresses -/

/-- What a DPA names: 0 hub SRAM, 1 HBM data, 2 LPDDR data, 3 Logbook carve-out, 4 remote aperture, 5 reserved (R18, R19). -/
def region (s : State) (a : Nat) : Nat :=
  if a < 0x1FE000000 then 0
  else if a < 0x200000000 then 3
  else if 0x4000000000 ≤ a && a < 0x7E00000000 then (if s.mem.hbmAbsent then 5 else 1)
  else if 0x10000000000 ≤ a && a < 0x1F800000000 then (if s.mem.lpddrAbsent then 5 else 2)
  else if 0x800000000000 ≤ a && a < 0x1000000000000 then 4
  else 5

/-- The physical place of a DPA: hub SRAM at its DPA; an external byte at its stack or channel address (R323), the stack or
channel number above bit 36 or 35. -/
def place (s : State) (a : Nat) : Nat :=
  if 0x4000000000 ≤ a && a < 0x8000000000 then
    let o := a - 0x4000000000
    let g := bits o 37 32
    let (st, x) := if bit s.mem.modesHbm g then (bits o 31 30, bits o 29 0) else (bits o 13 12, bits o 31 14 * 4096 + bits o 11 0)
    0x4000000000 + st * 2 ^ 36 + g * 2 ^ 30 + x
  else if 0x10000000000 ≤ a && a < 0x20000000000 then
    let o := a - 0x10000000000
    let g := bits o 39 35
    let (st, x) := if bit s.mem.modesLpddr g then (bits o 34 30, bits o 29 0) else (bits o 16 12, bits o 34 17 * 4096 + bits o 11 0)
    0x10000000000 + st * 2 ^ 35 + g * 2 ^ 30 + x
  else a

/-- The home of a line: a slice's cluster, a stack, a channel. -/
def homeOf (s : State) (a : Nat) : Nat :=
  if a < 0x200000000 then a / 2 ^ 24 else if a < 0x8000000000 then 1000 + (place s a - 0x4000000000) / 2 ^ 36
  else 2000 + (place s a - 0x10000000000) / 2 ^ 35

/-- Tier number u of R348. -/
def tier (a : Nat) : Nat := if a < 0x200000000 then 0 else if a < 0x8000000000 then 1 else 2

/-- The key of tenant t's ACTIVE memory slot, R463. -/
def tenantKey (s : State) (t : Nat) : Option Nat :=
  (s.sp.slots.find? fun p => p.2.st = 1 && !p.2.bounce && p.2.f = t).map fun p => p.2.key

/-! ### Tags -/

/-- The tag of a hub-SRAM page: FW [6] and tenant [5:0]. The Keeper's two FW ranges follow by formula from boot on (R466). -/
def pageTag (s : State) (p : Nat) : Nat :=
  match mget s.mem.tags p with
  | some t => t
  | none => if 1 ≤ s.hm.stage && ((0x1FE000 ≤ p && p < 0x200000) || (0x1FC000 ≤ p && p < 0x1FE000)) then 64 else 0

/-- Whether an access of a tenant passes the tag of a hub-SRAM page, R467, or reaches no hub SRAM. The Logbook carve-out is firmware's, whatever
its pages are tagged (R20). -/
def tagPasses (s : State) (a tenant : Nat) (firmware : Bool) : Bool :=
  firmware || 0x200000000 ≤ a || (a < 0x1FE000000 && pageTag s (a / 4096) = tenant)

/-- A failed tag check, R467. -/
def tagDeny (o : Origin) (s : State) : State := raise .sp 2 (capErr .sp 2 o (bump .sp 0x068 1 s))

/-! ### One copy of a line -/

/-- How one copy of a line is found. -/
inductive Found where
  | good | poisoned (d : Nat) | failed | mac | retired
  deriving DecidableEq, Repr

/-- The state of the copy at DPA a (a line) for a reader of tenant t: stored poison, line check, MAC, key. -/
def lookAt (s : State) (a t : Nat) : Found :=
  let ph := place s a
  if tier a = 0 then
    match mget s.mem.poison ph with
    | some d => .poisoned d
    | none => if s.mem.uncorrectable.contains ph then .failed else .good
  else match tenantKey s t with
    | none => .retired
    | some key =>
      match mget s.mem.poison ph with
      | some d => .poisoned d
      | none =>
        if s.mem.uncorrectable.contains ph then .failed
        else if mget s.mem.blocks (ph / 256) = some ⟨key, a / 256 * 256⟩ then .good else .mac

/-- The 64 bytes of the copy at DPA a. -/
def lineBytes (s : State) (a : Nat) : List Byte := Memory.readN s.mem.bytes (place s a) 64

/-- Store a line's poison. -/
def setPoison (a d : Nat) (s : State) : State := { s with mem := { s.mem with poison := mset s.mem.poison (place s a) d } }

/-- An uncorrectable line is counted, recorded and captured (R331). -/
def ueNote (a : Nat) (o : Origin) (s : State) : State :=
  let s := setReg .ms 0 0x064 (a / 2 ^ 32 % 2 ^ 16) (setReg .ms 0 0x060 (a % 2 ^ 32) (bump .ms 0x058 1 s))
  raise .ms 1 (capErr .ms 1 o s)

/-- A correctable error at a physical line is corrected and counted; the count that meets the threshold raises the event (R330). -/
def ceNote (ph : Nat) (s : State) : State :=
  let s := bump .ms 0x054 1 { s with mem := { s.mem with correctable := s.mem.correctable.erase ph } }
  if getReg s .ms 0 0x054 = zero1 (bits (getReg s .ms 0 0x050) 15 0) then raise .ms 0 s else s

/-- A physical line is read: an error that its line check corrects is corrected, whatever its MAC, key or stored poison then say (R330). -/
def corrected (ph : Nat) (s : State) : State :=
  if s.mem.correctable.contains ph && !s.mem.uncorrectable.contains ph then ceNote ph s else s

/-- What finding a copy does to counters and captures (R326, R330, R331, R559). -/
def foundEffect (a : Nat) (o : Origin) (f : Found) (s : State) : State :=
  let ph := place s a
  let s := corrected ph s
  match f with
  | .failed =>
    let s := ueNote a o s
    setPoison a 0 { s with mem := { s.mem with uncorrectable := s.mem.uncorrectable.filter (· ≠ ph) } }
  | .mac =>
    let s := setReg .ms 0 0x064 (2 ^ 16 + a / 2 ^ 32 % 2 ^ 16) (setReg .ms 0 0x060 (a % 2 ^ 32) (bump .ms 0x05C 1 s))
    raise .ms 2 (capErr .ms 2 o s)
  | _ => s

/-- The read half of a write of fewer than 256 bytes to an external block (R327): every line of the block that the write leaves, and the line at a
itself where the write leaves part of it. Correctable and uncorrectable lines have their effect, and a failed MAC is counted once; `met`: the
request has met it before. -/
def readRest (met : Bool) (a t : Nat) (o : Origin) (whole : Bool) (s : State) : State :=
  let ls := ((List.range 4).map fun i => a / 256 * 256 + 64 * i).filter fun l => !(whole && l = a)
  let mac := ls.any fun l => lookAt s l t = .mac
  let s := ls.foldl (fun s l => match lookAt s l t with | .mac => corrected (place s l) s | f => foundEffect l o f s) s
  if mac && !met then foundEffect a o .mac s else s

/-- Write bytes into one copy of a line: the block's MAC follows the key, a line stays poisoned under a partial write
(R332), every line is stored poisoned without a key (R468), and a partial write over a block that fails its MAC leaves the
block's other lines poisoned (DEDUCED, log entry 13). `blk`: the write is part of one of the whole block, which reads none of it; `met`: its request has met the block's failed MAC already (R326). -/
def writeCopy (blk met : Bool) (a t : Nat) (o : Origin) (bs : List PByte) (s : State) : State :=
  let ph := place s a
  let whole := bs.length = 64
  let bad := bs.any fun b => b.poison.isSome
  let d := match bs.find? fun b => b.poison.isSome with | some b => b.poison.getD 0 | none => 0
  let put (s : State) : State := { s with mem := { s.mem with
    bytes := bs.foldl (fun m b => Memory.write m (ph + b.at_ % 64) b.val) s.mem.bytes,
    uncorrectable := s.mem.uncorrectable.filter (· ≠ ph), correctable := if whole then s.mem.correctable.filter (· ≠ ph) else s.mem.correctable } }
  if tier a = 0 then
    let f := lookAt s a t
    let stays := !whole && (match f with | .good => false | _ => true)
    let s := if whole then s else foundEffect a o f s
    let s := put s
    if bad then setPoison a d s
    else if stays then s
    else { s with mem := { s.mem with poison := mdel s.mem.poison ph } }
  else match tenantKey s t with
    | none =>
      let s := put s
      setPoison a 2 { s with mem := { s.mem with blocks := mdel s.mem.blocks (ph / 256) } }
    | some key =>
      let f := lookAt s a t
      let tag : BlockTag := ⟨key, a / 256 * 256⟩
      let intact := mget s.mem.blocks (ph / 256) = some tag
      let s := if blk then s else readRest met a t o whole s
      let others := ((List.range 4).map fun i => ph / 256 * 256 + 64 * i).filter fun q => q ≠ ph && !mhas s.mem.poison q
      let s := if intact then s else others.foldl (fun s q => { s with mem := { s.mem with poison := mset s.mem.poison q 0 } }) s
      let keep := !whole && f ≠ .good
      let s := put s
      let s := { s with mem := { s.mem with blocks := mset s.mem.blocks (ph / 256) tag } }
      if bad then setPoison a d s
      else if keep then (match f with | .poisoned d => setPoison a d s | _ => setPoison a 0 s)
      else { s with mem := { s.mem with poison := mdel s.mem.poison ph } }

/-! ### Replicas -/

/-- The enabled replica entry whose copy c holds DPA a: entry and copy. -/
def replicaAt (s : State) (a : Nat) : Option (Nat × Nat) :=
  (List.range 16).findSome? fun n =>
    let cfg := getReg s .ms n 0x06C
    if bit cfg 31 then
      (List.range (if bit cfg 16 then 3 else 2)).findSome? fun c =>
        let base := getReg s .ms n (0x074 + 4 * c) * 65536
        if base ≤ a && a < base + getReg s .ms n 0x070 * 65536 then some (n, c) else none
    else none

/-- The copies of the line at DPA a. -/
def copiesOf (s : State) (a : Nat) : List Nat :=
  match replicaAt s a with
  | some (n, 0) =>
    let o := a - getReg s .ms n 0x074 * 65536
    (List.range (if bit (getReg s .ms n 0x06C) 16 then 3 else 2)).map fun c => getReg s .ms n (0x074 + 4 * c) * 65536 + o
  | _ => [a]

/-- Record a repair or a divergence (R339). -/
def replicaNote (n c a : Nat) (diverged : Bool) (o : Origin) (s : State) : State :=
  let s := bump .ms (if diverged then 0x084 else 0x080) 1 s
  let s := setReg .ms 0 0x088 (a % 2 ^ 32) s
  let s := setReg .ms 0 0x08C (n * 2 ^ 28 + b2n diverged * 2 ^ 27 + c * 2 ^ 25 + a / 2 ^ 32 % 2 ^ 16) s
  raise .ms (if diverged then 3 else 4) (if diverged then capErr .ms 3 o s else s)

/-- PBytes of a line. -/
def asPBytes (a : Nat) (bs : List Byte) : List PByte := bs.zipIdx.map fun p => { at_ := a + p.2, val := p.1 }

/-- Rewrite the failed or odd copies with the chosen line (R339, R340). -/
def repair (n a t : Nat) (o : Origin) (line : List Byte) (bad : List (Nat × Nat)) (s : State) : State :=
  bad.foldl (fun s p => replicaNote n p.1 a false o (writeCopy true false p.2 t ⟨.hmFw, 6⟩ (asPBytes p.2 line) s)) s

/-- The snoop-filter entry of a line. -/
def sfEntry (s : State) (line : Nat) : Option SfEntry := s.qy.filter.find? fun e => e.line = line

/-- Berth b. -/
def getBerth (s : State) (b : Nat) : Berth := mgetD s.qy.berths b {}

/-- Berth b changed by f. -/
def updBerth (b : Nat) (f : Berth → Berth) (s : State) : State :=
  { s with qy := { s.qy with berths := mset s.qy.berths b (f (getBerth s b)) } }

/-- The snoop-filter entry of a line, replaced or removed. -/
def setEntry (line : Nat) (e : Option SfEntry) (s : State) : State :=
  { s with qy := { s.qy with filter := e.toList ++ s.qy.filter.filter fun x => x.line ≠ line } }

/-- A holder's bit of a line is cleared; an entry without holders goes. -/
def dropHolder (line b : Nat) (s : State) : State :=
  match sfEntry s line with
  | none => s
  | some e =>
    if e.holders.contains b then
      let hs := e.holders.erase b
      setEntry line (if hs.isEmpty then none else some { e with holders := hs }) s
    else s

/-- R383 for the departing holders of one line: a Modified line is written poisoned with DETAIL 3 and its entry cleared, a Shared
line loses the holder bits. -/
def loseDeparted (line : Nat) (s : State) : State :=
  match sfEntry s line with
  | none => s
  | some e =>
    if e.holders.any fun b => (getBerth s b).st = 4 then
      let hs := e.holders.filter fun b => (getBerth s b).st ≠ 4
      let s := setEntry line (if hs.isEmpty then none else some { e with holders := hs }) s
      if e.modified then (copiesOf s line).foldl (fun s c => setPoison c 3 s) s else s
    else s

/-- Read one line at its home: its bytes and, when it is poisoned, the DETAIL (R326, R331, R339, R468). A read that the key does not open, or of
a replicated line with no intact copy, brings bytes of no known value. A copy stored poisoned is a failed one (DEDUCED, log entry 94). `again`: the request has met this block's failed MAC already, and counts it once (R326). -/
def readLineOf (again : Bool) (a t : Nat) (o : Origin) (s : State) : (List Byte × Option Nat) × State :=
  let s := loseDeparted a s
  let one (s : State) : (List Byte × Option Nat) × State :=
    let f := lookAt s a t
    let bs := lineBytes s a
    let s := if again && f = .mac then corrected (place s a) s else foundEffect a o f s
    match f with
    | .good => ((bs, none), s)
    | .poisoned d => ((bs, some d), s)
    | .failed => ((bs, some 0), s)
    | .retired => let (bs, s) := freeBytes 64 s; ((bs, some 2), s)
    | .mac => let (bs, s) := freeBytes 64 s; ((bs, some 0), s)
  match replicaAt s a with
  | some (n, 0) =>
    let cfg := getReg s .ms n 0x06C
    if bit cfg 30 then one s else
    let cs := (copiesOf s a).zipIdx.map fun p => (p.2, p.1)
    let good := cs.filter fun p => lookAt s p.2 t = .good
    let bad := cs.filter fun p => lookAt s p.2 t ≠ .good
    if tenantKey s t = none then one s else
    -- FAILOVER reads the copies in order up to the first intact one, the other modes read all
    let met : List (Nat × Nat) := match bits cfg 25 24, good with | 0, g :: _ => cs.filter fun p => p.1 ≤ g.1 | _, _ => cs
    let s := met.foldl (fun s p => corrected (place s p.2) s) s
    match bits cfg 25 24, good with
    | _, [] => let (bs, s) := freeBytes 64 s; ((bs, some 0), ueNote a o s)
    | 0, g :: _ =>
      let line := lineBytes s g.2
      if g.1 = 0 then ((line, none), s)
      else ((line, none), repair n a t o line (bad.filter fun p => p.1 < g.1) s)
    | _, [g] => ((lineBytes s g.2, none), repair n a t o (lineBytes s g.2) bad s)
    | m, gs =>
      let vals := gs.map fun p => (p, lineBytes s p.2)
      match vals.find? fun v => 2 ≤ (vals.filter fun u => u.2 = v.2).length with
      | some v =>
        let odd := (vals.filter fun u => u.2 ≠ v.2).map (·.1)
        if m = 1 || (odd = [] && bad = []) then ((v.2, none), s) else ((v.2, none), repair n a t o v.2 (odd ++ bad) s)
      | none => ((lineBytes s a, some 1), replicaNote n 0 a true o s)
  | _ => one s

/-- Read one line at its home, as the first of its block that a request reads. -/
def readLine (a t : Nat) (o : Origin) (s : State) : (List Byte × Option Nat) × State := readLineOf false a t o s

/-- Write bytes of one line at its home, every copy alike (R338); `blk` and `met` as of writeCopy. -/
def writeLineOf (blk met : Bool) (a t : Nat) (o : Origin) (bs : List PByte) (s : State) : State :=
  let s := loseDeparted a s
  (copiesOf s a).foldl (fun s c => writeCopy blk (met && c = a) c t o (bs.map fun b => { b with at_ := c + b.at_ % 64 }) s) s

/-- Write bytes of one line, alone of its block. -/
def writeLine (a t : Nat) (o : Origin) (bs : List PByte) (s : State) : State := writeLineOf false false a t o bs s

/-- Write bytes of one line that the same request has read: a failed MAC of its block is counted once (R326). `was`: how the read found the line. -/
def rewriteLine (was : Found) (a t : Nat) (o : Origin) (bs : List PByte) (s : State) : State := writeLineOf false (was = .mac) a t o bs s

/-- Count data bytes at the home, R348. -/
def countBytes (a cls n : Nat) (wr : Bool) (s : State) : State :=
  let i := 4 * (8 * tier a + cls % 8) + (if wr then 2 else 0)
  { s with mem := { s.mem with counts := mset s.mem.counts i ((mgetD s.mem.counts i 0 + n) % 2 ^ 64) } }

/-! ### Waiting at the home -/

/-- Credits a message takes, in units of 32 bytes (R359). -/
def creditNeed (m : BresaMsg) : Nat := if m.typ = 0 then 0 else 1 + 2 * m.len

/-- The bytes a message counts for in B_RX and B_TX: header and lines; of a CXL partner's traffic the data (DESIGN CHOICE, log entry 99). -/
def msgBytes (be : Berth) (m : BresaMsg) : Nat := if be.cxl then 64 * m.len else 32 + 64 * m.len

/-- Send a message and count it in B_TX. -/
def putBresa (b : Nat) (m : BresaMsg) (s : State) : State := bump64 (.qyBerth b) 0x06C (msgBytes (getBerth s b) m) (emit (.bresa b m) s)

/-- Send what waits at berth b, class by class in order, as far as the partner's credits admit; a CREDIT needs none (R359). -/
def pumpBresa (b : Nat) (s : State) : State :=
  (getBerth s b).waiting.foldl (fun s m =>
    let be := getBerth s b
    let have_ := be.txCredits.getD m.cls 0
    if creditNeed m = 0 || (creditNeed m ≤ have_ && !(be.waiting.any fun w => w.cls = m.cls)) then
      putBresa b m (updBerth b (fun be => { be with txCredits := be.txCredits.set m.cls (have_ - creditNeed m) }) s)
    else updBerth b (fun be => { be with waiting := be.waiting ++ [m] }) s) (updBerth b (fun be => { be with waiting := [] }) s)

/-- Send a Bresa message to an active berth: held until the partner's credits admit it. A CXL partner takes its snoops by
CXL.cache, which has its own credits. -/
def sendBresa (b : Nat) (m : BresaMsg) (s : State) : State :=
  let be := getBerth s b
  if be.st ≠ 3 && be.st ≠ 6 then s
  else if be.cxl then putBresa b m s
  else pumpBresa b (updBerth b (fun be => { be with waiting := be.waiting ++ [m] }) s)

/-- A hub-to-partner message. -/
def bmsg (cls typ tag ctx label status addr aux : Nat) (data : List Byte) (poison : Bool) : BresaMsg :=
  { cls := cls, typ := typ, len := cdiv data.length 64, flags := b2n poison, tag := tag, ctx := ctx, label := label,
    status := status, rsv := 0, addr := addr, aux := aux, payload := data ++ List.replicate (cdiv data.length 64 * 64 - data.length) 0 }

/-- The lower berth of berth b's pair, or b (R353). -/
def lowerBerth (s : State) (b : Nat) : Nat := if (getBerth s b).paired then b / 2 * 2 else b

/-- The page of the block that issued a request, for captures under R19. -/
def whoPage : Who → Page
  | .mover _ | .lane _ => .gm
  | .churn _ | .engine _ => .ch
  | .bresa .. | .cxl .. => .qy
  | .remote .. | .planReq .. => .hl
  | .stream _ => .st
  | .migration => .tu
  | .host .. | .hostMem .. => .gw
  | _ => .qe

/-- The origin captured for a party of function f (R34, R568). -/
def whoOrigin (s : State) (w : Who) (f : Nat) : Origin :=
  match w with
  | .bresa b _ | .cxl b _ => ⟨.partner, lowerBerth s b⟩
  | .remote _ src _ | .planReq _ src _ => ⟨.peer, src⟩
  | .stream _ | .migration | .host .. | .hostMem .. => ⟨.hostPf, 0⟩
  | _ => fnOrigin f

/-- A request that reaches a reserved DPA is captured with that DPA by its block (R19); the spec assigns no code to it, so the code is free
among those that are not 0 and not 0xFFF. -/
def captureReserved (w : Who) (f dpa : Nat) (s : State) : State :=
  let (n, s) := draw s
  capDpa (whoPage w) (1 + (Config.freeWord n).toNat % 0xFFE) (whoOrigin s w f) dpa s

/-- Whether a DPA names a later copy of an enabled replica entry (R338). -/
def laterCopy (s : State) (a : Nat) : Bool := match replicaAt s a with | some (_, c) => c ≠ 0 | none => false

/-- Whether a request performs an access at a DPA at all: memory, or a page that its tag guards, and no later copy (R19, R321, R322, R338). -/
def reachable (s : State) (a : Nat) : Bool := region s a ≤ 3 && !laterCopy s a

/-- The berth a COH message about a line travels on, R353. -/
def cohBerth (s : State) (b line : Nat) : Nat := if (getBerth s b).paired then b / 2 * 2 + bits line 6 6 else b

/-- The holders an access must snoop first, R375: all but the requester for a write, an atomic or RD_OWN; the holder of a
Modified line for a read. -/
def holdersFor (s : State) (line : Nat) (act : HomeAct) (who : Who) : List Nat :=
  let self : Option Nat := match act, who with
    | .own b, _ | .share b, _ => some b
    | _, .bresa b _ | _, .cxl b _ => some (lowerBerth s b)
    | _, _ => none
  match sfEntry s line with
  | none => []
  | some e =>
    let hs := e.holders.filter fun b => some b ≠ self && (getBerth s b).st ≠ 4
    match act with
    | .read | .share _ => if e.modified then hs else []
    | _ => hs

/-- The group of a DPA's tier: LPDDR or not, and its number. -/
def groupOf (a : Nat) : Bool × Nat :=
  if tier a = 1 then (false, bits (a - 0x4000000000) 37 32) else (true, bits (a - 0x10000000000) 39 35)

/-- A group's number among all groups: LPDDR groups follow from 64 on. -/
def groupKey (g : Bool × Nat) : Nat := g.2 + 64 * b2n g.1

/-- The order number from which requests to an external DPA's group wait for a change of its mode, if one is due (R324). -/
def groupFrom (s : State) (a : Nat) : Option Nat := if tier a = 0 then none else mget s.mem.modeFrom (groupKey (groupOf a))

/-- Whether the mode of a DPA's group is about to change. -/
def groupBusy (s : State) (a : Nat) : Bool := (groupFrom s a).isSome

/-- Whether a snoop-filter set is full for a new line (R374): 2^20 sets of 16 by line number (DESIGN CHOICE, log entry 9). -/
def sfSetFull (s : State) (line : Nat) : Bool :=
  (sfEntry s line).isNone && 16 ≤ (s.qy.filter.filter fun e => e.line / 64 % 2 ^ 20 = line / 64 % 2 ^ 20).length

/-- Whether a COH request of berth b for a line is open at the line's home (R376). -/
def cohOpen (s : State) (line b : Nat) : Bool :=
  s.mem.queue.any fun o => o.line = line && (match o.act with | .share c | .own c => lowerBerth s c = b | _ => false)

/-- Send SNP_INV for a line to a berth, unless one is open already or its own request for the line is (R376). -/
def snoop (line b : Nat) (s : State) : State :=
  let be := getBerth s b
  if (be.snoops.any fun p => p.2 = line) || cohOpen s line b then s
  else sendBresa (cohBerth s b line) (bmsg 1 0x11 (be.nextTag % 4096) 0 0 0 line 0 [] false)
    (updBerth b (fun be => { be with snoops := (be.nextTag % 4096, line) :: be.snoops, nextTag := be.nextTag + 1 }) s)

/-- Whether a snoop of a line has no answer yet. -/
def snoopOpen (s : State) (line : Nat) : Bool := s.qy.berths.any fun p => p.2.snoops.any fun q => q.2 = line

/-- Whether an access to a line waits for berths (R375). -/
def lineHeld (s : State) (line : Nat) (act : HomeAct) (who : Who) : Bool :=
  !(holdersFor s line act who).isEmpty || snoopOpen s line

/-- The lines an access reaches: its line, and where an ACCUMULATE's element crosses its end the line in which it goes on (R227). -/
def HomeOp.lines (op : HomeOp) : List Nat :=
  match op.act with
  | .accumulate _ df _ _ es _ next => if es.any fun e => 64 < e.1 + fmtWidth df / 8 then [op.line, next] else [op.line]
  | _ => [op.line]

/-- Whether an access is the host's through CXL.mem. -/
def Who.isHostMem : Who → Bool | .hostMem .. => true | _ => false

/-- Whether an access follows a posted BAR2 write of its link that still waits, or a register access that does (R440). -/
def afterPosted (s : State) (op : HomeOp) : Bool :=
  match op.who with
  | .host l _ =>
    (s.mem.queue.any fun o => decide (o.id < op.id) && (match o.who, o.act with | .host m _, .write _ => m = l | _, _ => false))
      || s.gw.later.any fun x => decide (x.1 ≤ op.id)
  | _ => false

/-- Whether an access may be performed now: nothing to snoop, no host copy, no mode change, no earlier posted write of its link, room in the
filter and in the journal. Host accesses through CXL.mem need no back-invalidation. -/
def homeReady (s : State) (op : HomeOp) : Bool :=
  !(op.lines.any fun l => lineHeld s l op.act op.who || (s.mem.hostCopies.contains l && !op.who.isHostMem)
      || (groupFrom s l).any fun n => decide (n ≤ op.id))
    && !afterPosted s op
    && (match op.act with | .share _ | .own _ => !sfSetFull s op.line | _ => true)
    && (match op.jid with
        | some (src, q) => (s.mem.journal.any fun e => e.src = src && e.seq = q)
            || decide ((s.mem.journal.filter fun e => e.home = homeOf s op.line).length < 4096)
        | none => true)

/-- Ask the host to give up its copy of a line, once. -/
def backInvalidate (line : Nat) (s : State) : State :=
  if s.mem.hostCopies.contains line && !s.mem.biOpen.contains line then
    emit (.backInvalidate line) { s with mem := { s.mem with biOpen := line :: s.mem.biOpen } }
  else s

/-- Ask for what an access waits on: the snoops, the back-invalidation, the capacity eviction (R159, R375). Entries of a full set that name a
departing berth are cleared at once, as its departure clears them (R382). -/
def homeAsk (op : HomeOp) (s : State) : State :=
  let s := op.lines.foldl (fun s l =>
    let s := (holdersFor s l op.act op.who).foldl (fun s b => snoop l b s) s
    if op.who.isHostMem then s else backInvalidate l s) s
  match op.act with
  | .share _ | .own _ =>
    if sfSetFull s op.line then
      let set := s.qy.filter.filter fun e => e.line / 64 % 2 ^ 20 = op.line / 64 % 2 ^ 20
      if set.any fun e => e.holders.any fun b => (getBerth s b).st = 4 then set.foldl (fun s e => loseDeparted e.line s) s
      else if set.any fun e => snoopOpen s e.line then s
      else
        let (n, s) := draw s
        match set[Config.sfVictim n % 16]? with
        | some e => e.holders.foldl (fun s b => snoop e.line b s) (bump .qy 0x04C 1 s)
        | none => s
    else s
  | _ => s

/-- The answer to a partner's request (R360). -/
def cplStatus (poison : Option Nat) : Nat := if poison.isSome then 3 else 0

/-- Add one line's result to an answer that waits for several, and give the answer when it is complete: the party, its
bytes in address order, the status. -/
def gather (who : Who) (bs : List PByte) (status : Nat) (s : State) : Option Gather × State :=
  match s.mem.gathers.find? fun g => g.who = who with
  | none => (some { who := who, left := 0, bytes := bs, status := status }, s)
  | some g =>
    let g' : Gather := { g with left := g.left - 1, bytes := g.bytes ++ bs, status := Nat.max g.status status }
    let rest := s.mem.gathers.filter fun h => h.who ≠ who
    if g'.left = 0 then (some g', { s with mem := { s.mem with gathers := rest } })
    else (none, { s with mem := { s.mem with gathers := g' :: rest } })

/-- The bytes of a gathered answer, in the order asked for or in address order. -/
def Gather.sorted (g : Gather) : List PByte :=
  if g.want.isEmpty then g.bytes.insertionSort fun a b => a.at_ ≤ b.at_
  else g.want.flatMap fun w => (List.range w.2).filterMap fun i => g.bytes.find? fun b => b.at_ = w.1 + i

/-- A command whose access failed its tag check at the slice completes RIGHTS (R467): the rights that access needed. -/
def denyCmd (k : Nat) (act : HomeAct) (s : State) : State :=
  let d := match act with | .read | .share _ | .own _ => 1 | .write _ => 2 | .atomic .. => 4 | _ => 3
  updCmd k (fun c => match c.stop with | none => { c with stop := some (stRights, d) } | some _ => c) s

/-- An addition of command k met a destination line stored poisoned (R227, R314): the first such line, by its input address. -/
def noteDst (k a d : Nat) (s : State) : State :=
  updCmd k (fun c => match c.dstPoison with | none => { c with dstPoison := some (a, d) } | some _ => c) s

/-- The input address a party's plan gave to a DPA. -/
def inputOf (s : State) (w : Who) (line : Nat) : Nat :=
  (s.tu.plans.findSome? fun p => if p.who ≠ w then none else p.items.findSome? fun it => match it.st with
    | .ok o .dpa => if o ≤ line && line < o + 4096 then some (it.page + (line - o)) else none
    | _ => none).getD 0

/-- Return the receive credits of a message to its sender (R359). -/
def creditBack (b : Nat) (m : BresaMsg) (s : State) : State :=
  let back (be : Berth) : Berth := { be with rxCredits := be.rxCredits.set m.cls (be.rxCredits.getD m.cls 0 + creditNeed m) }
  sendBresa b (bmsg m.cls 0 0 0 0 0 0 (creditNeed m) [] false) (updBerth b back s)

/-- The CPL, CPL_W or GRANT of a partner's request, if its berth has stayed (R358, R382). The request leaves its buffer, and its credits go
back (log entry 98). -/
def bresaReply (b id : Nat) (status dpa : Nat) (data : List Byte) (s : State) : State :=
  match mget (getBerth s b).opens id with
  | none => s
  | some o =>
    let s := updBerth b (fun be => { be with opens := mdel be.opens id }) s
    let m := o.msg
    if !o.live then s else
    let s := creditBack b m s
    if m.cls = 1 then sendBresa b (bmsg 1 0x10 m.tag 0 0 status dpa (b2n (m.typ = 2)) data (status = 3)) s
    else sendBresa b (bmsg 0 (if m.typ = 1 || m.typ = 3 then 0x10 else 0x11) m.tag 0 0 status 0 0 data (status = 3)) s

/-- One part of a partner's request is done; the last answers it. -/
def bresaAnswer (b id dpa : Nat) (bs : List PByte) (st : Nat) (s : State) : State :=
  match gather (.bresa b id) bs st s with
  | (none, s) => s
  | (some g, s) => bresaReply b id g.status dpa (if g.status = 0 || g.status = 3 then g.sorted.map (·.val) else []) s

/-- The data of a plain CXL partner's read; a write has no answer. -/
def cxlAnswer (b id : Nat) (data : List Byte) (poison : Bool) (s : State) : State :=
  match mget (getBerth s b).opens id with
  | none => s
  | some o =>
    let s := updBerth b (fun be => { be with opens := mdel be.opens id }) s
    if o.live && o.msg.typ ≠ 4 then bump64 (.qyBerth b) 0x06C data.length (emit (.cxlData b o.msg.addr data poison) s) else s

/-- The answer to an inbound remote request; a lost link carries none (R396). -/
def remoteReply (link src tag status detail : Nat) (bs : List Byte) (poison : Bool) (s : State) : State :=
  let s := { s with hl := { s.hl with ins := s.hl.ins.filter fun i => !(i.req.link = link && i.req.src = src && i.req.tag = tag) } }
  if (match mget s.hl.links link with | some l => l.st = 4 || l.st = 5 | none => false) && !bit (getReg s (.hlLink link) 0 0x040) 30
  then emit (.remoteAck link src tag status detail bs poison) s else s

/-- Answer a finished access to its party: its bytes, the poison met, or that its tag check failed. -/
def answer (op : HomeOp) (bs : List PByte) (poison : Option Nat) (denied : Bool) (s : State) : State :=
  let st := if denied then 2 else cplStatus poison
  match op.who with
  | .result k => if denied then denyCmd k op.act s else s
  | .cmd k =>
    if denied then denyCmd k op.act s else
    match poison, s.gm.movers.find? (fun p => p.2.k = k) with
    | some d, some (m, _) => noteDst k (inputOf s (.mover m) op.line) d s
    | _, _ => s
  | .lane l =>
    match mget s.gm.lanes l with
    | some j => if denied then denyCmd j.k op.act s else if poison.isSome then noteDst j.k (inputOf s op.who op.line) 0 s else s
    | none => s
  | .bresa b id => bresaAnswer b id op.line bs st s
  | .cxl b id => cxlAnswer b id (bs.map (·.val)) (poison.isSome || denied) s
  | .host link tag | .hostMem link tag =>
    match op.act with
    | .read =>
      match gather op.who bs st s with
      | (none, s) => s
      | (some g, s) => emit (.hostData link tag (g.sorted.map (·.val)) (g.status = 3)) s
    | _ => s
  | .remote link src tag =>
    match gather op.who bs (if denied then 0x200 else match poison with | some d => 0x100 + d | none => 0) s with
    | (none, s) => s
    | (some g, s) =>
      remoteReply link src tag (if g.status = 0 then stSuccess else if g.status = 0x200 then stRights else stPoisoned)
        (g.status % 0x100) (g.sorted.map (·.val)) (g.status / 0x100 = 1) s
  | .atomicUnit k =>
    if denied then finish k stRights 4 0 (match getCmd s k with | some c => fld c.raw 24 8 | none => 0) s else
    match poison with
    | some d => updCmd k (fun c => if c.phase = .finished then c else
        { c with phase := .finished, status := stPoisoned, detail := d, done := 0, fault := fld c.raw 24 8 }) s
    | none => updCmd k (fun c => { c with old := some (leNat (bs.map (·.val))), done := 1 }) s
  | _ => s

/-- Add or extend the filter entry of a line for a berth. -/
def sfGrant (line b tenant : Nat) (own : Bool) (s : State) : State :=
  let e : SfEntry := match sfEntry s line with
    | some e => if own then ⟨line, [b], true, tenant⟩ else ⟨line, if e.holders.contains b then e.holders else b :: e.holders, false, tenant⟩
    | none => ⟨line, [b], own, tenant⟩
  setEntry line (some e) s

/-- Whether a request's berth still takes a grant. -/
def grantLive (s : State) (who : Who) : Bool :=
  match who with
  | .bresa b id => match mget (getBerth s b).opens id with | some o => o.live | none => false
  | .cxl b id => match mget (getBerth s b).opens id with | some o => o.live | none => false
  | _ => false

/-- Add a journal entry when the request carries an ID (R552). -/
def journalAdd (op : HomeOp) (old : Nat) (poison : Option Nat) (s : State) : State :=
  match op.jid with
  | some (src, q) => { s with mem := { s.mem with journal := ⟨src, q, homeOf s op.line, old, poison⟩ :: s.mem.journal } }
  | none => s

/-- The journalled result of a request, if it was performed before. -/
def journalled (s : State) (op : HomeOp) : Option JEntry :=
  match op.jid with
  | some (src, q) => s.mem.journal.find? fun e => e.src = src && e.seq = q
  | none => none

/-- The bytes a read asks for of a line: all of it, or what lies in the ranges its answer wants (R348). -/
def askedOf (s : State) (op : HomeOp) : Nat :=
  match s.mem.gathers.find? fun g => g.who = op.who with
  | some g => if g.want.isEmpty then 64 else (g.want.map fun w => Nat.min (w.1 + w.2) (op.line + 64) - Nat.max w.1 op.line).sum
  | none => 64

/-- Whether a request has met the failed MAC of the line's block before; and the meeting noted (R326). -/
def macMet (op : HomeOp) (s : State) : Bool × State :=
  let blk := op.line / 256
  match s.mem.gathers.find? fun g => g.who = op.who with
  | some g =>
    if g.macs.contains blk then (true, s)
    else if lookAt s op.line op.tenant = .mac then
      (false, { s with mem := { s.mem with gathers := s.mem.gathers.map fun h => if h.who = op.who then { h with macs := blk :: h.macs } else h } })
    else (false, s)
  | none => (false, s)

/-- A line that a cacheable read leaves with a berth that is evicted is snooped then (R376, R384). -/
def snoopEvicting (op : HomeOp) (s : State) : State :=
  match op.act with
  | .share b | .own b => if (getBerth s b).evicting && (sfEntry s op.line).any (·.holders.contains b) then snoop op.line b s else s
  | _ => s

/-- What a performed access leaves at the line: a CXL.mem access, a host copy (R159); a line granted to a berth that is evicted, a snoop (R384). -/
def afterHome (op : HomeOp) (s : State) : State :=
  snoopEvicting op <|
    if op.who.isHostMem && !s.mem.hostCopies.contains op.line then { s with mem := { s.mem with hostCopies := op.line :: s.mem.hostCopies } } else s

/-- Perform one access at its home (R159, R164, R171, R227, R312, R373, R567) and answer it. -/
def perform (op : HomeOp) (s : State) : State :=
  let line := op.line
  if op.jid.isSome && spoilt s [.journal (homeOf s line)] then startReset 2 s
  else if !op.lines.all fun l => tagPasses s l op.tenant op.firmware then
    let s := tagDeny op.origin s
    match op.act with
    | .read | .share _ | .own _ | .atomic .. => snoopEvicting op (answer op (asPBytes line (List.replicate 64 0)) none true s)
    | _ => answer op [] none true s
  else afterHome op <| match op.act with
  | .read =>
    let n := askedOf s op
    let (again, s) := macMet op s
    let ((bs, p), s) := readLineOf again line op.tenant op.origin s
    answer op ((asPBytes line bs).map fun b => { b with poison := p }) p false (countBytes line op.cls n false s)
  | .share b | .own b =>
    let own := match op.act with | .own _ => true | _ => false
    let ((bs, p), s) := readLine line op.tenant op.origin s
    let s := countBytes line op.cls 64 false s
    answer op ((asPBytes line bs).map fun b => { b with poison := p }) p false (if grantLive s op.who then sfGrant line b op.tenant own s else s)
  | .write bs => answer op [] none false (countBytes line op.cls bs.length true (writeLineOf op.whole false line op.tenant op.origin bs s))
  | .atomic aop size a b off =>
    match journalled s op with
    | some e => answer op (asPBytes line (leBytes size e.old)) e.poison false s
    | none =>
      let was := lookAt s line op.tenant
      let ((bs, p), s) := readLine line op.tenant op.origin s
      match p with
      | some d => answer op (asPBytes line (List.replicate size 0)) (some d) false (journalAdd op 0 (some d) s)
      | none =>
        let old := leNat ((bs.drop off).take size)
        let new := leBytes size (atomicNew aop size old a b)
        let s := rewriteLine was line op.tenant op.origin (asPBytes (line + off) new) s
        answer op (asPBytes line (leBytes size old)) none false (journalAdd op old none (countBytes line op.cls size true s))
  | .packet v carrier =>
    match journalled s op with
    | some _ => answer op [] none false s
    | none =>
      let was := lookAt s line op.tenant
      let ((bs, p), s) := readLine line op.tenant op.origin s
      let sum := accMerge (accOfPacket (vecOf bs) p.isSome false) (accOfPacket v false carrier)
      let s := rewriteLine was line op.tenant op.origin (asPBytes line (vecBytes (packetOf sum))) s
      let seen := match op.who with | .lane _ | .remote .. | .bresa .. => p | _ => none
      answer op [] seen false (journalAdd op 0 none (countBytes line op.cls 64 true s))
  | .accumulate sf df rm sat elems bad _ =>
    match journalled s op with
    | some _ => answer op [] none false s
    | none =>
      let w := fmtWidth df / 8
      let ls := op.lines
      -- how each line is found, and what it holds; a block's failed MAC is met once
      let (old, s) := ls.foldl (fun (a : List (Nat × Found × List Byte × Option Nat) × State) l =>
        let was := lookAt a.2 l op.tenant
        let (x, s) := readLineOf (a.1.any fun y => y.1 / 256 = l / 256 && y.2.1 = .mac) l op.tenant op.origin a.2
        (a.1 ++ [(l, was, x)], s)) ([], s)
      -- each element adds to what the elements before it left (R226)
      let new := elems.foldl (fun (cur : List Byte) e =>
        let d := exactValue (fmtOf df) (leNat ((cur.drop e.1).take w))
        let y := roundTo (fmtOf df) (Num.add (rm = 3) d (exactValue (fmtOf sf) e.2.1)) { mode := rm, r := e.2.2 } sat
        cur.take e.1 ++ leBytes w y ++ cur.drop (e.1 + w)) (old.flatMap (·.2.2.1))
      let out := (asPBytes 0 new).filter fun b => elems.any fun e => e.1 ≤ b.at_ && b.at_ < e.1 + w
      let s := old.zipIdx.foldl (fun s x =>
        let (l, was, _, p) := x.1
        let mine := (out.filter fun b => b.at_ / 64 = x.2).map fun b => { b with at_ := l + b.at_ % 64, poison := if bad then some 0 else p }
        countBytes l op.cls mine.length true (rewriteLine was l op.tenant op.origin mine s)) s
      let seen := old.findSome? fun x => x.2.2.2.map fun d => (x.1, d)
      answer { op with line := (seen.map (·.1)).getD line } [] (seen.map (·.2)) false (journalAdd op 0 none s)

/-! ### Regulation and arbitration (R344, R345) -/

/-- The cluster that runs CHURN command k. A region is 32 clusters. -/
def runCluster (s : State) (k : Nat) : Option Nat := (s.ch.clusters.find? fun p => p.2.run = some k).map (·.1)

/-- The source of a party's accesses, by the numbers of MS.SRC_SEL (R345); an access of a command is its mover's, lane's or cluster region's. -/
def whoSource (s : State) : Who → Option Nat
  | .mover m => some m
  | .lane l => some (64 + l)
  | .engine e => some (72 + e / 2048)
  | .churn k => (runCluster s k).map fun cl => 72 + cl / 32
  | .bresa b _ | .cxl b _ => some (88 + b)
  | .host l _ | .hostMem l _ => some (96 + l)
  | .remote l _ _ => some (100 + l)
  | .cmd k => match s.gm.movers.find? fun p => p.2.k = k with
    | some p => some p.1
    | none => match s.gm.lanes.find? fun p => p.2.k = k with
      | some p => some (64 + p.1)
      | none => (runCluster s k).map fun cl => 72 + cl / 32
  | _ => none

/-- The class the address-range classifier gives a DPA: source bit 16 host, 17 peer (R343). -/
def arcClass (src a : Nat) (s : State) : Nat :=
  let hit := (List.range 16).find? fun n =>
    let cfg := getReg s .ms 0 (0x108 + 16 * n)
    bit cfg 31 && bit cfg src && getReg s .ms 0 (0x100 + 16 * n) ≤ a / 65536 && a / 65536 ≤ getReg s .ms 0 (0x104 + 16 * n)
  match hit with
  | some n => bits (getReg s .ms 0 (0x108 + 16 * n)) 2 0
  | none => bits (getReg s .ms 0 0x090) 26 24

/-- The present limit of a class and tier, by 8 × tier + class. Every limit starts at LMAX. -/
def limitOf (s : State) (i : Nat) : Nat := mgetD s.mem.limits i 64

/-- The transaction an access belongs to: its request and its 256-byte block (R345). -/
def HomeOp.txn (o : HomeOp) : Nat × Nat := (o.req, o.line / 256)

/-- The transactions that a source has at the homes of a class and tier: from it in the queue, up to an order number. -/
def sourceOut (s : State) (src cls t before : Nat) : List (Nat × Nat) :=
  ((s.mem.queue.filter fun o => o.src = some src && o.cls % 8 = cls && tier o.line = t && decide (o.id < before)).map HomeOp.txn).dedup

/-- Whether an access in the queue is issued yet: its source has fewer transactions before it than its limit (R345). Hub SRAM is not limited. -/
def issued (s : State) (o : HomeOp) : Bool :=
  match o.src, tier o.line with
  | some src, t + 1 =>
    let before := sourceOut s src (o.cls % 8) (t + 1) o.id
    before.contains o.txn || before.length < limitOf s (8 * t + o.cls % 8)
  | _, _ => true

/-- Whether a source must wait before it reads lines in a class (R345). -/
def sourceFull (s : State) (src : Option Nat) (cls : Nat) (lines : List Nat) : Bool :=
  match src with
  | none => false
  | some n => lines.any fun l => match tier l with | 0 => false | t + 1 => limitOf s (8 * t + cls % 8) ≤ (sourceOut s n (cls % 8) (t + 1) s.mem.nextOp).length

/-- The access a home serves next among those that wait, and its turn after: of the class in turn while it has been served fewer transactions
than its weight, the accesses of one transaction counting once; then of the next class (R344). -/
def arbNext (s : State) (home : Nat) (waits : List HomeOp) : Option (HomeOp × Turn) :=
  let t := mgetD s.mem.arb home {}
  let w := zero1 (bits (getReg s .ms 0 0x094) (4 * t.cls + 3) (4 * t.cls))
  match waits.find? fun o => o.cls % 8 = t.cls && (t.served.contains o.txn || t.served.length < w) with
  | some o => some (o, if t.served.contains o.txn then t else { t with served := o.txn :: t.served })
  | none => (List.range' (t.cls + 1) 8).findSome? fun i => (waits.find? fun o => o.cls % 8 = i % 8).map fun o => (o, ⟨i % 8, [o.txn]⟩)

/-- The access to a line that goes next among those issued: a cacheable read of a berth that holds the line before a snoop of that berth
(R376), else the oldest. -/
def nextFor (s : State) (line : Nat) : Option HomeOp :=
  let ops := s.mem.queue.filter fun o => o.line = line && issued s o
  let hs := match sfEntry s line with | some e => e.holders | none => []
  match ops.find? fun o => match o.act with | .share b | .own b => hs.contains b | _ => false with
  | some o => some o
  | none => ops.head?

/-- What is ready at the homes: at each line the access that goes next, if it may be performed. -/
def homeReadyOps (s : State) : List HomeOp := ((s.mem.queue.map (·.line)).dedup).filterMap fun l => (nextFor s l).filter (homeReady s)

/-- Serve the queue: at a home perform what is ready, class by class in the home's turn, and ask for what the others wait on. -/
def homeServe : Nat → State → State
  | 0, s => s
  | fuel + 1, s =>
    let ready := homeReadyOps s
    match ready with
    | first :: _ =>
      let h := homeOf s first.line
      let (op, turn) := (arbNext s h (ready.filter fun o => homeOf s o.line = h)).getD (first, {})
      homeServe fuel (perform op { s with mem := { s.mem with queue := s.mem.queue.filter (fun o => o.id ≠ op.id), arb := mset s.mem.arb h turn } })
    | [] =>
      let s := ((s.mem.queue.map (·.line)).dedup).foldl (fun s l => match nextFor s l with | some op => homeAsk op s | none => s) s
      if (homeReadyOps s).isEmpty then s else homeServe fuel s

/-- Whether a posted BAR2 write of an order number below n waits at its home. -/
def postedBefore (s : State) (n : Nat) : Bool :=
  s.mem.queue.any fun o => decide (o.id < n) && match o.who, o.act with | .host .., .write _ => true | _, _ => false

/-- Whether a posted BAR2 write waits at its home. -/
def postedOpen (s : State) : Bool := s.mem.queue.any fun o => match o.who, o.act with | .host .., .write _ => true | _, _ => false

/-- Serve the whole queue. -/
def homeDrain (s : State) : State := homeServe (2 * s.mem.queue.length + 2) s

/-- Issue one access to a line: it is performed at once when nothing has to be waited for, and queued otherwise. `req`: the request it is part
of; `whole` as of HomeOp. -/
def issueOf (req : Nat) (whole : Bool) (line tenant : Nat) (fw : Bool) (o : Origin) (cls : Nat) (act : HomeAct) (who : Who) (jid : Option (Nat × Nat))
    (s : State) : State :=
  let id := s.mem.nextOp
  let op : HomeOp := { id := id, src := whoSource s who, whole := whole, req := req, line := line, tenant := tenant, firmware := fw, origin := o, cls := cls,
                       act := act, who := who, jid := jid }
  let s := { s with mem := { s.mem with nextOp := id + 1 } }
  if !(s.mem.queue.any fun q => q.line = line) && issued s op && homeReady s op then perform op s
  else homeDrain { s with mem := { s.mem with queue := s.mem.queue ++ [op] } }

/-- Issue one access to a line, a request of its own. -/
def issue (line tenant : Nat) (fw : Bool) (o : Origin) (cls : Nat) (act : HomeAct) (who : Who) (jid : Option (Nat × Nat)) (s : State) : State :=
  issueOf s.mem.nextOp false line tenant fw o cls act who jid s

/-- Whether a request's bytes fill the 256-byte block of a line (R327). -/
def fillsBlock (bs : List PByte) (line : Nat) : Bool := (bs.filter fun b => b.at_ / 256 = line / 256).length = 256

/-- Bytes of device memory written from DPA a on, split at lines (R163). -/
def issueWrite (a tenant : Nat) (fw : Bool) (o : Origin) (cls : Nat) (bs : List PByte) (who : Who) (s : State) : State :=
  let whole (l : Nat) : Bool := a ≤ l / 256 * 256 && l / 256 * 256 + 256 ≤ a + bs.length
  let req := s.mem.nextOp
  (pieces 64 a bs.length).foldl (fun s p =>
    issueOf req (whole p.1) (p.1 / 64 * 64) tenant fw o cls (.write (((bs.drop (p.1 - a)).take p.2).zipIdx.map fun b => { b.1 with at_ := p.1 + b.2 })) who none s) s

/-- Data of a line that a cache gives back: written at its home at once. While the group's mode is about to change it waits as a request of its
own, before the line's other accesses (R324), unless an access that the change itself waits for stands at the line. -/
def giveBack (line tenant : Nat) (o : Origin) (cls : Nat) (bs : List PByte) (s : State) : State :=
  match groupFrom s line with
  | some n =>
    if s.mem.queue.any fun q => q.lines.contains line && decide (q.id < n) then countBytes line cls 64 true (writeLine line tenant o bs s)
    else
      let op : HomeOp := { id := s.mem.nextOp, req := s.mem.nextOp, line := line, tenant := tenant, firmware := false, origin := o, cls := cls,
                           act := .write bs, who := .none, jid := none }
      { s with mem := { s.mem with nextOp := s.mem.nextOp + 1, queue := op :: s.mem.queue } }
  | none => countBytes line cls 64 true (writeLine line tenant o bs s)

/-- The next journal ID of a source, R552. -/
def journalId (src : Nat) (s : State) : (Nat × Nat) × State :=
  let q := mgetD s.mem.srcSeq src 0
  ((src, q), { s with mem := { s.mem with srcSeq := mset s.mem.srcSeq src ((q + 1) % 2 ^ 24) } })

/-- Whether the reads of these lines wait for nothing: no queued access, no copy to recall, no mode change; and the snoops they need, sent (R164,
R324, R375). -/
def recallLines (lines : List Nat) (s : State) : Bool × State :=
  let need := lines.filter fun l =>
    (s.mem.queue.any fun o => o.lines.contains l) || lineHeld s l .read .none || groupBusy s l || s.mem.hostCopies.contains l
  (need.isEmpty, need.foldl (fun s l =>
    backInvalidate l ((holdersFor s l .read .none).foldl (fun s b => snoop l b s) s)) s)

/-- Read bytes from DPA a on at once, for a requester that holds every line clear (R467: a denied read returns zero; R326: a block's failed MAC
counts once). -/
def readNow (a n tenant : Nat) (o : Origin) (cls : Nat) (s : State) : List PByte × State :=
  let r := (pieces 64 a n).foldl (fun (acc : List PByte × Option Nat × State) p =>
    let line := p.1 / 64 * 64
    let s := acc.2.2
    if !tagPasses s line tenant (isFw o) then
      (acc.1 ++ asPBytes p.1 (List.replicate p.2 0), acc.2.1, tagDeny o s)
    else
      let mac := if lookAt s line tenant = .mac then some (line / 256) else acc.2.1
      let ((bs, d), s) := readLineOf (decide (acc.2.1 = some (line / 256))) line tenant o s
      (acc.1 ++ (asPBytes p.1 ((bs.drop (p.1 - line)).take p.2)).map fun b => { b with poison := d }, mac, countBytes line cls p.2 false s)) ([], none, s)
  (r.1, r.2.2)

/-- Whether a command's writes have all been performed (R160). -/
def writesPerformed (s : State) (k : Nat) : Bool :=
  !(s.mem.queue.any fun o => o.who = .cmd k || o.who = .result k)

end Sys2Proof.Machine
end

