-- ==== Sys2Proof/Machine/Operands.lean ====
section
/-! DEFINITION. The operands of a submission entry: its fields, the decode checks of R572 on header and body for every
opcode, the addresses and tiles of MOVE (R204 to R212) and REDUCE (R307, R311), the steps of a recipe (R249, R250). -/

namespace Sys2Proof.Machine

/-! ### Reserved bytes -/

/-- The offsets from lo to hi (inclusive) whose byte is not zero. -/
def nonZero (raw : List Byte) (lo hi : Nat) : List Nat :=
  (List.range' lo (hi + 1 - lo)).filter fun i => fld raw i 1 ≠ 0

/-- [d] when a condition holds. -/
def bad (c : Bool) (d : Nat) : List Nat := if c then [d] else []

/-- The least of a list of offending offsets. -/
def least (l : List Nat) : Option Nat := l.min?

/-- A body space code that cannot be used in a context of a function: code 3, or DPA of a VF (R103, R104). -/
def badSpace (f code : Nat) : Bool := code = 3 || (code = 2 && f ≠ 0)

/-! ### MOVE -/

/-- COUNTk. -/
def mvCount (raw : List Byte) (k : Nat) : Nat := fld raw (40 + 3 * k) 3
/-- SRC_STRIDEk, k from 1 to 4. -/
def mvSrcStride (raw : List Byte) (k : Nat) : Int := sext 40 (fld raw (56 + 5 * (k - 1)) 5)
/-- DST_STRIDEk, k from 1 to 4. -/
def mvDstStride (raw : List Byte) (k : Nat) : Int := sext 40 (fld raw (76 + 5 * (k - 1)) 5)
/-- SRC_FMT. -/
def mvSrcFmt (raw : List Byte) : Nat := bits (fld raw 17 1) 3 0
/-- DST_FMT. -/
def mvDstFmt (raw : List Byte) : Nat := bits (fld raw 17 1) 7 4
/-- ROUND. -/
def mvRound (raw : List Byte) : Nat := bits (fld raw 18 1) 2 0
/-- TRANSPOSE. -/
def mvTrans (raw : List Byte) : Bool := bit (fld raw 18 1) 3
/-- SAT. -/
def mvSat (raw : List Byte) : Bool := bit (fld raw 18 1) 4
/-- TILE0_LOG2. -/
def mvT0 (raw : List Byte) : Nat := bits (fld raw 19 1) 3 0
/-- TILE1_LOG2. -/
def mvT1 (raw : List Byte) : Nat := bits (fld raw 19 1) 7 4
/-- SRC_SPACE, DST_SPACE and AUX_SPACE as codes 0, 1 and 2. -/
def mvSpace (raw : List Byte) (i : Nat) : Nat := bits (fld raw 16 1) (2 * i + 1) (2 * i)
/-- AUX. -/
def mvAux (raw : List Byte) : Nat := fld raw 96 8
/-- Entry width in bytes of an index list (R218). -/
def mvIdxWidth (raw : List Byte) : Nat := 2 * 2 ^ bits (fld raw 55 1) 1 0

/-- The format pairs of R203. -/
def mvPairOk (op s d : Nat) : Bool :=
  let plain (c : Nat) : Bool := 1 ≤ c && c ≤ 10
  if op = 0x10 || op = 0x16 || op = 0x17 then s = d
  else if op = 0x11 || op = 0x14 || op = 0x15 then plain s && plain d
  else if op = 0x12 then 1 ≤ s && s ≤ 3 && 11 ≤ d
  else if op = 0x13 then 11 ≤ s && 1 ≤ d && d ≤ 3
  else plain s && (d = 1 || d = 2 || d = 3 || d = 9)

/-- Least tile extent (as a power of two) along a side's row dimension, R209. -/
def mvMinLog (c : Nat) : Nat := if 11 ≤ c then 5 else if fmtWidth c = 4 then 1 else if fmtWidth c = 6 then 2 else 0

/-- Bytes of a full tile of format c. -/
def mvTileBytes (raw : List Byte) (c : Nat) : Nat := cdiv (2 ^ (mvT0 raw + mvT1 raw) * fmtWidth c) 8

/-- SLOT of R224. -/
def mvSlot (raw : List Byte) : Nat := cdiv (72 * cdiv (mvTileBytes raw (mvSrcFmt raw)) 64) 64 * 64

/-- The tile count of R208. -/
def mvTiles (raw : List Byte) : Nat :=
  cdiv (mvCount raw 0) (2 ^ mvT0 raw) * cdiv (mvCount raw 1) (2 ^ mvT1 raw) * mvCount raw 2 * mvCount raw 3 * mvCount raw 4

/-- Offending body bytes of a MOVE, R210 and the reserved fields of its transform sections. -/
def mvBody (f op : Nat) (raw : List Byte) : List Nat :=
  let s := mvSrcFmt raw
  let d := mvDstFmt raw
  let auxCtl := fld raw 55 1
  let scaled := op = 0x11 && bit auxCtl 0
  let strides (base : Nat) : List Nat := (List.range 4).filterMap fun i => if fld raw (base + 5 * i) 5 ≠ 0 then some (base + 5 * i) else none
  bad (badSpace f (mvSpace raw 0) || badSpace f (mvSpace raw 1) || badSpace f (mvSpace raw 2) || 64 ≤ fld raw 16 1) 16
  ++ bad (!mvPairOk op s d) 17
  ++ bad (5 ≤ mvRound raw || 32 ≤ fld raw 18 1 || (mvTrans raw && [0x14, 0x15, 0x16, 0x17].contains op)) 18
  ++ bad (65536 < mvTileBytes raw s || 65536 < mvTileBytes raw d || mvT0 raw < mvMinLog s
      || (if mvTrans raw then mvT1 raw else mvT0 raw) < mvMinLog d) 19
  ++ (List.range 5).filterMap (fun k => if mvCount raw k = 0 then some (40 + 3 * k) else none)
  ++ bad (if op = 0x11 then 2 ≤ auxCtl else if op = 0x14 || op = 0x15 then 3 ≤ auxCtl else auxCtl ≠ 0) 55
  ++ (if op = 0x16 then strides 76 else if op = 0x17 then strides 56 else [])
  ++ bad (((op = 0x14 || op = 0x15) && mvAux raw % mvIdxWidth raw ≠ 0) || ((op = 0x16 || op = 0x17) && mvAux raw % 4 ≠ 0)) 96
  ++ (if op = 0x10 || op = 0x18 || (op = 0x11 && !scaled) then nonZero raw 96 103 else [])

/-- Lowest and highest byte address of a side by R204 or R205, exactly. -/
def mvSpan (raw : List Byte) (dst : Bool) : Int × Int :=
  let tr := dst && mvTrans raw
  let base : Int := if dst then fld raw 32 8 else fld raw 24 8
  let st (k : Nat) : Int := if dst then mvDstStride raw k else mvSrcStride raw k
  let cnt (k : Nat) : Int := ((if k = 1 then (if tr then mvCount raw 0 else mvCount raw 1) else mvCount raw k) : Nat) - 1
  let row : Int := (cdiv ((if tr then mvCount raw 1 else mvCount raw 0) * fmtWidth (if dst then mvDstFmt raw else mvSrcFmt raw)) 8 : Nat)
  let ext := (List.range' 1 4).map fun k => cnt k * st k
  (base + (ext.map fun x => min 0 x).sum, base + (ext.map fun x => max 0 x).sum + row - 1)

/-- R211: whether a MOVE's footprint or addresses are out of range. -/
def mvFootprintBad (op : Nat) (raw : List Byte) : Bool :=
  let n := mvCount raw 0 * mvCount raw 1 * mvCount raw 2 * mvCount raw 3 * mvCount raw 4
  let slots := mvTiles raw * (mvSlot raw + 4)
  let src := if op = 0x17 then slots else cdiv (n * fmtWidth (mvSrcFmt raw)) 8
  let dst := if op = 0x16 then slots else cdiv (n * fmtWidth (mvDstFmt raw)) 8
  let out (p : Int × Int) : Bool := decide (p.1 < 0) || decide (2 ^ 64 - 1 < p.2)
  let slotOut (base : Nat) : Bool := 2 ^ 64 < base + mvTiles raw * mvSlot raw || 2 ^ 64 < mvAux raw + 4 * mvTiles raw
  2 ^ 40 < src || 2 ^ 40 < dst
    || (if op = 0x14 then false else if op = 0x17 then slotOut (fld raw 24 8) else out (mvSpan raw false))
    || (if op = 0x15 then false else if op = 0x16 then slotOut (fld raw 32 8) else out (mvSpan raw true))

/-! ### CHURN and recipes -/

/-- OP of a step. -/
def stOp (w : Word) : Nat := bits w.toNat 31 26
/-- D of a step. -/
def stD (w : Word) : Nat := bits w.toNat 25 21
/-- A of a step. -/
def stA (w : Word) : Nat := bits w.toNat 20 16
/-- B of a step. -/
def stB (w : Word) : Nat := bits w.toNat 15 11
/-- FMT of a step. -/
def stF (w : Word) : Nat := bits w.toNat 10 8
/-- X of a step. -/
def stX (w : Word) : Nat := bits w.toNat 7 0

/-- Elements per vector of a step format, R251. -/
def stepElems (fmt : Nat) : Nat := match fmt with | 0 | 7 => 16 | 1 | 2 => 32 | 6 => 128 | _ => 64

/-- The R200 code of a step format, R251. -/
def stepFmt (fmt : Nat) : Nat := match fmt with | 0 => 1 | 1 => 2 | 2 => 3 | 3 => 4 | 4 => 5 | 5 => 6 | 6 => 15 | _ => 9

/-- Registers a group of CVT results fills (R258). -/
def cvtRegs (fmt dst : Nat) : Nat := cdiv (stepElems fmt * fmtWidth dst) 512

/-- Whether one step is valid on its own, R250 against the operator table R252. -/
def stepOk (w : Word) : Bool :=
  let op := stOp w; let d := stD w; let a := stA w; let b := stB w; let f := stF w; let x := stX w
  let g := f + 1
  match op with
  | 0x00 | 0x01 | 0x02 | 0x1F => w.toNat % 2 ^ 26 = 0
  | 0x03 => d < 4 && bits w.toNat 19 8 < 4096
  | 0x04 => a < 4 && b = 0 && x = 0 && d + g ≤ 32
  | 0x05 => d < 4 && b = 0 && x = 0 && a + g ≤ 32
  | 0x06 => a = 0 && b = 0 && x < 64 && d + g ≤ 32 && x + g ≤ 64
  | 0x07 =>
    let n := 2 ^ (x / 64)
    let extra := if f = 6 then 1 else 0
    f < 7 && a + n + extra ≤ 32 && x % 64 + n + extra ≤ 64
  | 0x08 | 0x09 | 0x0A | 0x0B | 0x0C => (f = 0 || f = 7) && x = 0
  | 0x0D => f = 0 && x < 128 && d + x / 16 + 1 ≤ 32 && a + x / 16 + 1 ≤ 32
  | 0x0E =>
    let g := x / 16 + 1
    f < 5 && x < 128 && a + g ≤ 32 && d + g * stepElems f / 16 ≤ 32
  | 0x0F => f = 0 && b % 16 = 0 && 1 ≤ x && x ≤ 16
  | 0x10 | 0x11 => b = 0 && f = 0 && x = 0
  | 0x12 => b < 8 && f = 0 && x < 64
  | 0x13 =>
    let dst := x % 16
    b = 0 && f ≠ 6 && bits x 6 4 < 5 && 1 ≤ dst && dst ≤ 10 && d + cvtRegs f dst ≤ 32
  | 0x14 => d < 8 && b = 0 && f ≠ 6 && x = 0
  | 0x15 => a < 8 && b = 0 && f = 0 && x < 128 && bits x 6 4 < 5
  | 0x16 => d < 4 && a < 8 && b = 0 && f = 0 && x = 0
  | 0x17 => d < 8 && b = 0 && f = 0 && x = 0
  | 0x18 => d < 8 && a = 0 && b = 0 && f = 0 && x = 0
  | 0x19 => (f = 0 || f = 7) && d + 2 ≤ 32 && x < 64 && 1 ≤ x % 32 && x % 32 ≤ 16
  | 0x1A => b = 0 && f = 0 && x < 16
  | 0x1B => d = 0 && f = 0 && x < 16
  | 0x1C => f = 0 && 1 ≤ x && x ≤ 16
  | 0x1D => b = 0 && f = 0 && x < 64
  | 0x1E => d < 8 && a = 0 && b = 0 && f = 0 && x < 64
  | _ => false

/-- The index of the first invalid step of a recipe, R250. -/
def firstBadStep (steps : List Word) : Option Nat :=
  let is (n : Nat) (i : Nat) : Bool := match steps[i]? with | some w => stOp w = n | none => false
  let before (n i : Nat) : Nat := ((steps.take i).filter fun w => stOp w = n).length
  let total (n : Nat) : Nat := before n steps.length
  (List.range steps.length).find? fun i =>
    !(match steps[i]? with | some w => stepOk w | none => true)
    || (is 1 i && (1 ≤ before 1 i || total 2 = 0)) || (is 2 i && (1 ≤ before 2 i || before 1 i = 0))

/-- The inline steps of a CHURN entry. -/
def inlineSteps (raw : List Byte) : List Word :=
  (List.range (bits (fld raw 16 1) 3 0)).map fun i => BitVec.ofNat 32 (fld raw (48 + 4 * i) 4)

/-- WIN in bytes. -/
def chWin (raw : List Byte) : Nat := 2 ^ bits (fld raw 18 1) 3 0
/-- WINDOWS. -/
def chWindows (raw : List Byte) : Nat := fld raw 40 3
/-- XWINDOWS. -/
def chExtra (raw : List Byte) : Nat := fld raw 46 2

/-- Offending body bytes of a CHURN entry, R246. -/
def chBody (f op : Nat) (raw : List Byte) : List Nat :=
  let ns := bits (fld raw 16 1) 3 0
  let data := bits (fld raw 17 1) 1 0
  let wl := bits (fld raw 18 1) 3 0
  bad (16 ≤ fld raw 16 1 || (if op = 0x20 then ns = 0 || 14 < ns else ns ≠ 0)) 16
  ++ bad (data = 0 || badSpace f data || badSpace f (bits (fld raw 17 1) 3 2) || 16 ≤ fld raw 17 1) 17
  ++ bad (16 ≤ fld raw 18 1 || wl < 12 || 18 < wl) 18
  ++ bad (64 < fld raw 19 1) 19
  ++ bad (fld raw 24 8 % 2 ^ wl ≠ 0) 24 ++ bad (fld raw 32 8 % 64 ≠ 0) 32 ++ bad (chWindows raw = 0) 40
  ++ (if op = 0x20 then
        (match firstBadStep (inlineSteps raw) with | some i => [48 + 4 * i] | none => []) ++ nonZero raw (48 + 4 * ns) 103
      else bad (4 ≤ fld raw 49 1) 49 ++ nonZero raw 50 103)

/-- R247. -/
def chFootprintBad (raw : List Byte) : Bool :=
  let n := (chWindows raw + chExtra raw) * chWin raw
  2 ^ 40 < n || 2 ^ 64 < fld raw 24 8 + n

/-! ### REDUCE -/

/-- M. -/
def rdM (raw : List Byte) : Nat := bits (fld raw 19 1) 3 0 + 1
/-- COUNT. -/
def rdCount (raw : List Byte) : Nat := fld raw 40 3
/-- SRC_STRIDE. -/
def rdStride (raw : List Byte) : Int := sext 40 (fld raw 48 5)
/-- Element size of the source side, R307. -/
def rdSrcSize (op : Nat) (raw : List Byte) : Nat := if op = 0x30 || op = 0x33 then fmtWidth (mvSrcFmt raw) / 8 else 64
/-- Element size of the destination side, R307. -/
def rdDstSize (op : Nat) (raw : List Byte) : Nat :=
  if op = 0x32 || op = 0x33 then fmtWidth (mvDstFmt raw) / 8 else if op = 0x34 then 16 else 64

/-- Offending body bytes of a REDUCE, R308 and R309. -/
def rdBody (f op : Nat) (raw : List Byte) : List Nat :=
  let s := mvSrcFmt raw; let d := mvDstFmt raw; let md := fld raw 18 1; let m := rdM raw
  let rounded := d = 1 || d = 2 || d = 3 || d = 9
  let fmtsOk := match op with
    | 0x30 => 1 ≤ s && s ≤ 9 && d = 0
    | 0x31 => s = 0 && d = 0
    | 0x32 => s = 0 && rounded
    | 0x33 => 1 ≤ s && s ≤ 9 && rounded
    | _ => s = 0 && d = 0
  let rounds := op = 0x32 || op = 0x33
  let modeOk := md < 64 && (if rounds then md % 8 < 5 else md % 8 = 0)
    && (!bit md 3 || op = 0x30 || op = 0x31) && (!bit md 4 || rounds) && (!bit md 5 || (op = 0x34 && m = 3))
  bad (16 ≤ fld raw 16 1 || badSpace f (bits (fld raw 16 1) 1 0) || badSpace f (bits (fld raw 16 1) 3 2)) 16
  ++ bad (!fmtsOk) 17 ++ bad (!modeOk) 18 ++ bad (16 ≤ fld raw 19 1 || (op = 0x34 && m ≠ 2 && m ≠ 3)) 19
  ++ bad (fld raw 24 8 % rdSrcSize op raw ≠ 0) 24 ++ bad (fld raw 32 8 % rdDstSize op raw ≠ 0) 32
  ++ bad (rdCount raw = 0) 40 ++ nonZero raw 43 47
  ++ bad (1 < m && fld raw 48 5 % rdSrcSize op raw ≠ 0) 48 ++ nonZero raw 53 103

/-- R310. -/
def rdFootprintBad (op : Nat) (raw : List Byte) : Bool :=
  let m := rdM raw; let n := rdCount raw
  let span := (m - 1 : Nat) * rdStride raw
  let base : Int := fld raw 24 8
  let dn := if op = 0x34 then 16 else n * rdDstSize op raw
  2 ^ 40 < n * rdSrcSize op raw * m || decide (base + min 0 span < 0)
    || decide (2 ^ 64 < base + max 0 span + (n * rdSrcSize op raw : Nat)) || 2 ^ 64 < fld raw 32 8 + dn

/-! ### ATOMIC and FENCE -/

/-- SIZE in bytes. -/
def atSize (raw : List Byte) : Nat := 4 * 2 ^ fld raw 17 1
/-- RESULT_EN. -/
def atResultEn (raw : List Byte) : Bool := bit (fld raw 18 1) 7

/-- Offending body bytes of an ATOMIC, R173 and R176. -/
def atBody (f op : Nat) (raw : List Byte) : List Nat :=
  let sz := fld raw 17 1
  let n := if atomicSizeOk op sz then 4 * 2 ^ sz else 16
  bad (4 ≤ fld raw 16 1 || badSpace f (fld raw 16 1)) 16 ++ bad (!atomicSizeOk op sz) 17
  ++ bad (bits (fld raw 18 1) 6 2 ≠ 0 || (atResultEn raw && badSpace f (bits (fld raw 18 1) 1 0))) 18
  ++ nonZero raw 19 23 ++ bad (fld raw 24 8 % n ≠ 0) 24
  ++ bad (atResultEn raw && fld raw 32 8 % (if sz = 2 then 16 else 8) ≠ 0) 32
  ++ (if atomicSizeOk op sz then nonZero raw (40 + n) 55 else []) ++ (if op = 0x42 then [] else nonZero raw 56 71) ++ nonZero raw 72 103

/-! ### Admin bodies (R92, R277, R279, R410, R417, R462, R465): offsets in use, field ranges -/

/-- The body bytes an admin command uses. -/
def adminUsed (op : Nat) : List Nat :=
  match op with
  | 0x80 => List.range' 16 11 ++ List.range' 32 8
  | 0x81 => [16, 17] ++ List.range' 20 10 ++ List.range' 32 8
  | 0x82 => [16, 17, 18]
  | 0x84 => [16, 17] ++ List.range' 20 6
  | 0x85 | 0x86 | 0x8D | 0x8F => [16, 17]
  | 0x88 => [16, 17, 18]
  | 0x89 | 0x91 => [16]
  | 0x8A => [16] ++ List.range' 18 7 ++ List.range' 26 5 ++ List.range' 32 16
  | 0x8B => [16, 18, 19, 30] ++ List.range' 40 8
  | 0x8C => List.range' 16 4 ++ List.range' 24 8
  | 0x8E => List.range' 16 32
  | 0x90 => List.range' 16 41 ++ [58, 59]
  | _ => []

/-- Offending body bytes of an admin command that its fields show alone. A berth-owned queue lies in device memory (R97): a create that names a berth
with SPACE 0 offends at SPACE (DESIGN CHOICE of the status, log entry 87). -/
def adminBody (f op : Nat) (raw : List Byte) : List Nat :=
  let b (i : Nat) : Nat := fld raw i 1
  (List.range' 16 88).filter (fun i => !(adminUsed op).contains i && b i ≠ 0)
  ++ match op with
  | 0x80 =>
    let slot := fld raw 16 2
    bad (slot < 64 || (8192 ≤ slot && slot ≠ 0xFFFF)) 16 ++ bad (b 20 < 4 || 16 < b 20) 20 ++ bad (2 ≤ b 21 || (b 23 ≠ 0xFF && b 21 = 0)) 21
    ++ bad (b 22 = 0 || 16 < b 22) 22 ++ bad (8 ≤ b 23 && b 23 ≠ 0xFF) 23 ++ bad (4096 ≤ fld raw 24 2) 24
    ++ bad (64 ≤ b 26 && b 26 ≠ 0xFF) 26 ++ bad (fld raw 32 8 % 4096 ≠ 0) 32
  | 0x81 =>
    let slot := fld raw 16 2
    let fn := if b 29 = 0xFF then f else b 29
    bad (slot < 64 || (8192 ≤ slot && slot ≠ 0xFFFF)) 16 ++ bad (b 20 < 4 || 16 < b 20) 20 ++ bad (2 ≤ b 21 || (b 28 ≠ 0xFF && b 21 = 0)) 21
    ++ bad (b 28 = 0xFF && (if fn = 0 then 2048 else 128) ≤ fld raw 22 2) 22
    ++ bad (fld raw 24 2 = 0 || 256 < fld raw 24 2) 24
    ++ bad (8 ≤ b 28 && b 28 ≠ 0xFF) 28 ++ bad (64 ≤ b 29 && b 29 ≠ 0xFF) 29 ++ bad (fld raw 32 8 % 4096 ≠ 0) 32
  | 0x82 => bad (2 ≤ b 18) 18
  | 0x84 =>
    bad (4096 ≤ fld raw 16 2 && fld raw 16 2 ≠ 0xFFFF) 16 ++ bad (16 ≤ b 22) 22 ++ bad (b 23 % 128 ≠ 0) 23 ++ bad (4 ≤ b 24) 24
    ++ bad (64 ≤ b 25 && b 25 ≠ 0xFF) 25
  | 0x85 | 0x86 => bad (4096 ≤ fld raw 16 2) 16
  | 0x88 => bad (4096 ≤ fld raw 16 2) 16 ++ bad (b 18 = 0 || 16 < b 18) 18
  | 0x8A =>
    let out := b 16 = 1
    bad (2 ≤ b 16) 16 ++ bad (4096 ≤ fld raw 18 2 && fld raw 18 2 ≠ 0xFFFF) 18 ++ bad (8 ≤ b 24) 24 ++ bad (16 ≤ b 27) 27
    ++ (if out then nonZero raw 28 29 else bad (16 ≤ b 29) 29)
    ++ bad (64 ≤ b 30 && b 30 ≠ 0xFF) 30
    ++ (if out then nonZero raw 32 39 else bad (fld raw 32 8 % 65536 ≠ 0) 32)
    ++ bad (fld raw 40 8 % 65536 ≠ 0 || 2 ^ 35 < fld raw 40 8 || (!out && fld raw 40 8 = 0)) 40
  | 0x8B => bad (2 ≤ b 16) 16 ++ bad (4096 ≤ fld raw 18 2) 18 ++ bad (64 ≤ b 30 && b 30 ≠ 0xFF) 30
  | 0x8C =>
    bad (1024 ≤ fld raw 16 2 && fld raw 16 2 ≠ 0xFFFF) 16 ++ bad (b 18 = 0 || 64 < b 18) 18 ++ bad (3 ≤ b 19 || (b 19 = 2 && f ≠ 0)) 19
    ++ bad (fld raw 24 8 % 4 ≠ 0) 24
  | 0x8D => bad (1024 ≤ fld raw 16 2) 16
  | 0x8E =>
    bad (2 ≤ b 16) 16 ++ bad (if b 16 = 0 then b 17 = 0 || 64 ≤ b 17 else 64 ≤ b 17) 17
    ++ (if b 16 = 1 then bad (4096 ≤ fld raw 18 2) 18 ++ bad (fld raw 24 8 % 4096 ≠ 0) 24
          ++ bad (fld raw 32 8 % 4096 ≠ 0 || fld raw 32 8 = 0 || 2 ^ 40 < fld raw 32 8) 32 ++ bad (fld raw 40 8 % 32 ≠ 0) 40
        else nonZero raw 18 47)
  | 0x8F => bad (128 ≤ fld raw 16 2) 16
  | 0x90 =>
    let tscf := b 18 = 1
    bad (16 ≤ b 16 && b 16 ≠ 0xFF) 16 ++ bad (48 ≤ b 17) 17 ++ bad (2 ≤ b 18) 18
    ++ bad (if tscf then b 19 = 0 || 16 < b 19 else 3 ≤ b 19) 19
    ++ bad (!tscf && (fld raw 28 2 = 0 || 16384 < fld raw 28 2)) 28 ++ bad (fld raw 30 2 = 0) 30
    ++ bad (fld raw 32 8 % 64 ≠ 0) 32 ++ bad (fld raw 40 2 % 64 ≠ 0) 40 ++ bad (b 42 < 2 || 16 < b 42) 42 ++ bad (8 ≤ b 43) 43
    ++ bad (fld raw 48 8 % 4096 ≠ 0) 48 ++ bad (b 56 < 4 || 12 < b 56) 56 ++ bad (2048 ≤ fld raw 58 2) 58
  | 0x91 => bad (16 ≤ b 16) 16
  | _ => []

/-! ### The checks of R572 -/

/-- Whether an opcode is assigned on an SQ of that kind, R60. -/
def opcodeOk (admin : Bool) (op : Nat) : Bool :=
  if admin then [0x80, 0x81, 0x82, 0x84, 0x85, 0x86, 0x88, 0x89, 0x8A, 0x8B, 0x8C, 0x8D, 0x8E, 0x8F, 0x90, 0x91].contains op
  else op = 0 || (0x10 ≤ op && op ≤ 0x18) || op = 0x20 || op = 0x21 || (0x30 ≤ op && op ≤ 0x34) || (0x40 ≤ op && op ≤ 0x49)
    || op = 0x50 || op = 0x51

/-- Whether an admin opcode is reserved to the PF, R92. -/
def pfOnly (op : Nat) : Bool := op = 0x8E || op = 0x8F || op = 0x90 || op = 0x91

/-- Offending header bytes, check 3 of R572. -/
def headerBad (admin : Bool) (raw : List Byte) : List Nat :=
  bad (64 ≤ fld raw 1 1) 1 ++ bad (64 ≤ fld raw 3 1 || (!admin && bits (fld raw 3 1) 5 4 = 3) || (admin && bits (fld raw 3 1) 5 4 = 3)) 3
  ++ nonZero raw 12 13 ++ nonZero raw 122 127

/-- Whether a fence slot lies in a block allotted to the function, R65. -/
def fenceOk (s : State) (f slot : Nat) : Bool := match mget s.qe.blocks (slot / 256) with | some b => b.f = f | none => false

/-- Offending body bytes of any opcode, check 7. -/
def bodyBad (f op : Nat) (raw : List Byte) : List Nat :=
  if op = 0 || op = 0x50 then nonZero raw 16 103
  else if op = 0x51 then bad (fld raw 18 1 ≠ 0) 18 ++ nonZero raw 19 23 ++ nonZero raw 32 103
  else if op < 0x20 then mvBody f op raw
  else if op < 0x30 then chBody f op raw
  else if op < 0x40 then rdBody f op raw
  else if op < 0x50 then atBody f op raw
  else adminBody f op raw

/-- A BOUNCE session whose CONTEXT is not bound to its FUNCTION (R462). -/
def sessionBad (s : State) (raw : List Byte) : List Nat :=
  bad (fld raw 16 1 = 1 && (match mget s.qe.ctxs (fld raw 18 2) with | some x => x.f ≠ fld raw 17 1 | none => true)) 18

/-- Check 8: footprint and address overflow. -/
def footprintBad (op : Nat) (raw : List Byte) : Bool :=
  if 0x10 ≤ op && op < 0x20 then mvFootprintBad op raw
  else if 0x20 ≤ op && op < 0x30 then chFootprintBad raw
  else if 0x30 ≤ op && op < 0x40 then rdFootprintBad op raw else false

/-- Check 9 on an I/O entry: a stored recipe of the function (R248). -/
def objectBad (s : State) (f op : Nat) (raw : List Byte) : Bool :=
  op = 0x21 && (match mget s.qe.recipes (bits (fld raw 48 2) 9 0) with | some r => r.f ≠ f | none => true)

/-- The status and DETAIL an entry of function f's SQ is refused with, R572; none when it passes. -/
def decodeStatus (s : State) (f : Nat) (admin : Bool) (raw : List Byte) : Option (Nat × Nat) :=
  let op := fld raw 0 1
  let cx := bits (fld raw 2 2) 11 0
  let bound := match mget s.qe.ctxs cx with | some c => c.f = f | none => false
  let fl := fld raw 1 1
  if !opcodeOk admin op then some (stOpcode, 0)
  else if admin && f ≠ 0 && pfOnly op then some (stNotPermitted, 0)
  else match least (headerBad admin raw) with
  | some d => some (stField, d)
  | none =>
    if !admin && !bound then some (stContext, 0)
    else if !admin && (match mget s.qe.ctxs cx with | some c => c.draining || c.drained | none => false) then some (stAborted, 0)
    else if (bit fl 0 && !fenceOk s f (fld raw 8 2)) || (bit fl 1 && !fenceOk s f (fld raw 10 2))
        || (op = 0x51 && !fenceOk s f (fld raw 16 2)) then some (stFence, 0)
    else match least (bodyBad f op raw) with
    | some d => some (stField, if op = 0x8E then (least (d :: sessionBad s raw)).getD d else d)
    | none =>
      if footprintBad op raw then some (stFootprint, 0)
      else if !admin && objectBad s f op raw then some (stRecipe, 0)
      else none

end Sys2Proof.Machine
end

