-- ==== Sys2Proof/Machine/Queues.lean ====
section
/-! DEFINITION. The Queue Engine: waking (R446, R523), records and interrupts (R79 to R85, R573), fences and signals (R66, R178
to R185, R571), visibility at SCOPE (R160, R168, R169, R188), completion, doorbells (R70 to R73), fetch and the stamp rule
(R67, R68, R74 to R77), dispatch (R76, R90, R182). -/

namespace Sys2Proof.Machine

/-! ### Waking -/

/-- Exit from H3 loses hub SRAM outside the island unless a brownout checkpoint entered it (R523). -/
def loseSram (s : State) : State :=
  let inIsland (a : Nat) : Bool := 0x1FC000000 ≤ a
  raise .sl 1 { s with mem := { s.mem with
    bytes := s.mem.bytes.filter fun c => inIsland c.1,
    poison := s.mem.poison.filter fun c => inIsland c.1,
    correctable := s.mem.correctable.filter inIsland,
    uncorrectable := s.mem.uncorrectable.filter inIsland } }

/-- Cores 1 to 23 are reloaded from the island (R523). -/
def reloadCores (s : State) : State :=
  let again (p : Nat × Core) : Nat × Core := (p.1, if p.1 ≠ 0 && p.2.st = 0 then { p.2 with st := 2 } else p.2)
  { s with hm := { s.hm with cores := s.hm.cores.map again } }

/-- Return to H0 from H1 to H3, or from the ramp that leads to a state below (R446, R521, R525); a
checkpoint's H3 ends only with its rule (R541). -/
def wakeUp (s : State) : State :=
  if s.tg.ckpt then s
  else if s.sl.h ≤ 1 && !s.sl.thermalH4 && (s.sl.ramp = some 2 || s.sl.ramp = some 3 || s.sl.ramp = some 4) then
    { s with sl := { s.sl with h := 0, ramp := none } }
  else if s.sl.h = 0 || 4 ≤ s.sl.h then s
  else
    let s := if s.sl.h = 3 then reloadCores (if s.sl.ckptH3 && !s.sl.sramGone then s else loseSram s) else s
    { s with sl := { s.sl with h := 0, ckptH3 := false, sramGone := false } }

/-! ### Records -/

/-- The 32 bytes of a completion record, R80 and R81. -/
def recBytes (r : Rec) (phase : Bool) (time : Nat) : List Byte :=
  leBytes 2 r.cmdId ++ leBytes 2 (r.sq % 2 ^ 13 + b2n phase * 2 ^ 15) ++ leBytes 1 r.status ++ leBytes 1 r.detail
    ++ leBytes 2 (r.ctx % 4096) ++ leBytes 8 r.done ++ leBytes 8 r.fault ++ leBytes 8 time

/-- Whether a CQ has room: the last free slot is never written (R84). -/
def Cq.room (c : Cq) : Bool := c.unread + 1 < 2 ^ c.log2

/-- CQ q changed by f. -/
def updCq (q : Nat) (f : Cq → Cq) (s : State) : State := { s with qe := { s.qe with cqs := mupd s.qe.cqs q f } }

/-- SQ q changed by f. -/
def updSq (q : Nat) (f : Sq → Sq) (s : State) : State := { s with qe := { s.qe with sqs := mupd s.qe.sqs q f } }

/-- The message address of an MSI-X vector. -/
def msixAddr (s : State) (f v : Nat) : Nat := getReg s (.msix f v) 0 0 + 2 ^ 32 * getReg s (.msix f v) 0 4

/-- An MSI-X message of a function that no completion record carries: on the link given, or the one its message address steers
to; it waits while host traffic does (R433, R449, R451). -/
def msixOf (l : Option Nat) (f v : Nat) (s : State) : State :=
  if hostFlows s then msix (l.getD (steer s (msixAddr s f v))) f v s
  else { s with gw := { s.gw with heldMsi := s.gw.heldMsi ++ [(f, v)] } }

/-- Signal a CQ's vector, or its berth (R85): it waits while host traffic does (R449, R451). A partner that takes no interrupt messages gets
none (R356, R363), and a pair's are sent to its lower berth (R353, R380). -/
def signalCq (q : Nat) (s : State) : State :=
  match mget s.qe.cqs q with
  | none => s
  | some c =>
    match c.berth with
    | some b =>
      let s := updCq q (fun c => { c with unsignalled := 0 }) s
      let be := getBerth s (lowerBerth s b)
      if be.st = 3 && !be.cxl && bit be.caps 2 then sendBresa (lowerBerth s b) (bmsg 3 0x10 0 0 0 0 q 0 [] false) s else s
    | none =>
      if hostFlows s then
        let l := match c.lastLink with | some l => l | none => steer s (msixAddr s c.f c.vector)
        msix l c.f c.vector (updCq q (fun c => { c with unsignalled := 0, irqWaits := false }) s)
      else updCq q (fun c => { c with irqWaits := true }) s

/-- Write one record at the CQ's next place; signal when due (R81, R85). -/
def writeRec (q : Nat) (r : Rec) : State → State := withKept [.cq q] fun s =>
  match mget s.qe.cqs q with
  | none => s
  | some c =>
    let a := c.base + c.written % 2 ^ c.log2 * 32
    let bs := recBytes r (phaseOf c.written c.log2) s.time.toNat
    let s := if c.device then
        (if reachable s a then issueWrite a c.f false (fnOrigin c.f) (bits (getReg s .ms 0 0x090) 18 16) (asPBytes a bs) (.queue c.f) s
         else captureReserved (.queue c.f) c.f a s)
      else hostWrite (plainTag c.f) none a bs false s
    let link := if c.device then none else some (steer s a)
    let grow (c : Cq) : Cq := { c with written := c.written + 1, unread := c.unread + 1, unsignalled := c.unsignalled + 1, lastLink := link }
    let s := updCq q grow s
    if q < 64 || r.irq || c.irqCount ≤ c.unsignalled + 1 then signalCq q s else s

/-- Whether records for a CQ flow now. -/
def cqFlows (s : State) (c : Cq) : Bool := c.device || hostFlows s

/-- Whether records for a CQ are discarded: after GW.DETACH_HOLD those bound for host memory (R451 step 6). -/
def cqDrops (s : State) (c : Cq) : Bool := !c.device && s.gw.detached && s.gw.heldOver

/-- Note that a CQ has become full: once, an event record on the function's admin CQ, or the admin event (R84). The record
on the admin CQ is posted by `post`. -/
def noteFull (post : Nat → Rec → State → State) (q : Nat) (s : State) : State :=
  match mget s.qe.cqs q with
  | none => s
  | some c =>
    if c.room || c.fullPosted then s
    else
      let s := updCq q (fun c => { c with fullPosted := true }) s
      if q < 64 then raise .qe 2 s
      else post c.f { cmdId := 0xFFFF, sq := q, status := 0x82, detail := 0, ctx := 0, done := 0, fault := 0 } s

/-- Post a record on an admin CQ: written, or held while it is full or the host is away (R573). -/
def postAdmin (f : Nat) (r : Rec) (s : State) : State :=
  match mget s.qe.cqs f with
  | none => s
  | some c =>
    if cqDrops s c then s
    else if c.held.isEmpty && c.room && cqFlows s c then noteFull (fun _ _ s => s) f (writeRec f r s)
    else updCq f (fun c => { c with held := c.held ++ [r] }) s

/-- Post an event record of function f on its admin CQ; dropped while the admin queues are not live (R573). -/
def postEvent (f status done sqField : Nat) (s : State) : State :=
  if bit (getReg s (.qeFn f) 0 0x050) 31 then
    postAdmin f { cmdId := 0xFFFF, sq := sqField, status := status, detail := 0, ctx := 0, done := done, fault := 0 } s
  else s

/-- Post a record on any CQ, in order behind what is held (R84). -/
def post (q : Nat) (r : Rec) (s : State) : State :=
  match mget s.qe.cqs q with
  | none => s
  | some c =>
    if cqDrops s c then s
    else if c.held.isEmpty && c.room && cqFlows s c then
      noteFull (fun f r s => if bit (getReg s (.qeFn f) 0 0x050) 31 then postAdmin f r s else s) q (writeRec q r s)
    else updCq q (fun c => { c with held := c.held ++ [r] }) s

/-! ### Fences -/

/-- Fence slot n. -/
def getFence (s : State) (n : Nat) : Fence := mgetD s.qe.fences n {}

/-- Fence slot n set. -/
def setFence (n : Nat) (v : Fence) (s : State) : State :=
  { s with qe := { s.qe with fences := mput ({} : Fence) s.qe.fences n v } }

/-- A waiting command after its fence changed (R182, R66). -/
def wakeWaiter (n : Nat) (fe : Fence) (c : Cmd) : Cmd :=
  if c.phase = .fence && fld c.raw 8 2 = n then
    if fe.status ≠ 0 then { c with phase := .finished, status := stFenceError, detail := fe.status - 1 }
    else if reaches fe.value (BitVec.ofNat 64 (fld c.raw 104 8)) then { c with phase := .ready }
    else c
  else c

/-- Check the commands waiting on a fence (R182, R66). -/
def checkWaiters (n : Nat) (s : State) : State :=
  let cs := s.qe.cmds.map fun p => (p.1, wakeWaiter n (getFence s n) p.2)
  { s with qe := { s.qe with cmds := cs } }

/-- Set a fence's status to ERROR or ABANDONED where R185 allows it, and raise the block's event. -/
def failFence (n st : Nat) (s : State) : State :=
  let fe := getFence s n
  if st ≤ fe.status then s
  else checkWaiters n (raise (.qeFb (n / 256)) st (setFence n { fe with status := st } s))

/-- A signal of v reaches fence n, R180. The FENCE_REGRESS record's SQ field is 0, as DETAIL and CONTEXT of every event record are: R80 and R87 give
them no content (DESIGN CHOICE, log entry 88). -/
def signalFence (n : Nat) (v : DWord) : State → State := withKept [.fence n] fun s =>
  let fe := getFence s n
  let s := { s with lb := { s.lb with fences := (s.lb.fences + 1) % 2 ^ 64 } }
  if advances v fe.value then checkWaiters n (setFence n { fe with value := v } s)
  else
    let b := n / 256
    let s := raise (.qeFb b) 0 (setReg (.qeFb b) 0 0x04C (n % 256) (bump (.qeFb b) 0x044 1 s))
    match mget s.qe.blocks b with
    | some o => postEvent o.f 0x83 n 0 s
    | none => s

/-- Whether a command's signal reaches its fence: the reference named a fence of its function (R65), whose block is its function's still or was
freed since (R180, R184). A block allotted to another function meanwhile is out of its reach (DEDUCED from R65, log entry 88). -/
def signalReaches (s : State) (c : Cmd) : Bool :=
  c.flag 1 && c.sigOk && (mget s.qe.blocks (fld c.raw 10 2 / 256)).all (·.f = c.f)

/-- Apply a completing command's signal, R571; a reference that R65 refuses signals nothing. -/
def applySignal (c : Cmd) (s : State) : State :=
  let n := fld c.raw 10 2
  if signalReaches s c then
    let v := BitVec.ofNat 64 (fld c.raw 112 8)
    match signalUse c.status with
    | .plain => signalFence n v s
    | .error => signalFence n v (failFence n 1 s)
    | .none => s
  else s

/-! ### Visibility and completion -/

/-- The host link a command's record leaves by at the place its CQ writes next, if it goes to host memory. -/
def recordLink (s : State) (c : Cmd) : Option Nat :=
  match mget s.qe.sqs c.sq with
  | none => none
  | some q => match mget s.qe.cqs q.cq with
    | some cq => if cq.device then none else some (steer s (cq.base + cq.written % 2 ^ cq.log2 * 32))
    | none => none

/-- Whether a command is a FENCE_SCOPE that has waited for the earlier commands of its SQ; one that was refused or aborted widens nothing (R188). -/
def Cmd.widens (c : Cmd) : Bool := c.op = 0x50 && c.status = stSuccess

/-- The links whose posted writes a command must flush first at system scope (R168, R169); a FENCE_SCOPE flushes every link
that carried an earlier command's write, the record's link included (R188). -/
def flushLinks (s : State) (c : Cmd) : List Nat :=
  if c.scope ≠ 0 then []
  else if c.widens then (match mget s.qe.sqs c.sq with | some q => q.carried | none => [])
  else c.links.filter fun l => some l ≠ recordLink s c

/-- The flushes a command still lacks: judged anew whenever its record could be written, since the record's place and so its link may have moved. -/
def flushNeed (s : State) (c : Cmd) : List Nat := (flushLinks s c).filter fun l => !c.flushedOn.contains l

/-- Issue flushing reads for command k on the links given (R169: they run concurrently). -/
def flushOn (k : Nat) (ls : List Nat) (s : State) : State :=
  updCmd k (fun c => { c with flushedOn := ls ++ c.flushedOn }) (ls.foldl (fun s l => flushRead l none (some k) s) s)

/-- Whether a finished command's data is visible at its SCOPE, flushes apart (R160). -/
def visible (s : State) (k : Nat) (c : Cmd) : Bool :=
  let q := mget s.qe.sqs c.sq
  let ks := k :: (if c.widens then (match q with | some q => q.trailK | none => []) else [])
  let obs := c.observing ++ (if c.widens then (match q with | some q => q.trailObs | none => []) else [])
  let rem := c.remote ++ (if c.widens then (match q with | some q => q.trailRemote | none => []) else [])
  if c.scope = 2 then true
  else ks.all (writesPerformed s) && (c.scope = 1 || (obs.isEmpty && rem.isEmpty))

/-- The record of a finished command, R80, R88. -/
def recOf (k : Nat) (c : Cmd) : Rec :=
  { cmdId := c.cmdId, sq := c.sq, status := c.status, detail := c.detail, ctx := bits (fld c.raw 2 2) 11 0,
    done := if carriesDone c.status then c.done else 0, fault := if carriesDone c.status && c.status ≠ stSuccess then c.fault else 0,
    irq := c.flag 4, k := some k }

/-- Whether any command is running: dispatched, and not at its end. -/
def anyRunning (s : State) : Bool := s.qe.cmds.any fun p => p.2.dispatched && p.2.phase ≠ .finished

/-- The latency the hub reports while LTR Mechanism Enable is set on link 0's PF: 10 µs while a command runs, else no requirement. A change is
told (R445). -/
def ltrTell (s : State) : State :=
  if !(fnCfg s 0).ltr || s.gw.ltrTold = anyRunning s then s
  else emit (.ltr (if anyRunning s then some 10 else none)) { s with gw := { s.gw with ltrTold := anyRunning s } }

/-- A command leaves the table; what it leaves behind at a narrower SCOPE stays with its SQ (R188). -/
def retire (k : Nat) (c : Cmd) (s : State) : State :=
  let left := if c.scope = 0 then c.links.filter fun l => !c.flushedOn.contains l else c.links
  let s := updSq c.sq (fun q => { q with
    carried := (if c.widens && c.scope = 0 then [] else (q.carried ++ left).dedup),
    trailObs := q.trailObs ++ c.observing, trailRemote := q.trailRemote ++ c.remote, trailK := k :: q.trailK.filter fun j => !writesPerformed s j }) s
  ltrTell { s with qe := { s.qe with cmds := mdel s.qe.cmds k } }

/-- A function whose ADMIN_CFG.EN is clear loses its admin slots once no admin command of it is in progress (R89). -/
def freeAdmin (f : Nat) (s : State) : State :=
  if bit (getReg s (.qeFn f) 0 0x050) 31 || (s.qe.cmds.any fun p => p.2.sq = f) then s
  else { s with qe := { s.qe with sqs := mdel s.qe.sqs f, cqs := mdel s.qe.cqs f } }

/-- A completing command's signal is applied, once. -/
def signalOnce (k : Nat) (c : Cmd) (s : State) : State := updCmd k (fun c => { c with sigOk := false }) (applySignal c s)

/-- A completed command's record waits with it in its CQ. -/
def holdRec (q k : Nat) (c : Cmd) (s : State) : State :=
  updCmd k (fun c => { c with held := true }) (updCq q (fun cq => { cq with held := cq.held ++ [recOf k c] }) s)

/-- Complete a visible command: signal, record, removal (R66, R82, R84, R554). A record that waits, for room or for the host, keeps its command
until it is written, so that the link it then leaves by is judged anew (R168); for room the signal waits as well (R84), for the host it does
not (R451). -/
def complete (k : Nat) (c : Cmd) (s : State) : State :=
  match mget s.qe.sqs c.sq with
  | none => { s with qe := { s.qe with cmds := mdel s.qe.cmds k } }
  | some q =>
    match mget s.qe.cqs q.cq with
    | none => retire k c (applySignal c s)
    | some cq =>
      if cqFlows s cq && !(cq.held.isEmpty && cq.room) then holdRec q.cq k c s
      else
        let s := signalOnce k c s
        match mget s.qe.cqs q.cq with
        | none => retire k c s
        | some cq =>
          if cqDrops s cq then retire k c s
          else if cqFlows s cq && cq.held.isEmpty && cq.room && (flushNeed s c).isEmpty then post q.cq { recOf k c with k := none } (retire k c s)
          else holdRec q.cq k c s

/-- A visible command completes; the last of an admin SQ that is no longer live takes the slots with it. -/
def endCmd (k : Nat) (c : Cmd) (s : State) : State :=
  let s := complete k c s
  if c.sq < 64 then freeAdmin c.sq s else s

/-- Write the records a CQ holds, in order, while it has room (R84). A command's record waits for the flushes that the link it now leaves by
asks for (R168). -/
def serveHeld : Nat → Nat → State → State
  | 0, _, s => s
  | fuel + 1, q, s =>
    match mget s.qe.cqs q with
    | none => s
    | some c =>
      match c.held with
      | [] => s
      | r :: _ =>
        let cmd := r.k.bind fun k => (getCmd s k).map fun cm => (k, cm)
        let need := match cmd with | some (_, cm) => flushNeed s cm | none => []
        if !(c.room && cqFlows s c) || cmd.any (fun x => !x.2.flushes.isEmpty) then s
        else if !need.isEmpty then (match cmd with | some (k, _) => flushOn k need s | none => s)
        else
          -- a record that the signal posts here queues behind this one
          let s := match cmd with | some (k, cm) => retire k cm (signalOnce k cm s) | none => s
          let s := updCq q (fun c => { c with held := c.held.drop 1 }) s
          let s := noteFull (fun f r s => if bit (getReg s (.qeFn f) 0 0x050) 31 then postAdmin f r s else s) q (writeRec q r s)
          serveHeld fuel q (if q < 64 then freeAdmin q s else s)

/-- Whether an entry that a drain aborts in step 2 waits for an earlier one of its ring (R95). -/
def ringWaits (s : State) (c : Cmd) : Bool := c.inOrder && s.qe.cmds.any fun p => p.2.sq = c.sq && p.2.inOrder && p.2.n < c.n

/-- COMPLETION_RECORD_WRITE: flush what must be flushed, then complete. A record its CQ holds is served in the CQ's order. -/
def tryComplete (k : Nat) (s : State) : State :=
  match getCmd s k with
  | none => s
  | some c =>
    if c.phase ≠ .finished || !visible s k c || ringWaits s c || !c.flushes.isEmpty then s
    else if c.held then
      (match (mget s.qe.sqs c.sq).bind (fun q => (mget s.qe.cqs q.cq).map fun cq => (q.cq, cq)) with
      | some (q, cq) => serveHeld (cq.held.length + 1) q s
      | none => s)
    else if (flushNeed s c).isEmpty then endCmd k c s
    else flushOn k (flushNeed s c) s

/-! ### Doorbells -/

/-- A doorbell dropped or ignored, R72 and R73. -/
def dbBad (s : State) : State := raise .qe 0 (bump .qe 0x05C 1 s)

/-- Count a doorbell that reached its queue (R39, R73). -/
def countDoorbell (s : State) : State := { s with lb := { s.lb with doorbells := (s.lb.doorbells + 1) % 2 ^ 64 } }

/-- The SQ doorbell procedure of R72 on SQ slot q. -/
def doorbell (q tail stamp value : Nat) : State → State := withKept [.sq q] fun s =>
  match mget s.qe.sqs q with
  | none => s
  | some sq =>
    let depth := 2 ^ sq.log2
    if depth ≤ tail then postEvent sq.f 0x81 value q (dbBad s)
    else
      let k := (tail + depth - sq.tailCount % depth) % depth
      if k = 0 then s
      else if stamp ≠ stampOf (sq.tailCount + k - 1) then postEvent sq.f 0x81 value q (dbBad s)
      else
        let ring (sq : Sq) : Sq := { sq with tailCount := sq.tailCount + k, stalled := false }
        updSq q (fun sq => if sq.stalled then { ring sq with tries := 0, fetchNext := sq.next + sq.ready.length } else ring sq) s

/-- The head update of R71 on CQ slot q. -/
def headUpdate (q head : Nat) : State → State := withKept [.cq q] fun s =>
  match mget s.qe.cqs q with
  | none => s
  | some c =>
    let depth := 2 ^ c.log2
    let d := (head + depth - c.head) % depth
    if depth ≤ head || c.unread < d then dbBad s
    else
      let s := updCq q (fun c => { c with head := head, unread := c.unread - d, fullPosted := if d = 0 then c.fullPosted else false }) s
      serveHeld (c.held.length + 1) q s

/-! ### Fetch -/

/-- Whether the host's absence or a D-state stops fetch from an SQ (R448, R451): a detach or D3hot of link 0's PF stops the host-owned
ones, D3hot of another function its own. -/
def hostStopped (s : State) (sq : Sq) : Bool :=
  (sq.berth.isNone && (s.gw.detached || s.gw.d3.contains 0)) || s.gw.d3.any fun d => d ≠ 0 && d % 64 = sq.f

/-- Whether an SQ has entries to fetch and may be served: enabled, not stalled, its CQ not full, no re-read pending. -/
def fetchable (s : State) (q : Nat) (sq : Sq) : Bool :=
  sq.en && !sq.stalled && !hostStopped s sq && !sq.backoff && sq.fetchNext < sq.tailCount && !sq.destroying
    && !s.tg.ckpt && s.sl.h = 0 && !rampHolds s && (q < 64 || !sq.draining)
    && (match mget s.qe.cqs sq.cq with | some c => c.room && c.held.isEmpty | none => false)

/-- Outstanding entry-fetch reads (R77). -/
def fetchesOut (s : State) : Nat := (s.qe.sqs.map fun p => p.2.issued.length).sum

/-- Whether one more entry of an SQ may be read at all: its CQ is not full (R84), and fewer than 512 reads are out (R77). -/
def readRoom (s : State) (sq : Sq) : Bool :=
  fetchesOut s < 512 && (match mget s.qe.cqs sq.cq with | some c => c.room && c.held.isEmpty | none => false)

/-- Issue the fetch of entry n of SQ q. -/
def issueFetch (q n : Nat) (s : State) : State :=
  match mget s.qe.sqs q with
  | none => s
  | some sq =>
    let s := updSq q (fun sq => { sq with issued := sq.issued ++ [n] }) s
    if sq.device then s
    else let a := sq.base + n % 2 ^ sq.log2 * 128; emit (.hostRead (steer s a) n a 128 (plainTag sq.f)) s

/-- One turn of the fetch arbiter for SQ q, if the turn is its own (R77): admin SQs first, then round robin. A turn that meets the limit of 512
keeps the arbiter: its next read waits, and goes on at a later step. -/
def fetchTurnStep (q : Nat) (s : State) : State :=
  match mget s.qe.sqs q with
  | none => s
  | some sq =>
    let cand := (s.qe.sqs.filter fun p => fetchable s p.1 p.2).map (·.1)
    let io := cand.filter (64 ≤ ·)
    let served := if io.all (s.qe.served.contains ·) then [] else s.qe.served
    let open_ := s.qe.turn.filter fun t => cand.contains t.1
    if !fetchable s q sq || open_.any (·.1 ≠ q) then s
    else if open_.isNone && 64 ≤ q && (cand.any (· < 64) || served.contains q) then s
    else
      let want := Nat.min (match open_ with | some t => t.2 | none => sq.weight) (sq.tailCount - sq.fetchNext)
      let n := Nat.min want (512 - fetchesOut s)
      let s := (List.range n).foldl (fun s i => issueFetch q (sq.fetchNext + i) s) s
      let s := updSq q (fun sq => { sq with fetchNext := sq.fetchNext + n }) s
      { s with qe := { s.qe with served := if q < 64 then s.qe.served else if open_.isSome then s.qe.served else q :: served,
                                 turn := if n < want then some (q, want - n) else none } }

/-- The entry to be checked next in ring order. -/
def Sq.checkNext (q : Sq) : Nat := q.next + q.ready.length

/-- Skip refused entries at the front of the entries awaiting dispatch. -/
def skipRefused : Nat → NMap (List Byte) → Nat → NMap (List Byte) × Nat
  | 0, r, n => (r, n)
  | fuel + 1, r, n => match r with
    | (m, []) :: t => if m = n then skipRefused fuel t (n + 1) else (r, n)
    | _ => (r, n)

/-- The command an entry becomes. -/
def newCmd (s : State) (q n : Nat) (f : Nat) (raw : List Byte) : Cmd :=
  let cx := bits (fld raw 2 2) 11 0
  let base : Cmd := { sq := q, n := n, raw := raw, f := f, ctx := cx, tenant := f, pasid := none, report := false, drop := false, phase := .ready,
                      sigOk := fenceOk s f (fld raw 10 2) }
  if q < 64 then base
  else match mget s.qe.ctxs cx with
    | some c => { base with pasid := c.pasid, report := c.report, drop := c.drop }
    | none => base

/-- Enter a command in the table under the next dispatch number. -/
def enter (c : Cmd) (s : State) : State :=
  { s with qe := { s.qe with cmds := mset s.qe.cmds s.qe.nextK c, nextK := s.qe.nextK + 1 } }

/-- Count what a drain of context cx aborted (R92, R95). -/
def countAborted (cx n : Nat) (s : State) : State :=
  { s with qe := { s.qe with ctxs := mupd s.qe.ctxs cx fun c => { c with aborted := c.aborted + n } } }

/-- Check the arrived entries of SQ q in ring order: the stamp rule, then the decode checks (R68, R74, R75, R572). An entry that is refused is never
dispatched: it completes when it is checked, also where an earlier BARRIER entry still waits (DESIGN CHOICE, log entry 86). -/
def checkArrived : Nat → Nat → State → State
  | 0, _, s => s
  | fuel + 1, q, s =>
    match mget s.qe.sqs q with
    | none => s
    | some sq =>
      let n := sq.checkNext
      match mget sq.arrived n with
      | none => s
      | some (raw, poison) =>
        let s := updSq q (fun sq => { sq with arrived := mdel sq.arrived n }) s
        if !poison && fld raw 14 2 = stampOf n && fld raw 120 2 = stampOf n then
          let known := sq.answered.contains n
          let refused := if known then none else if sq.draining then some (stAborted, 0) else decodeStatus s sq.f (q < 64) raw
          let s := match refused with
            | some (st, d) =>
              let who := if sq.draining then sq.owner else bits (fld raw 2 2) 11 0
              let s := if st = stAborted then countAborted who 1 s else s
              enter { newCmd s q n sq.f raw with phase := .finished, status := st, detail := d, inOrder := sq.draining } s
            | none => s
          let s := updSq q (fun sq =>
            let r := skipRefused (sq.ready.length + 1) (sq.ready ++ [(n, if known || refused.isSome then [] else raw)]) sq.next
            { sq with tries := 0, ready := r.1, next := r.2, answered := sq.answered.filter (· ≠ n) }) s
          checkArrived fuel q s
        else if sq.draining then updSq q (fun sq => { sq with drainEnd := true, arrived := [], issued := [] }) s
        else
          let limit := bits (getReg s .qe 0 0x040) 3 0
          if limit ≤ sq.tries then
            let s := updSq q (fun sq => { sq with stalled := true, arrived := [], issued := [], fetchNext := n, tries := 0 }) s
            postEvent sq.f 0x80 n q (raise .qe 1 (bump .qe 0x060 1 s))
          else updSq q (fun sq => { sq with backoff := true }) s

/-- Entry n of SQ q has come, with its poison. -/
def arriveWith (q n : Nat) (raw : List Byte) (p : Bool) (s : State) : State :=
  match mget s.qe.sqs q with
  | none => s
  | some sq =>
    let s := updSq q (fun sq => { sq with issued := sq.issued.erase n, arrived := mset sq.arrived n (raw, p) }) s
    if sq.backoff || n ≠ sq.checkNext then s else checkArrived (sq.arrived.length + 2) q s

/-- Entry n of SQ q arrives: from the host, or read from the ring in device memory (R56, R325, R560). A line of the ring that a berth or the
host holds, or a queued access, is waited for: the entry comes at a later arrival (R375). -/
def arrive (q n : Nat) (data : List Byte) (poison : Bool) : State → State := withKept [.sq q] fun s =>
  match mget s.qe.sqs q with
  | none => s
  | some sq =>
    let a := sq.base + n % 2 ^ sq.log2 * 128
    if !sq.issued.contains n then s
    else if !sq.device then arriveWith q n data poison s
    else if !reachable s a then arriveWith q n [] true (captureReserved (.queue sq.f) sq.f a s)
    else match recallLines [a, a + 64] s with
      | (false, s) => s
      | (true, s) =>
        let r := readNow a 128 sq.f (fnOrigin sq.f) (bits (getReg s .ms 0 0x090) 18 16) s
        arriveWith q n (r.1.map (·.val)) (r.1.any fun b => b.poison.isSome) r.2

/-! ### Dispatch -/

/-- A firmware core. The Keeper runs from the release of the die reset on; the others are held until the boot's end (R490). -/
def getCore (s : State) (c : Nat) : Core := mgetD s.hm.cores c { st := if c = 0 then 0 else 1 }

/-- Whether the core that serves function f's admin commands runs (R486, R498). -/
def adminCoreUp (s : State) (f : Nat) : Bool := (getCore s (1 + f % 4)).st = 0

/-- Whether the entry in front of SQ q may be dispatched (R61, R76, R90, R188); one fetched before a QUEUE_DESTROY too (R94; DESIGN CHOICE, log
entry 114). -/
def dispatchable (s : State) (q : Nat) (raw : List Byte) : Bool :=
  let mine := s.qe.cmds.filter fun p => p.2.sq = q
  !s.tg.ckpt && !rampHolds s && (q < 64 → mine.isEmpty && bit (getReg s (.qeFn q) 0 0x050) 31) && (bit (fld raw 1 1) 5 → mine.isEmpty)
    && !(mine.any fun p => p.2.op = 0x50)

/-- Whether every admin command of a function is refused (R495). -/
def versionRefused (s : State) (f : Nat) : Bool :=
  let iface (g : Nat) : Nat := getReg s (.hmFn g) 0 0x040
  let major := bits (getReg s .hm 0 0x040) 31 24
  let bad (g : Nat) : Bool := bits (iface g) 31 24 ≠ major
  !bit (iface f) 0 || bad f || (bit (iface 0) 0 && bad 0)

/-- The kept state that the dispatch of an entry reads (R555): the SQ, an I/O command's context, its wait fence. -/
def keptOf (q : Nat) (raw : List Byte) : List Kept :=
  [.sq q] ++ (if 64 ≤ q then [.ctx (bits (fld raw 2 2) 11 0)] else []) ++ (if bit (fld raw 1 1) 0 then [.fence (fld raw 8 2)] else [])

/-- DISPATCH of the entry in front of SQ q. -/
def dispatchStep (q : Nat) (s : State) : State :=
  match mget s.qe.sqs q with
  | none => s
  | some sq =>
    match sq.ready with
    | (n, raw) :: rest =>
      if raw = [] || !dispatchable s q raw then s
      else if spoilt s (keptOf q raw) then startReset 2 s
      else
        -- its signal fence passed check 6 when the entry was checked
        let c := { newCmd s q n sq.f raw with dispatched := true, sigOk := true }
        let fe := getFence s (fld raw 8 2)
        let c := if c.flag 0 then
            if fe.status ≠ 0 then { c with phase := .finished, status := stFenceError, detail := fe.status - 1 }
            else if reaches fe.value (BitVec.ofNat 64 (fld raw 104 8)) then c else { c with phase := .fence }
          else c
        let old := decide (q < 64) && c.phase ≠ .finished && versionRefused s sq.f
        let c := if old then { c with phase := .finished, status := stVersion } else c
        let s := if old then setReg (.hmFn sq.f) 0 0x044 1 s else s
        let c := if c.phase ≠ .finished && objectBad s sq.f c.op raw && 64 ≤ q then { c with phase := .finished, status := stRecipe } else c
        let s := updSq q (fun sq => let r := skipRefused (rest.length + 1) rest (n + 1); { sq with ready := r.1, next := r.2 }) s
        let s := if 64 ≤ q then { s with qe := { s.qe with ctxs := mupd s.qe.ctxs c.ctx fun x => { x with used := true } } } else s
        ltrTell (enter c s)
    | [] => s

/-- A stop that ends a unit's tile at once: any but an abort, and an abort while none of the tile's requests are issued (R481). -/
def Cmd.cut (c : Cmd) (early : Bool) : Option (Nat × Nat) := c.stop.filter fun x => x.1 ≠ stAborted || early

/-- A command that may begin: dispatched, its wait over, of the given opcode. -/
def startable (s : State) (k op : Nat) : Option Cmd :=
  match getCmd s k with
  | some c => if c.phase = .ready && c.op = op && !s.tg.ckpt && !rampHolds s then some c else none
  | none => none

/-- End a command whose effect is whole: RIGHTS met at a slice, poison met, else SUCCESS (R229, R467). -/
def finishWhole (k done : Nat) (s : State) : State :=
  match getCmd s k with
  | none => s
  | some c =>
    match c.stop with
    | some (st, d) => finish k st d done c.fault s
    | none => match c.poisonAt with
      | some (a, d) => finish k stPoisoned d done a s
      | none => match c.dstPoison with
        | some (a, d) => finish k stPoisoned d done a s
        | none => finish k stSuccess 0 done 0 s

/-- End a command that met a fault: PARTIAL or FAULT (R61, R62, R137). -/
def finishFault (k detail done addr : Nat) (s : State) : State :=
  match getCmd s k with
  | none => s
  | some c => if c.report && c.flag 3 then finish k stPartial 0 done addr s else finish k stFault detail done addr s

end Sys2Proof.Machine
end

