-- ==== Sys2Proof/Machine/Remote.lean ====
section
/-! DEFINITION. The source side of remote windows: outbound windows of the aperture (R408), routes (R401), requests and PLANs
on their way (R415, R552). -/

namespace Sys2Proof.Machine

/-- Whether link l is an UP link in Hawser mode (R390, R393). -/
def hawserUp (s : State) (l : Nat) : Bool :=
  match mget s.hl.links l with
  | some k => k.st = 4 && !bit (getReg s (.hlLink l) 0 0x040) 30
  | none => false

/-- The link a request for a target hub takes, R401. -/
def route (s : State) (target : Nat) : Option Nat :=
  match s.hl.links.find? fun p => p.2.peer = some target && hawserUp s p.1 with
  | some p => some p.1
  | none =>
    let r := getReg s .hl target 0x058
    if bit r 31 && hawserUp s (bits r 5 0) then some (bits r 5 0)
    else if bit r 31 && bit r 15 && hawserUp s (bits r 13 8) then some (bits r 13 8)
    else none

/-- The outbound window of an aperture address, R408. -/
def outWindow (a : Nat) : Nat := bits a 46 35

/-- The offset of an aperture address in its window, R408. -/
def outOffset (a : Nat) : Nat := a % 2 ^ 35

/-- The command a party works for. -/
def whoCmd (s : State) : Who → Option Nat
  | .mover m => (mget s.gm.movers m).map (·.k)
  | .lane l => (mget s.gm.lanes l).map (·.k)
  | .atomicUnit k | .result k | .churn k | .recipe k | .cmd k => some k
  | .engine e => (mget s.ch.engines e).map (·.k)
  | _ => none

/-- The task label a party's requests carry: its command's, or the partner's message's (R13, R58). -/
def whoLabel (s : State) (w : Who) : Nat :=
  match w with
  | .bresa b id => ((mget (mgetD s.qy.berths b {}).opens id).map (·.msg.label)).getD 0
  | _ => (((whoCmd s w).bind (getCmd s)).map fun c => fld c.raw 4 2).getD 0

/-- Send one request to the hub that aperture address a reaches, for who. The request is remembered until its answer or the
loss of its link: kind 0 read, 1 write, 2 non-idempotent. The answer is its tag, or none without a usable route (R401). -/
def sendRemote (who : Who) (kind va n a : Nat) (op : RemOp) (s : State) : Option Nat × State :=
  match mget s.hl.outw (outWindow a) with
  | none => (none, s)
  | some w =>
    match route s w.target with
    | none => (none, s)
    | some l =>
      let tag := s.hl.nextTag
      let r : RemReq := {
        link := l, src := s.hl.hubId, dst := w.target, tag := tag, hops := 15, win := w.win, off := outOffset a, op := op,
        label := whoLabel s who }
      let o : RemOut := { tag := tag, link := l, who := who, kind := kind, va := va, len := n, win := outWindow a,
                          seq := match op with | .nonIdem q _ => q | _ => 0, at_ := a }
      (some tag, emit (.remote l r) { s with hl := { s.hl with nextTag := tag + 1, outs := o :: s.hl.outs } })

/-- The inbound window and the offset of an aperture page, as a PLAN and its answer name it. -/
def planAddr (s : State) (a : Nat) : Nat := ((mget s.hl.outw (outWindow a)).map (·.win)).getD 0 * 2 ^ 35 + outOffset a

/-- Send one PLAN for a tile's pages behind one hub (R415), under a hop limit as of any request (R401): its tag, or none without a route. -/
def sendPlan (who : Who) (hub : Nat) (pages : List (Nat × Nat)) (s : State) : Option Nat × State :=
  match route s hub with
  | none => (none, s)
  | some l =>
    let tag := s.hl.nextTag
    let wins := (pages.map fun p => outWindow p.1).dedup
    let asks : List PlanPage := pages.map fun p => ⟨planAddr s p.1 / 2 ^ 35, outOffset p.1, p.2⟩
    let r : RemReq := {
      link := l, src := s.hl.hubId, dst := hub, tag := tag, hops := 15, win := ((asks.head?).map (·.win)).getD 0,
      off := ((asks.head?).map (·.off)).getD 0, op := .plan asks, label := whoLabel s who }
    let o : RemOut := { tag := tag, link := l, who := who, kind := 3, va := 0, len := 0, win := wins.headD 0, wins := wins }
    (some tag, emit (.remote l r) { s with hl := { s.hl with nextTag := tag + 1, outs := o :: s.hl.outs } })

/-- The hub behind the outbound window of an aperture address. -/
def outHub (s : State) (a : Nat) : Nat := ((mget s.hl.outw (outWindow a)).map (·.target)).getD 0

/-- A request ID for a home of another hub: the receiving hub knows its source as this hub, so all its units draw from one sequence (R552). -/
def hubSeq (s : State) : Nat × State :=
  let (j, s) := journalId 148 s
  (j.2, s)

/-- Remote requests of a party that have no answer. -/
def remoteOpen (s : State) (who : Who) : Bool := s.hl.outs.any fun o => o.who = who && o.kind ≠ 3

end Sys2Proof.Machine
end

