-- ==== Sys2Proof/Machine/Translation.lean ====
section
/-! DEFINITION. The Translation Unit: the ATCs and their fills (R109 to R115), device-map walks (R122 to R125), HDM decode
(R128, R129), rights (R119 to R121), plans and the fault policies (R130 to R137), page requests, and invalidation (R138 to R144). -/

namespace Sys2Proof.Machine

/-! ### What the hub advertises -/

/-- The capability fields of R108: translation and page requests as the host finds them in configuration space. -/
structure Advertised where
  invalidateQueueDepth : Nat
  /-- Logarithm of the smallest translation unit in bytes. -/
  smallestUnit : Nat
  pageAligned : Bool
  pasidWidth : Nat
  pageRequests : Nat
  deriving DecidableEq, Repr

/-- What the hub advertises on every function (R108). -/
def advertised : Advertised := { invalidateQueueDepth := 32, smallestUnit := 12, pageAligned := true, pasidWidth := 20, pageRequests := 1024 }

/-! ### Rights -/

/-- The rights needed but not held. -/
def Rights.lacks (need have_ : Rights) : Rights := ⟨need.r && !have_.r, need.w && !have_.w, need.a && !have_.a⟩

/-- Whether any right is named. -/
def Rights.any (x : Rights) : Bool := x.r || x.w || x.a

/-- Either's rights. -/
def Rights.join (x y : Rights) : Rights := ⟨x.r || y.r, x.w || y.w, x.a || y.a⟩

/-- Both's rights. -/
def Rights.meet (x y : Rights) : Rights := ⟨x.r && y.r, x.w && y.w, x.a && y.a⟩

/-- DETAIL of RIGHTS: bit 0 read, 1 write, 2 atomic (R87). -/
def Rights.code (x : Rights) : Nat := b2n x.r + 2 * b2n x.w + 4 * b2n x.a

/-- All three rights. -/
def allRights : Rights := ⟨true, true, true⟩

/-! ### Who asks -/

/-- The region of berth b, R109. -/
def berthRegion (b : Nat) : Nat := if b < 4 then b else b + 8

/-- The region ATC a party's lookup of a page uses, R109 and R268; none goes to the central ATC directly. -/
def regionOf (s : State) (w : Who) (it : Item) : Option Nat :=
  match w with
  | .mover m => some (m / 4)
  | .churn k =>
    match getCmd s k with
    | some c =>
      let base := fld c.raw 24 8
      if it.space = bits (fld c.raw 17 1) 1 0 && base ≤ it.page then some ((it.page - base) / chWin c.raw % 16) else some 0
    | none => some 0
  | .engine e => some (e / 2048)
  | .bresa b _ | .cxl b _ => some (berthRegion b)
  | _ => none

/-! ### The ATCs -/

/-- Whether an entry covers an input page. -/
def Xl.covers (x : Xl) (f : Nat) (pasid : Option Nat) (space page : Nat) : Bool :=
  x.f = f && x.pasid = pasid && x.space = space && x.base ≤ page && page < x.base + x.len

/-- A device map is per function, so its entries carry no PASID (R122). -/
def keyPasid (space : Nat) (pasid : Option Nat) : Option Nat := if space = 0 then pasid else none

/-- Put an entry first in a table of n entries; a full table gives up a free choice (R111). -/
def atcPut (n : Nat) (x : Xl) (l : List Xl) (s : State) : List Xl × State :=
  if l.length < n then (x :: l, s)
  else let (i, s) := draw s; (x :: l.eraseIdx (Config.atcVictim i % n), s)

/-- Merge a fill into the central ATC, R114. -/
def centralMerge (x : Xl) (l : List Xl) : Option (List Xl) :=
  match l.find? fun (e : Xl) => e.f = x.f && e.pasid = x.pasid && e.space = x.space && e.rights = x.rights && e.kind = x.kind
      && e.len + x.len ≤ 2 ^ 36
      && ((e.base + e.len = x.base && e.out + e.len = x.out) || (x.base + x.len = e.base && x.out + x.len = e.out)) with
  | some e =>
    let m : Xl := if e.base < x.base then { e with len := e.len + x.len, range := true } else { e with base := x.base, out := x.out, len := e.len + x.len, range := true }
    some (m :: l.erase e)
  | none => none

/-- What a region ATC takes from a central entry for a page: the page itself, or the largest aligned block of at most 2 MiB
of a range (R115). -/
def regionPart (x : Xl) (page : Nat) : Xl :=
  if !x.range then x
  else
    let k := ((List.range' 12 10).reverse.find? fun k =>
      x.base ≤ page / 2 ^ k * 2 ^ k && page / 2 ^ k * 2 ^ k + 2 ^ k ≤ x.base + x.len).getD 12
    let b := page / 2 ^ k * 2 ^ k
    { x with base := b, len := 2 ^ k, out := x.out + (b - x.base), range := false }

/-- Fill the region ATC of a requester. -/
def fillRegion (rg : Option Nat) (x : Xl) (s : State) : State :=
  match rg with
  | none => s
  | some r =>
    let l := mgetD s.tu.region r []
    let (l, s) := atcPut 2048 x (l.filter fun e => e ≠ x) s
    { s with tu := { s.tu with region := mset s.tu.region r l } }

/-- Fill the central ATC with a new translation, and the region ATC or a mover's lookahead buffer (R111, R114 to R116). -/
def fillAtc (x : Xl) (page : Nat) (rg ahead : Option Nat) (s : State) : State :=
  let (c, s) := match centralMerge x s.tu.central with
    | some l => (l, s)
    | none => atcPut 262144 x s.tu.central s
  let s := { s with tu := { s.tu with central := c } }
  let e := (c.find? fun e => e.covers x.f x.pasid x.space page).getD x
  match ahead with
  | some m =>
    let l := mgetD s.tu.ahead m []
    { s with tu := { s.tu with ahead := mset s.tu.ahead m (regionPart e page :: l) } }
  | none => fillRegion rg (regionPart e page) s

/-- Look a page up in the region ATC, a mover's lookahead buffer and the central ATC. A central or lookahead hit fills the
region ATC; a lookahead entry is consumed. -/
def atcFind (w : Who) (f : Nat) (pasid : Option Nat) (it : Item) (s : State) : Option Xl × State :=
  let rg := regionOf s w it
  let here := match rg with | some r => (mgetD s.tu.region r []).find? fun (x : Xl) => x.covers f pasid it.space it.page | none => none
  match here with
  | some x => (some x, s)
  | none =>
    let ahead : List Xl := match w with | .mover m => mgetD s.tu.ahead m [] | _ => []
    match ahead.find? fun x => x.covers f pasid it.space it.page with
    | some x =>
      let s := match w with | .mover m => { s with tu := { s.tu with ahead := mset s.tu.ahead m (ahead.erase x) } } | _ => s
      (some x, fillRegion rg x s)
    | none =>
      match s.tu.central.find? fun x => x.covers f pasid it.space it.page with
      | some x => (some x, fillRegion rg (regionPart x it.page) s)
      | none => (none, s)

/-! ### HDM decode and outputs -/

/-- Whether some link runs CXL.mem (R430). -/
def anyCxl (s : State) : Bool := (List.range 4).any (linkCxl s)

/-- The DPA an HDM decoder gives a host address, R128; without a link that runs CXL.mem nothing is decoded (R430). -/
def hdmDecode (s : State) (a : Nat) : Option Nat :=
  if !anyCxl s then none
  else (s.gw.hdm.find? fun d => d.2.base ≤ a && a < d.2.base + d.2.size).map fun d => d.2.dpa + (a - d.2.base)

/-- The outbound window check of R413: the window's rights, or none where the address is an absent translation. -/
def windowRights (s : State) (f a : Nat) : Option Rights :=
  match mget s.hl.outw (outWindow a) with
  | some w => if outOffset a < w.len && (w.f = f || f = 0) then some w.rights else none
  | none => none

/-- Whether a party's remote pages are answered by a PLAN first (R415). -/
def plansRemote : Who → Bool
  | .mover _ | .lane _ => true
  | _ => false

/-- Whether a party is a peer's request; its leaf in the aperture is an absent translation (R414). -/
def arrivesRemote : Who → Bool
  | .remote .. | .planReq .. => true
  | _ => false

/-- A plan as one of its pages sees it: of the function whose map the page goes through. -/
def Plan.of (p : Plan) (it : Item) : Plan := match it.own with | some f => { p with f := f, tenant := f } | none => p

/-- Whether the invalidation of an outbound window's range runs over an aperture address (R139, R412). -/
def apertureBlocks (s : State) (out : Nat) : Bool := s.tu.invs.any fun v => v.space = 2 && v.base < out + 4096 && out < v.base + v.size

/-- Whether a page of a plan is a page of a CHURN command's windows (R268). -/
def windowPage (s : State) (w : Who) (it : Item) : Bool :=
  match w with
  | .churn k => match getCmd s k with
    | some c =>
      let base := fld c.raw 24 8
      it.space = bits (fld c.raw 17 1) 1 0 && base ≤ it.page && it.page < base + (chWindows c.raw + chExtra c.raw) * chWin c.raw
    | none => false
  | _ => false

/-- Decide one page from its output DPA: reserved DPAs (R19), page tags (R467), outbound windows (R413). -/
def settleDpa (p : Plan) (it : Item) (out : Nat) (s : State) : ItemSt × State :=
  match region s out with
  | 4 => if arrivesRemote p.who then (.bad .absent, s)
    else if apertureBlocks s out then (.need, s)
    else match windowRights s p.f out with
    | none => (.bad .forced, s)
    | some r => if (it.rights.lacks r).any then (.bad (.short (it.rights.lacks r)), s)
      else if plansRemote p.who then (.planned out, s) else (.ok out .dpa, s)
  | 5 => if it.space = 1 then (.bad .absent, s) else (.bad .reserved, captureReserved p.who p.f out s)
  | 3 => if windowPage s p.who it then (.bad .absent, s)
    else if tagPasses s out p.tenant false then (.ok out .dpa, s) else (.bad (.tag it.rights), tagDeny (whoOrigin s p.who p.f) s)
  | 1 | 2 => (if laterCopy s out then .bad .reserved else .ok out .dpa, s)
  | _ => if tagPasses s out p.tenant false then (.ok out .dpa, s) else (.bad (.tag it.rights), tagDeny (whoOrigin s p.who p.f) s)

/-- Decide one page from the DPA an HDM decode gave (R129): an external tier, and no later copy. -/
def settleHdm (p : Plan) (d : Nat) (s : State) : ItemSt × State :=
  if region s d = 1 || region s d = 2 then (if laterCopy s d then .bad .reserved else .ok d .dpa, s)
  else (.bad .reserved, capErr .tu 5 (whoOrigin s p.who p.f) s)

/-- Decide one page from a translation. -/
def settle (p : Plan) (it : Item) (x : Xl) (s : State) : ItemSt × State :=
  let out := x.out + (it.page - x.base)
  if (it.rights.lacks x.rights).any then (.bad (.short (it.rights.lacks x.rights)), s)
  else match x.kind with
    | .host => (.ok out .host, s)
    | .dpa => if it.space = 0 then settleHdm p out s else settleDpa p it out s

/-- The sizes of a page, R110, largest first. -/
def pageSizes : List Nat := [2 ^ 30, 2 ^ 21, 2 ^ 16, 2 ^ 12]

/-- The ATC entry of an SVA page for which the host answered a translation of 2^n bytes: host memory, or the local DPA an HDM decoder gives
(R110, R128). The entry is the largest page of R110 within the answer over which the output kind and the decoder are one. -/
def svaEntry (s : State) (f : Nat) (pasid : Option Nat) (page out n : Nat) (rights : Rights) : Xl :=
  let len := 2 ^ Nat.max advertised.smallestUnit n
  let bus := out / len * len + page % len
  let one (k : Nat) : Bool :=
    let b := bus / k * k
    k ≤ len && (match hdmDecode s bus with
      | some d => hdmDecode s b = some (d - (bus - b)) && b ≤ bus && hdmDecode s (b + k - 1) = some (d - (bus - b) + k - 1)
      | none => !(anyCxl s && s.gw.hdm.any fun h => h.2.base < b + k && b < h.2.base + h.2.size))
  let k := (pageSizes.find? one).getD (2 ^ 12)
  let off := page % k
  match hdmDecode s bus with
  | some d => { f := f, pasid := pasid, space := 0, base := page - off, len := k, out := d - off, kind := .dpa, rights := rights }
  | none => { f := f, pasid := pasid, space := 0, base := page - off, len := k, out := bus - off, kind := .host, rights := rights }

/-! ### Device-map walks -/

/-- What a walk finds (R124, R560). -/
inductive WalkRes where
  | leaf (base len out : Nat) (rights : Rights) (hold : Bool)
  | absent
  | poison
  | denied
  /-- A table line is held by a berth, a queued access or a mode change (R324, R375): the walk goes on when it has come back. -/
  | waits
  deriving DecidableEq, Repr

/-- A walk error of R155 is captured and raised. -/
def walkErr (code : Nat) (o : Origin) (s : State) : State := raise .tu 3 (capErr .tu code o s)

/-- One level of a walk and the levels below it (R122 to R124), for a party of origin o (R568). `n` is the level. -/
def walkLevel (o : Origin) (dva cls : Nat) : Nat → Nat → State → WalkRes × State
  | n, table, s =>
    let ea := table + bits dva (12 + 9 * n + 8) (12 + 9 * n) * 8
    if (region s table ≠ 0 && region s table ≠ 1 && region s table ≠ 3) || laterCopy s ea then (.absent, walkErr 2 o s)
    else if !tagPasses s ea 0 false then (.denied, tagDeny o s)
    else match recallLines [ea / 64 * 64] s with
    | (false, s) => (.waits, s)
    | (true, s) =>
      let (bs, s) := readNow ea 8 0 o cls s
      if bs.any fun b => b.poison.isSome then (.poison, s)
      else
        let e := leNat (bs.map (·.val))
        let leaf := bit e 4
        let low := bits e 47 12 * 4096
        let rsv := bits e 63 48 ≠ 0 || bits e 11 6 ≠ 0 || (!leaf && (bits e 3 1 ≠ 0 || bit e 5)) || (leaf && low % 2 ^ (12 + 9 * n) ≠ 0)
        if !bit e 0 then (.absent, s)
        else if rsv || (n = 3 && leaf) || (n = 0 && !leaf) then (.absent, walkErr 1 o s)
        else if leaf then
          let size := 2 ^ (12 + 9 * n)
          let out := low + dva / 4096 * 4096 % size
          if region s out = 5 then (.absent, walkErr 2 o s)
          else (.leaf (dva / size * size) size low ⟨bit e 1, bit e 2, bit e 3⟩ (bit e 5), s)
        else match n with
          | 0 => (.absent, s)
          | m + 1 => walkLevel o dva cls m low s

/-- A whole walk of function f's map for a party of origin o. -/
def walkMap (o : Origin) (f dva cls : Nat) (s : State) : WalkRes × State :=
  let root := getReg s (.tuFn f) 0 0x040 / 4096 * 4096 + 2 ^ 32 * (getReg s (.tuFn f) 0 0x044 % 2 ^ 16)
  walkLevel o dva cls 3 root s

/-- Whether function f's map is live, R157. -/
def mapLive (s : State) (f : Nat) : Bool := bit (getReg s (.tuFn f) 0 0x040) 0

/-! ### Lookups -/

/-- Whether an invalidation covers a page of a function, R138. -/
def Inv.hits (v : Inv) (f : Nat) (pasid : Option Nat) (space base len : Nat) : Bool :=
  v.f = f && (v.space = 3 || v.space = space) && (v.anyPasid || v.pasid = pasid) && v.base < base + len && base < v.base + v.size

/-- Whether a lookup waits for an invalidation of its range (R139 step 3). -/
def invBlocks (s : State) (f : Nat) (pasid : Option Nat) (space page : Nat) : Bool :=
  s.tu.invs.any fun v => v.hits f pasid space page 4096

/-- Start a device-map walk. -/
def startWalk (w : Who) (f page cls : Nat) (ahead : Option Nat) (s : State) : Nat × State :=
  let id := s.tu.nextId
  let k : Walk := { id := id, f := f, page := page, who := w, cls := cls, lookahead := ahead }
  (id, { s with tu := { s.tu with nextId := id + 1, walks := k :: s.tu.walks } })

/-- Send an ATS Translation Request. -/
def startAts (f : Nat) (pasid : Option Nat) (page : Nat) (ahead : Option Nat) (s : State) : Nat × State :=
  let id := s.tu.nextId
  let a : AtsReq := { id := id, f := f, pasid := pasid, page := page, lookahead := ahead }
  (id, emit (.atsRequest id f pasid page) { s with tu := { s.tu with nextId := id + 1, ats := a :: s.tu.ats } })

/-- Look up one page of a plan (R103 to R105, R111, R118, R157). -/
def lookItem (p0 : Plan) (it : Item) (s : State) : ItemSt × State :=
  let p := p0.of it
  let pasid := keyPasid it.space p.pasid
  if it.space = 2 then
    if 2 ^ 48 ≤ it.page then (.bad .reserved, captureReserved p.who p.f it.page s) else settleDpa p it it.page s
  else if it.space = 1 && (!mapLive s p.f || 2 ^ 48 ≤ it.page) then (.bad .absent, s)
  else if it.space = 0 && s.gw.detached then (.need, s)
  else if it.space = 0 && !(fnCfg s p.f).ats then (.ok it.page .host, s)
  else if invBlocks s p.f pasid it.space it.page then (.need, s)
  else
    match atcFind p.who p.f pasid it s with
    | (some x, s) => settle p it x (bump (.tuFn p.f) 0x048 1 s)
    | (none, s) =>
      if it.space = 1 then
        let (id, s) := startWalk p.who p.f it.page p.cls none (bump (.tuFn p.f) 0x04C 1 s)
        (.wait id, s)
      else if 512 ≤ s.tu.ats.length then (.need, s)
      else
        let (id, s) := startAts p.f pasid it.page none (bump (.tuFn p.f) 0x04C 1 s)
        (.wait id, s)

/-! ### Plans -/

/-- The plan of a party. -/
def getPlan (s : State) (w : Who) : Option Plan := s.tu.plans.find? fun p => p.who = w

/-- The plan of a party changed. -/
def setPlan (p : Plan) (s : State) : State :=
  let ps := if s.tu.plans.any (·.who = p.who) then s.tu.plans.map fun q => if q.who = p.who then p else q else p :: s.tu.plans
  { s with tu := { s.tu with plans := ps } }

/-- A party's plan dropped. -/
def dropPlan (w : Who) (s : State) : State :=
  { s with tu := { s.tu with plans := s.tu.plans.filter fun q => q.who ≠ w, prgs := s.tu.prgs.filter fun g => g.who ≠ w } }

/-- Whether a page that cannot be used is asked for by a page request (R121, R130, R131). -/
def canAsk (s : State) (p : Plan) (it : Item) : Bool :=
  it.space = 0 && !p.report && (fnCfg s p.f).pri && !s.tu.priStopped.contains p.f
    && (match it.st with | .bad .absent => true | .bad (.short _) => !it.asked | _ => false)

/-- Whether a page ends its plan. -/
def hardBad (s : State) (p : Plan) (it : Item) : Bool :=
  match it.st with | .bad _ => !canAsk s p it | _ => false

/-- Whether a page still waits for a lookup. -/
def Item.looking (it : Item) : Bool := match it.st with | .need | .wait _ => true | _ => false

/-- Whether a page waits for the host, a release of HOLD or a PLAN. -/
def Item.waiting (it : Item) : Bool := match it.st with | .held _ | .asked _ | .remoteWait .. | .planned _ => true | _ => false

/-- Whether a page is translated. -/
def Item.isOk (it : Item) : Bool := match it.st with | .ok .. => true | _ => false

/-- Count a fault or shortfall of a function (TU.FN_FAULTS). -/
def countFault (f : Nat) (s : State) : State := bump (.tuFn f) 0x050 1 s

/-- A page's lookup came to st: a fault or a shortfall counts, also one that a page request resolves later; an absent translation for a poisoned
table line or an ATS error is a fault like another (R130, R156, R560). -/
def noteBad (f : Nat) (st : ItemSt) (s : State) : State :=
  match st with
  | .bad .absent | .bad .forced | .bad .timeout | .bad .walkPoison | .bad .host | .bad (.short _) | .bad (.tag _) => countFault f s
  | _ => s

/-- Look up every page that needs it. -/
def lookAll (p : Plan) (s : State) : Plan × State :=
  p.items.foldl (fun (a : Plan × State) it =>
    let (st, s) := match it.st with | .need => (let (st, s) := lookItem p it a.2; (st, noteBad (p.of it).f st s)) | st => (st, a.2)
    ({ a.1 with items := a.1.items ++ [{ it with st := st }] }, s)) ({ p with items := [] }, s)

/-- Page requests outstanding. -/
def prsOut (s : State) : Nat := (s.tu.prgs.map fun g => g.pages.length).sum

/-- The access a page request asks for: reading where R or A is needed, writing where W or A is (R121, R131). Bit 0 read, bit 1 write. -/
def askCode (x : Rights) : Nat := b2n (x.r || x.a) + 2 * b2n (x.w || x.a)

/-- Send one page request group for the pages of a plan that can be asked for, before its first hard failure: at most 32,
within the function's allocation and the hub's 1,024 (R131, R132). -/
def askPages (p : Plan) (s : State) : Plan × State :=
  let cand := (p.items.takeWhile fun it => !hardBad s p it).filter (canAsk s p)
  let mine := (s.tu.prgs.map fun g => if g.f = p.f then g.pages.length else 0).sum
  let room := Nat.min 32 (Nat.min (advertised.pageRequests - prsOut s) (Nat.max 1 (fnCfg s p.f).opra - mine))
  let ask := cand.take room
  if ask.isEmpty || (p.items.any fun it => match it.st with | .asked _ => true | _ => false) then (p, s)
  else
    let g := s.tu.nextId
    -- Page Aligned Request: an address is its page's (R108)
    let pages := ask.map fun it => it.page / 2 ^ advertised.smallestUnit * 2 ^ advertised.smallestUnit + askCode it.rights
    let s := { s with tu := { s.tu with nextId := g + 1, prgs := { grp := g, f := p.f, who := p.who, pages := ask.map (·.page) } :: s.tu.prgs } }
    ({ p with items := p.items.map fun it => if ask.contains it then { it with st := .asked g, asked := true } else it },
      emit (.pageRequest g p.f p.pasid pages true) s)

/-- The PLAN the lookahead sent ahead for a party's pages behind a hub, if it covers them. -/
def plannedAhead (s : State) (w : Who) (hub : Nat) (outs : List (Nat × Nat)) : Option AheadPlan :=
  match w with
  | .mover m => s.hl.ahead.find? fun a => a.m = m && a.hub = hub && outs.all a.pages.contains
  | _ => none

/-- The PLANs sent ahead without those of a kind. -/
def dropAhead (gone : AheadPlan → Bool) (s : State) : State := { s with hl := { s.hl with ahead := s.hl.ahead.filter fun a => !gone a } }

/-- Send the PLAN of a tile whose local pages are all translated, one to each hub its pages lie behind (DEDUCED, log entry 106); a PLAN that the
lookahead sent for it stands for its own, with its answer or waiting for it (R415). -/
def sendPlans (p : Plan) (s : State) : Plan × State :=
  let hubs := (p.items.filterMap fun it => match it.st with | .planned o => some (outHub s o) | _ => none).dedup
  hubs.foldl (fun (a : Plan × State) w =>
    let outs := a.1.items.filterMap fun it => match it.st with | .planned o => if outHub s o = w then some (o, it.rights.code) else none | _ => none
    let (st, s) : (Nat → ItemSt) × State := match plannedAhead a.2 p.who w outs with
      | some h => (fun o => if h.ok then .ok o .dpa else .remoteWait h.tag o, dropAhead (fun x => x.tag = h.tag) a.2)
      | none => match sendPlan p.who w outs a.2 with
        | (some t, s) => (fun o => .remoteWait t o, s)
        | (none, s) => (fun _ => .bad .link, s)
    ({ a.1 with items := a.1.items.map fun it => match it.st with
        | .planned o => if outHub a.2 o = w then { it with st := st o } else it
        | _ => it }, s)) (p, s)

/-- Whether a plan belongs to a CHURN command whose windows run: a page whose translation died is looked up again by the engine's next
access to it (R273), not before. -/
def onAccess (s : State) (w : Who) : Bool :=
  match w with
  | .churn k => (mget s.ch.runs k).any (·.planned)
  | _ => false

/-- Look up one page of a party's plan, where its translation is absent. -/
def lookPage (w : Who) (space page : Nat) (s : State) : State :=
  match getPlan s w with
  | none => s
  | some p =>
    let mine (it : Item) : Bool := it.space = space && it.page = page && it.st = .need
    match p.items.find? mine with
    | none => s
    | some it =>
      let (st, s) := lookItem p it s
      setPlan { p with items := p.items.map fun it => if mine it then { it with st := st } else it } (noteBad p.f st s)

/-- Take a plan as far as it goes without an answer from outside. -/
def planAdvance (w : Who) (s : State) : State :=
  match getPlan s w with
  | none => s
  | some p =>
    if onAccess s w then s else
    let (p, s) := lookAll p s
    if p.items.any Item.looking then setPlan p s
    else
      let (p, s) := askPages p s
      let done := p.items.all fun it => match it.st with | .ok .. | .planned _ => true | _ => false
      let (p, s) := if done then sendPlans p s else (p, s)
      setPlan p s

/-- Begin a plan. -/
def planStart (p : Plan) (s : State) : State := planAdvance p.who (setPlan p (p.items.foldl (fun s it => noteBad (p.of it).f it.st s) s))

/-- Where a plan stands: absent or waiting, every page translated, or ended by its first page that cannot be used (R136). -/
inductive PlanAt where
  | waiting
  | ready (items : List Item)
  | failed (it : Item) (b : Bad)
  deriving DecidableEq, Repr

/-- Whether a page waits only for the tile's PLAN to be sent, which it is once every local page is translated. -/
def Item.unsent (it : Item) : Bool := match it.st with | .planned _ => true | _ => false

/-- Where the plan of a party stands. A local page that cannot be used ends it, though no PLAN was sent for the remote ones. -/
def planAt (s : State) (w : Who) : PlanAt :=
  match getPlan s w with
  | none => .waiting
  | some p =>
    if p.items.any Item.looking then .waiting
    else match p.items.find? fun it => !it.isOk && !it.unsent with
      | none => if p.items.any Item.unsent then .waiting else .ready p.items
      | some it => match it.st with
        | .bad b => if canAsk s p it then .waiting else .failed it b
        | _ => .waiting

/-- Retry every plan that has a page still to look up. -/
def retryPlans (s : State) : State :=
  s.tu.plans.foldl (fun s p => if p.items.any Item.looking || p.items.any (canAsk s p) then planAdvance p.who s else s) s

/-- The output of an input address under translated pages. -/
def outOf (items : List Item) (space a : Nat) : Option (Nat × OutKind) :=
  match items.find? fun it => it.space = space && it.page = a / 4096 * 4096 with
  | some it => match it.st with | .ok o k => some (o + a % 4096, k) | _ => none
  | none => none

/-- Note one touched element of a tile: its pages join the plan's items in element order, rights joined (R134, R136). -/
def touch (space a n : Nat) (r : Rights) (items : List Item) : List Item :=
  (pieces 4096 a n).foldl (fun items p =>
    let page := p.1 / 4096 * 4096
    if items.any fun it => it.space = space && it.page = page then
      items.map fun it => if it.space = space && it.page = page then { it with rights := it.rights.join r } else it
    else items ++ [{ space := space, page := page, first := a, rights := r }]) items

/-- End command k, stopped at a page with `done` units committed (R121, R129, R130, R137, R396, R560). A wait that ran out ends FAULT with DETAIL 1
under either policy (R132, R152). -/
def stopCmd (k done addr : Nat) (b : Bad) (s : State) : State :=
  match b with
  | .absent | .host => finishFault k 0 done addr s
  | .forced => finish k stFault 0 done addr s
  | .timeout => finish k stFault 1 done addr s
  | .short r | .tag r => finish k stRights r.code done addr s
  | .reserved => finish k stAddress 0 done addr s
  | .walkPoison | .recall => finish k stPoisoned 0 done addr s
  | .link => finish k stLinkGone 0 done 0 s
  | .refused st d => finish k st d done addr s

/-! ### Answers -/

/-- Settle the pages of every plan that waits on lookup id with f. -/
def answerLookup (id : Nat) (g : Plan → Item → State → ItemSt × State) (s : State) : State :=
  s.tu.plans.foldl (fun s p =>
    if p.items.any fun it => it.st = .wait id then
      let r := p.items.foldl (fun (a : List Item × State) it =>
        if it.st = .wait id then let (st, s) := g (p.of it) it a.2; let s := noteBad (p.of it).f st s; (a.1 ++ [{ it with st := st }], s) else (a.1 ++ [it], a.2)) ([], s)
      planAdvance p.who (setPlan { p with items := r.1 } r.2)
    else s) s

/-- An ATS Translation Completion (R111, R117, R120, R130, R140, R155). -/
def atsDone (id : Nat) (a : AtsAnswer) (s : State) : State :=
  match s.tu.ats.find? fun q => q.id = id with
  | none => s
  | some q =>
    let s := { s with tu := { s.tu with ats := s.tu.ats.filter fun q => q.id ≠ id } }
    let s :=
      if q.stale then answerLookup id (fun _ _ s => (.need, s)) s
      else match a with
        | .error =>
          let o := match s.tu.plans.find? fun p => p.items.any fun it => it.st = .wait id with
            | some p => whoOrigin s p.who p.f
            | none => fnOrigin q.f
          answerLookup id (fun _ _ s => (.bad .host, s)) (capErr .tu 3 o s)
        | .xlate out n r w =>
          if !r && !w then answerLookup id (fun _ _ s => (.bad .absent, s)) s
          else
            let x := svaEntry s q.f q.pasid q.page out n ⟨r, w, r && w⟩
            match q.lookahead with
            | some m => fillAtc x q.page none (some m) s
            | none =>
              let rg := match s.tu.plans.findSome? fun p => (p.items.find? fun it => it.st = .wait id).map fun it => (p.who, it) with
                | some (w, it) => regionOf s w it
                | none => none
              answerLookup id (fun p it s => settle p it x s) (fillAtc x q.page rg none s)
    retryPlans s

/-- A device-map walk ends (R112, R117, R122 to R124, R133, R560). -/
def walkDone (id : Nat) (s : State) : State :=
  match s.tu.walks.find? fun q => q.id = id with
  | none => s
  | some q =>
    let s0 := s
    let s := { s with tu := { s.tu with walks := s.tu.walks.filter fun q => q.id ≠ id } }
    let s :=
      if q.stale then answerLookup id (fun _ _ s => (.need, s)) s
      else
        match walkMap (whoOrigin s q.who q.f) q.f q.page q.cls s with
        | (.waits, s) => { s with tu := { s.tu with walks := s0.tu.walks } }
        | (.leaf base len out r hold, s) =>
          if hold then answerLookup id (fun _ _ s => (.held id, s)) s
          else
            let x : Xl := { f := q.f, pasid := none, space := 1, base := base, len := len, out := out, kind := .dpa, rights := r }
            match q.lookahead with
            | some m => fillAtc x q.page none (some m) s
            | none => answerLookup id (fun p it s => settle p it x s) (fillAtc x q.page (regionOf s q.who { space := 1, page := q.page, first := 0, rights := {} }) none s)
        | (.absent, s) => answerLookup id (fun _ _ s => (.bad .absent, s)) s
        | (.poison, s) => answerLookup id (fun _ _ s => (.bad .walkPoison, s)) s
        | (.denied, s) => answerLookup id (fun _ _ s => (.bad (.tag ⟨true, false, false⟩), s)) s
    retryPlans s

/-- The pages of a page request group take a state. -/
def settleGroup (g : Prg) (st : ItemSt) (s : State) : State :=
  match getPlan s g.who with
  | none => s
  | some p => planAdvance g.who (setPlan { p with items := p.items.map fun it => if it.st = .asked g.grp then { it with st := st } else it } s)

/-- Forget what the ATCs hold of the pages a group asked for, so that their lookups go to the source (R121, R131). -/
def atcForget (g : Prg) (s : State) : State :=
  let pasid := match getPlan s g.who with | some p => p.pasid | none => none
  let dead (x : Xl) : Bool := g.pages.any fun a => x.covers g.f pasid 0 a
  { s with tu := { s.tu with
    central := s.tu.central.filter fun x => !dead x,
    region := s.tu.region.map fun p => (p.1, p.2.filter fun x => !dead x),
    ahead := s.tu.ahead.map fun p => (p.1, p.2.filter fun x => !dead x) } }

/-- A page response (R131, R155). -/
def prgDone (f grp : Nat) (c : PrgCode) (s : State) : State :=
  match s.tu.prgs.find? fun g => g.grp = grp && g.f = f with
  | none => capErr .tu 4 (fnOrigin f) s
  | some g =>
    let s := { s with tu := { s.tu with prgs := s.tu.prgs.filter fun h => h.grp ≠ grp } }
    let s := match c with
      | .success => settleGroup g .need (atcForget g s)
      | .invalid => settleGroup g (.bad .forced) s
      | .failure => settleGroup g (.bad .forced) (raise .tu 4 { s with tu := { s.tu with priStopped := f :: s.tu.priStopped.filter (· ≠ f) } })
    retryPlans s

/-- TU.PRI_TIMEOUT passes for a page request group (R132): a later response is discarded. -/
def prgTimeout (grp : Nat) (s : State) : State :=
  match s.tu.prgs.find? fun g => g.grp = grp with
  | none => s
  | some g => retryPlans (settleGroup g (.bad .timeout) { s with tu := { s.tu with prgs := s.tu.prgs.filter fun h => h.grp ≠ grp } })

/-- TU.PRI_TIMEOUT passes for a page that a HOLD leaf keeps waiting (R130). -/
def holdTimeout (id : Nat) (s : State) : State :=
  s.tu.plans.foldl (fun s p =>
    if p.items.any fun it => it.st = .held id then
      planAdvance p.who (setPlan { p with items := p.items.map fun it => if it.st = .held id then { it with st := .bad .timeout } else it }
        ((p.items.filter fun it => it.st = .held id).foldl (fun s it => noteBad (p.of it).f (.bad .timeout) s) s))
    else s) s

/-! ### Invalidation -/

/-- Whether an ATC entry overlaps an invalidation (R141). -/
def Inv.kills (v : Inv) (x : Xl) : Bool :=
  if v.space = 2 then x.kind = .dpa && v.base < x.out + x.len && x.out < v.base + v.size else v.hits x.f x.pasid x.space x.base x.len

/-- Whether an invalidation covers a page of a plan: by its input address, or by its output in a window's aperture (R412). -/
def Inv.killsItem (v : Inv) (p : Plan) (it : Item) : Bool :=
  if v.space = 2 then (match it.st with
    | .ok o .dpa | .planned o | .remoteWait _ o => v.base < o + 4096 && o < v.base + v.size
    | _ => false)
  else v.hits (p.of it).f (keyPasid it.space p.pasid) it.space it.page 4096

/-- The output ranges of every dead translation: ATC entries, and pages that plans hold. -/
def deadOuts (v : Inv) (s : State) : List (Nat × Nat × OutKind) :=
  let atc := s.tu.central ++ (s.tu.region.flatMap fun p => p.2) ++ (s.tu.ahead.flatMap fun p => p.2)
  ((atc.filter v.kills).map fun x => (x.out, x.len, x.kind)) ++ s.tu.plans.flatMap fun p => p.items.filterMap fun it =>
    match it.st with
    | .ok o k => if v.killsItem p it then some (o, 4096, k) else none
    | _ => none

/-- The function a queued access works for. -/
def whoFn (s : State) (w : Who) : Option Nat :=
  match whoCmd s w with
  | some k => (getCmd s k).map (·.f)
  | none => none

/-- The partners' requests in progress whose translation an invalidation covers: berth and number. -/
def askedUnder (v : Inv) (s : State) : List (Nat × Nat) :=
  (List.range 8).flatMap fun b => (getBerth s b).opens.filterMap fun p =>
    let m := p.2.msg
    let hit : Bool := if (getBerth s b).cxl then p.2.issued && v.hits (bits (getReg s (.qyBerth b) 0 0x048) 5 0) none 1 (m.addr / 4096 * 4096) 4096
      else match mget s.qe.ctxs (m.ctx % 4096) with
        | some x => p.2.issued && v.hits x.f (keyPasid (bits m.ctx 13 12) x.pasid) (bits m.ctx 13 12) (m.addr / 4096 * 4096) 4096
        | none => false
    if hit then some (b, p.1) else none

/-- The peers' requests in progress whose translation an invalidation covers. -/
def peersUnder (v : Inv) (s : State) : List (Nat × Nat × Nat) :=
  s.hl.ins.filterMap fun i =>
    if i.issued && v.hits i.f none 1 (i.dva / 4096 * 4096) 8192 then some (i.req.link, i.req.src, i.req.tag) else none

/-- The commands whose AtomicOp at the host used a page an invalidation covers. -/
def atomicsUnder (v : Inv) (s : State) : List Nat :=
  (s.qe.cmds.filter fun p => p.2.f = v.f && (aopOf p.2.op).isSome && p.2.aux = 1 && p.2.old.isNone && p.2.phase = .running
    && (getPlan s (.atomicUnit p.1)).any fun pl => pl.items.any fun it => v.killsItem pl it).map (·.1)

/-- Steps 1 and 2 of R139: every entry of the range is dead, and every issued request that used one is recorded. -/
def invStart (src : InvSrc) (f : Nat) (pasid : Option Nat) (anyPasid : Bool) (space base size : Nat) (s : State) : State :=
  let id := s.tu.nextId
  let v0 : Inv := { id := id, src := src, f := f, pasid := pasid, anyPasid := anyPasid, space := space, base := base, size := size,
                    reads := [], ops := [], berths := [], flushes := [], links := [], started := s.time.toNat }
  let dead := deadOuts v0 s
  let inside (k : OutKind) (a n : Nat) : Bool := dead.any fun d => d.2.2 = k && d.1 < a + n && a < d.1 + d.2.1
  let reads := (s.gw.reads.filter fun r => whoFn s r.who = some f && inside .host r.bus r.len).map (·.id)
  let ops := (s.mem.queue.filter fun o => whoFn s o.who = some f && inside .dpa o.line 64).map (·.id)
  let remotes := (s.hl.outs.filter fun o => o.kind ≠ 3 && whoFn s o.who = some f && inside .dpa o.at_ o.len).map (·.tag)
  let links := ((s.qe.cmds.filter fun p => p.2.f = f && (anyPasid || p.2.pasid = pasid) && p.2.phase = .running).flatMap (fun p => p.2.links)
    ++ (s.gw.partnerLinks.filter fun p => p.1 = f).map (·.2)).dedup
  let bs := (List.range 8).filter fun b => (getBerth s b).st = 3 && bit (getBerth s b).caps 0 && (getBerth s b).grants.any fun c =>
    match mget s.qe.ctxs c with | some x => x.f = f && (anyPasid || space = 1 || x.pasid = pasid) | none => false
  let v : Inv := { v0 with
    reads := reads, ops := ops, remotes := remotes, asks := askedUnder v0 s, peers := peersUnder v0 s, atomics := atomicsUnder v0 s,
    links := links, berths := bs.map fun b => (b, id) }
  let unmarkItem (p : Plan) (it : Item) : Item :=
    if v.killsItem p it then
      match it.st with | .ok .. | .held _ | .planned _ | .remoteWait .. => { it with st := .need } | _ => it
    else it
  let unmark (p : Plan) : Plan := { p with items := p.items.map (unmarkItem p) }
  let ats := match src with | .ats .. => true | _ => false
  let s := dropAhead (fun a => a.pages.any fun p => inside .dpa p.1 4096 || (v0.space = 2 && v0.base < p.1 + 4096 && p.1 < v0.base + v0.size)) s
  let s := { s with gw := { s.gw with partnerLinks := if ats then s.gw.partnerLinks.filter (fun p => p.1 ≠ f) else s.gw.partnerLinks } }
  let s := { s with tu := { s.tu with
    nextId := id + 1, invs := v :: s.tu.invs,
    central := s.tu.central.filter fun x => !v.kills x,
    region := s.tu.region.map fun p => (p.1, p.2.filter fun x => !v.kills x),
    ahead := s.tu.ahead.map fun p => (p.1, p.2.filter fun x => !v.kills x),
    ats := s.tu.ats.map fun q => if v.hits q.f q.pasid 0 q.page 4096 then { q with stale := true } else q,
    walks := s.tu.walks.map fun q => if v.hits q.f none 1 q.page 4096 then { q with stale := true } else q,
    plans := s.tu.plans.map unmark } }
  bs.foldl (fun s b =>
    let s := updBerth b (fun be => { be with invs := (id, s.time.toNat) :: be.invs }) s
    let all_ := anyPasid && size = 2 ^ 64
    let aux := f + (match pasid with | some p => p * 2 ^ 8 + 2 ^ 31 | none => 0) + b2n all_ * 2 ^ 32 + Nat.log2 size * 2 ^ 40
    sendBresa (lowerBerth s b) (bmsg 1 0x13 (id % 4096) 0 0 0 base aux [] false) s) s

/-- Whether berth b was asked by an invalidation and has answered or departed, which completes its own requests too (R378). -/
def invAcked (s : State) (v : Inv) (b : Nat) : Bool :=
  v.berths.any fun x => x.1 = lowerBerth s b && !((getBerth s x.1).invs.any fun i => i.1 = x.2)

/-- Whether step 4 of R139 has ended. -/
def invQuiet (s : State) (v : Inv) : Bool :=
  !(s.gw.reads.any fun r => v.reads.contains r.id) && !(s.mem.queue.any fun o => v.ops.contains o.id)
    && !(v.asks.any fun q => mhas (getBerth s q.1).opens q.2 && !invAcked s v q.1)
    && !(s.hl.ins.any fun i => v.peers.contains (i.req.link, i.req.src, i.req.tag))
    && !(v.atomics.any fun k => (getCmd s k).any fun c => c.old.isNone && c.phase = .running)
    && !(s.hl.outs.any fun o => v.remotes.contains o.tag)
    && v.berths.all fun b => !((getBerth s b.1).invs.any fun i => i.1 = b.2)

/-- Step 6 of R139: the invalidation is answered and waiting lookups proceed. -/
def invAnswer (v : Inv) (s : State) : State :=
  let s := { s with tu := { s.tu with invs := s.tu.invs.filter fun w => w.id ≠ v.id } }
  let took := (s.time.toNat - v.started) * 12 / 5
  let s := setReg .tu 0 0x078 (Nat.max (getReg s .tu 0 0x078) took % 2 ^ 32) (bump .tu 0x074 1 s)
  let s := match v.src with
    | .ats link itag => emit (.invalidateCompletion link itag) s
    | .dinv => raise .tu 2 (setReg .tu 0 0x070 (getReg s .tu 0 0x070 &&& 0x7FFFFFFE) s)
    | _ => s
  retryPlans s

/-- INVALIDATE_COMPLETION: steps 4 to 6 of R139. -/
def invFinish (id : Nat) (s : State) : State :=
  match s.tu.invs.find? fun v => v.id = id with
  | none => s
  | some v =>
    if !invQuiet s v then s
    else
      let others := match v.src with | .ats link _ => v.links.filter (· ≠ link) | _ => []
      if others.isEmpty then (if s.gw.flushes.any fun g => g.inv = some id then s else invAnswer v s)
      else
        let s := others.foldl (fun s l => flushRead l (some id) none s) s
        { s with tu := { s.tu with invs := s.tu.invs.map fun w => if w.id = id then { w with links := [] } else w } }

/-- The range a TU.DINV request names (R153, R154). -/
def dinvRange (s : State) (v : Nat) : Nat × Nat :=
  let n := clampN 12 48 (bits v 23 18)
  let a := getReg s .tu 0 0x068 / 4096 * 4096 + 2 ^ 32 * (getReg s .tu 0 0x06C % 2 ^ 16)
  (a / 2 ^ n * 2 ^ n, 2 ^ n)

/-- A TU.DINV request with control value v. -/
def dinvGo (v : Nat) (s : State) : State :=
  let s := setReg .tu 0 0x070 (getReg s .tu 0 0x070 ||| 0x80000001) s
  let (base, size) := if bit v 17 then (0, 2 ^ 48) else dinvRange s v
  invStart .dinv (bits v 13 8) none true 1 base size s

/-- The invalidation of function f's whole device map that a change of its root brings (R157): it runs beside a TU.DINV, leaves TU.DINV_CTL as
it is and raises no DINV_DONE (DESIGN CHOICE, log entry 113). -/
def rootInv (f : Nat) (s : State) : State := invStart (.root f) f none true 1 0 (2 ^ 48) s

/-! ### Lookahead (R116 to R118) -/

/-- Request translations for pages ahead of a mover: nothing that is held or asked for, within the buffer of 64 and the
lookahead's share of ATS requests. -/
def lookAhead (m f : Nat) (pasid : Option Nat) (cls : Nat) (items : List Item) (s : State) : State :=
  items.foldl (fun s it =>
    let ps := keyPasid it.space pasid
    let held := mgetD s.tu.ahead m []
    let have_ := held ++ mgetD s.tu.region (m / 4) [] ++ s.tu.central
    let busy := s.tu.walks.any (fun w => w.f = f && w.page = it.page && it.space = 1)
      || s.tu.ats.any (fun a => a.f = f && a.pasid = ps && a.page = it.page && it.space = 0)
    let inFlight := (s.tu.walks.filter fun w => w.lookahead = some m).length + (s.tu.ats.filter fun a => a.lookahead = some m).length
    if it.space = 2 || busy || (have_.any fun x => x.covers f ps it.space it.page) || 64 ≤ held.length + inFlight
        || invBlocks s f ps it.space it.page then s
    else if it.space = 1 then
      (if mapLive s f && it.page < 2 ^ 48 then (startWalk (.mover m) f it.page cls (some m) (bump (.tuFn f) 0x04C 1 s)).2 else s)
    else
      let share := Nat.min 480 (bits (getReg s .tu 0 0x044) 24 16)
      let waiting := s.tu.plans.any fun p => p.items.any fun i => i.space = 0 && i.st = .need
      if (fnCfg s f).ats && s.tu.ats.length < 512 && (s.tu.ats.filter fun a => a.lookahead.isSome).length < share && !waiting then
        (startAts f ps it.page (some m) (bump (.tuFn f) 0x04C 1 s)).2
      else s) s

/-- The output a translation held for a mover gives to a page with the rights it needs, where it lies in an outbound window of the function. -/
def aheadOut (m f : Nat) (pasid : Option Nat) (it : Item) (s : State) : Option Nat :=
  let have_ := mgetD s.tu.ahead m [] ++ mgetD s.tu.region (m / 4) [] ++ s.tu.central
  let out : Option Nat :=
    if it.space = 2 then some it.page
    else (have_.find? fun x => x.covers f (keyPasid it.space pasid) it.space it.page && x.kind = .dpa && !(it.rights.lacks x.rights).any).map fun x =>
      x.out + (it.page - x.base)
  out.filter fun o => region s o = 4 && (windowRights s f o).any fun r => !(it.rights.lacks r).any

/-- Send PLANs for the remote pages of a coming tile whose translations are held, one to each hub, unless one is out already (R415). -/
def planAhead (m f : Nat) (pasid : Option Nat) (items : List Item) (s : State) : State :=
  let outs := items.filterMap fun it => (aheadOut m f pasid it s).map fun o => (o, it.rights.code)
  ((outs.map fun o => outHub s o.1).dedup).foldl (fun s w =>
    let mine := outs.filter fun o => outHub s o.1 = w
    if (plannedAhead s (.mover m) w mine).isSome then s
    else match sendPlan (.mover m) w mine s with
      | (some t, s) => { s with hl := { s.hl with ahead := { m := m, tag := t, hub := w, pages := mine } :: s.hl.ahead } }
      | (none, s) => s) s

/-! ### Access counters and the migration ring (R145 to R150) -/

/-- Write a hot-page record, or discard it, counted in MIG_DROP, when the ring is full (R147 to R150). While TU.MIG_CFG.EN is clear there is no
record and no drop; the ring is full at 2^k − 1 records; one bound for a host that is detached is discarded (DESIGN CHOICE, log entry 113). -/
def hotRecord (granule cls count : Nat) (writes : Bool) (s : State) : State :=
  let cfg := getReg s .tu 0 0x04C
  let k := clampN 8 16 (bits cfg 20 16)
  let head := getReg s .tu 0 0x058 % 2 ^ k
  let tail := getReg s .tu 0 0x05C % 2 ^ k
  if !bit cfg 31 then s
  else if (tail + 1) % 2 ^ k = head || (!bit cfg 30 && s.gw.detached) then raise .tu 1 (bump .tu 0x060 1 s)
  else
    let base := getReg s .tu 0 0x050 / 4096 * 4096 + 2 ^ 32 * getReg s .tu 0 0x054
    let bs := leBytes 8 (granule * 65536) ++ leBytes 1 cls ++ leBytes 1 (b2n (phaseOf s.tu.migWritten k) * 128 + b2n writes)
      ++ leBytes 2 count ++ leBytes 4 (s.time.toNat / 2 ^ 10)
    let a := base + tail * 16
    let s := if bit cfg 30 then
        (if reachable s a then issueWrite a 0 false ⟨.hostPf, 0⟩ (bits (getReg s .ms 0 0x090) 26 24) (asPBytes a bs) .migration s
         else captureReserved .migration 0 a s)
      else hostWrite (plainTag 0) none a bs false s
    let s := setReg .tu 0 0x05C ((tail + 1) % 2 ^ k) { s with tu := { s.tu with migWritten := s.tu.migWritten + 1 } }
    let s := raise .tu 0 s
    if head = tail then
      let v := bits cfg 10 0
      msixOf (if bit cfg 30 then none else some (steer s a)) 0 v s
    else s

/-- Count lines of one class at a granule (R145 to R147). The tracker is 8-way by granule number modulo 4,096. -/
def acCount (a cls lines : Nat) (wr : Bool) (s : State) : State :=
  let cfg := getReg s .tu 0 0x048
  if !bit cfg 31 then s
  else
    let g := a / 65536
    let old : Granule := match s.tu.granules.find? fun x => x.granule = g with
      | some x => x
      | none => { granule := g, counts := List.replicate 10 0, writes := List.replicate 10 0 }
    let set := s.tu.granules.filter fun x => x.granule ≠ g && x.granule % 4096 = g % 4096
    let peak (x : Granule) : Nat := x.counts.foldl Nat.max 0
    let lows := set.filter fun x => set.all fun y => peak x ≤ peak y
    -- of several entries with the lowest peak the one that goes is free
    let (low, s) : Option Granule × State := if set.length < 8 then (none, s) else let (n, s) := draw s; (lows[(Config.freeWord n).toNat % zero1 lows.length]?, s)
    let keep := s.tu.granules.filter fun x => x.granule ≠ g && some x ≠ low
    let n := Nat.min 65535 (old.counts.getD cls 0 + lines)
    let w := Nat.min 65535 (old.writes.getD cls 0 + if wr then lines else 0)
    let hot := zero1 (bits cfg 15 0) ≤ n
    let new : Granule := { old with counts := old.counts.set cls (if hot then 0 else n), writes := old.writes.set cls (if hot then 0 else w) }
    let s := { s with tu := { s.tu with granules := new :: keep } }
    if hot then hotRecord g cls n (n < 2 * w) s else s

/-- Zero every counter of the granule with DPA [47:16] = v (R147). -/
def acClear (v : Nat) (s : State) : State :=
  let zero (x : Granule) : Granule := if x.granule = v then { x with counts := List.replicate 10 0, writes := List.replicate 10 0 } else x
  { s with tu := { s.tu with granules := s.tu.granules.map zero } }

/-- Halve every counter (R146); with DECAY_MS 0 the counters never halve. -/
def acHalve (s : State) : State :=
  if bits (getReg s .tu 0 0x048) 23 16 = 0 then s
  else
    let half (x : Granule) : Granule := { x with counts := x.counts.map (· / 2), writes := x.writes.map (· / 2) }
    { s with tu := { s.tu with granules := s.tu.granules.map half } }

end Sys2Proof.Machine
end

