-- ==== Sys2Proof/Machine/TileIo.lean ====
section
/-! DEFINITION. How a command reads and writes through its translated pages: host memory, device memory and remote windows
alike; bounce units (R470 to R472); the effect of host loss on a command that needs the host (R451). -/

namespace Sys2Proof.Machine

/-- A run of input bytes a tile reads: its side (0 source, 1 auxiliary, 2 present destination; 4 to 6 their tag records). -/
structure Seg where
  side : Nat
  space : Nat
  addr : Nat
  len : Nat
  deriving DecidableEq, Repr

/-- The buffer key of an input address of a side. -/
def sideAt (side a : Nat) : Nat := side * 2 ^ 64 + a

/-- The bytes of a side from an input address on, as they stand in a buffer; a byte not there reads zero. -/
def bufBytes (buf : List PByte) (side a n : Nat) : List PByte :=
  (List.range n).map fun i => (buf.find? fun b => b.at_ = sideAt side (a + i)).getD { at_ := sideAt side (a + i), val := 0 }

/-- The number little-endian bytes of a buffer stand for. -/
def pnum (bs : List PByte) : Nat := leNat (bs.map (·.val))

/-- The first poison among bytes. -/
def ppoison (bs : List PByte) : Option Nat := bs.findSome? (·.poison)

/-! ### Bounce buffers -/

/-- The ACTIVE bounce slot of a context (R470). -/
def bounceOf (s : State) (f ctx : Nat) : Option (Nat × Slot) :=
  s.sp.slots.find? fun p => p.2.st = 1 && p.2.bounce && p.2.f = f && p.2.ctx = ctx

/-- Whether an access lies in a bounce region (R471). -/
def Slot.holds (b : Slot) (a n : Nat) : Bool := b.bufBase ≤ a && a + n ≤ b.bufBase + b.bufLen

/-- The unit of an address in a bounce region. -/
def Slot.unit (b : Slot) (a : Nat) : Nat := (a - b.bufBase) / 4096

/-- Widen a read to whole units with their tag records (R471). -/
def widen (b : Option (Nat × Slot)) (g : Seg) : List Seg :=
  match b with
  | some (_, b) =>
    if g.space = 0 then (pieces 4096 g.addr g.len).flatMap fun p =>
      [⟨g.side, 0, p.1 / 4096 * 4096, 4096⟩, ⟨g.side + 4, 0, b.tagBase + 32 * b.unit p.1, 32⟩]
    else [g]
  | none => [g]

/-- Note a touched range in a plan. A range of a bounce context in host memory must lie in its region, and brings the pages of
its tag records with it (R471). -/
def touchIo (b : Option (Nat × Slot)) (space a n : Nat) (r : Rights) (items : List Item) : List Item :=
  match b with
  | some (_, b) =>
    if space = 0 then
      if b.holds a n then
        let r := if r.w then { r with r := true } else r
        (pieces 4096 a n).foldl (fun items p => touch 0 (b.tagBase + 32 * b.unit p.1) 32 r items) (touch 0 a n r items)
      else items ++ [{ space := 0, page := a / 4096 * 4096, first := a, rights := r, st := .bad .forced }]
    else touch space a n r items
  | none => touch space a n r items

/-- Additional data of a unit's seal, R470. -/
def unitAad (b : Slot) (u : Nat) : List Byte := leBytes 2 b.ctx ++ leBytes 8 u ++ leBytes 8 b.bufLen

/-- n bytes of a list, zeros beyond it. -/
def fitBytes (n : Nat) (l : List Byte) : List Byte := (l ++ List.replicate (n - l.length) 0).take n

/-- Whose access opens a unit: command k's function, or the partner whose request the number stands for (log entry 27). -/
def unitOrigin (s : State) (k : Nat) : Origin :=
  match getCmd s k with
  | some c => fnOrigin c.f
  | none => ⟨.partner, lowerBerth s ((k - 2 ^ 62) % 8)⟩

/-- Open the units of one side of a buffer: plaintext in place, or poison where authentication fails (R472); and the first
failed unit's base. -/
def openUnits (k side : Nat) (b : Slot) (units : List Nat) (buf : List PByte) (s : State) : List PByte × State :=
  units.foldl (fun (a : List PByte × State) u =>
    let base := b.bufBase + 4096 * u
    let cipher := bufBytes a.1 side base 4096
    let rec_ := bufBytes a.1 (side + 4) (b.tagBase + 32 * u) 32
    let rest := a.1.filter fun x => !(sideAt side base ≤ x.at_ && x.at_ < sideAt side base + 4096)
    let put (bs : List Byte) (p : Option Nat) : List PByte := bs.zipIdx.map fun x => { at_ := sideAt side base + x.2, val := x.1, poison := p }
    let plain := if pnum ((rec_.drop 12).take 4) ≠ 0 then none
      else Config.gcmOpen b.key (pnum (rec_.take 12)) (unitAad b u) (cipher.map (·.val)) (BitVec.ofNat 128 (pnum (rec_.drop 16)))
    match ppoison (cipher ++ rec_) with
    | some d => (put (cipher.map (·.val)) (some d) ++ rest, notePoison k base d a.2)
    | none => match plain with
      | some pl => (put (fitBytes 4096 pl) none ++ rest, a.2)
      | none =>
        let s := raise .sp 1 (capErr .sp 3 (unitOrigin a.2 k) (bump .sp 0x064 1 a.2))
        (put (cipher.map (·.val)) (some 0) ++ rest, notePoison k base 0 s)) (buf, s)

/-- The units of the segments a side reads. -/
def segUnits (b : Slot) (side : Nat) (segs : List Seg) : List Nat :=
  ((segs.filter fun g => g.side = side && g.space = 0).flatMap fun g => (pieces 4096 g.addr g.len).map fun p => b.unit p.1).dedup

/-- Open every unit that a list of reads brought in. -/
def openAll (k : Nat) (bn : Option (Nat × Slot)) (segs : List Seg) (buf : List PByte) (s : State) : List PByte × State :=
  match bn with
  | none => (buf, s)
  | some (_, b) => [0, 1, 2].foldl (fun (a : List PByte × State) side => openUnits k side b (segUnits b side segs) a.1 a.2) (buf, s)

/-! ### Host loss -/

/-- A command ends HOST_DETACHED and is counted (R451): a drop-policy command with what it had committed at detection. -/
def endDetached (k : Nat) (s : State) : State :=
  match getCmd s k with
  | some c => finish k stDetached 0 (if c.drop then c.atDetach.getD c.done else c.done) 0 (bump .gw 0x064 1 s)
  | none => s

/-- Steps 4 and 6 of R451 for a command that needs host memory: none when the host is there; a hold-policy command waits until
GW.DETACH_HOLD has passed, a drop-policy command completes HOST_DETACHED. -/
def hostLoss (k : Nat) (s : State) : Option State :=
  if !s.gw.detached then none
  else match getCmd s k with
    | some c =>
      if c.drop || s.gw.heldOver then some (endDetached k s)
      else some (if c.waitsHost then s else updCmd k (fun c => { c with waitsHost := true }) (bump .gw 0x060 1 s))
    | none => some s

/-! ### Reads -/

/-- What issuing a tile's reads came to. -/
inductive Io where
  | waits (s : State)
  | lost (s : State)
  | done (bs : List PByte) (s : State)

/-- The mark of a command's access to host memory (R105). -/
def cmdTag (s : State) (k f : Nat) : HostTag := svaTag s f ((getCmd s k).bind (·.pasid))

/-- Issue the reads of translated segments for party w of command k: device memory at once when no line has to be recalled
(R375) and the party's limit admits it (R345), host memory and remote windows by requests that answer later. -/
def issueSegs (w : Who) (k f tenant cls : Nat) (items : List Item) (segs : List Seg) (s : State) : Io :=
  let ps := segs.flatMap fun g => (pieces 4096 g.addr g.len).filterMap fun p =>
    (outOf items g.space p.1).map fun o => (sideAt g.side p.1, p.2, o.1, o.2)
  let lines := ps.flatMap fun p => if p.2.2.2 = .dpa && region s p.2.2.1 ≠ 4 then (pieces 64 p.2.2.1 p.2.1).map (fun q => q.1 / 64 * 64) else []
  if sourceFull s (whoSource s w) cls lines then .waits s else
  match recallLines lines.dedup s with
  | (false, s) => .waits s
  | (true, s) =>
    ps.foldl (fun (a : Io) p =>
      match a with
      | .done bs s =>
        if p.2.2.2 = .host then .done bs (hostRead (cmdTag s k f) w p.1 p.2.2.1 p.2.1 s)
        else if region s p.2.2.1 = 4 then
          (pieces 256 p.2.2.1 p.2.1).foldl (fun (a : Io) q => match a with
            | .done bs s => match sendRemote w 0 (p.1 + (q.1 - p.2.2.1)) q.2 q.1 (.read q.2) s with
              | (some _, s) => .done bs s
              | (none, s) => .lost s
            | a => a) (.done bs s)
        else
          let s := if tagPasses s p.2.2.1 tenant false then s else denyCmd k .read s
          let (r, s) := readNow p.2.2.1 p.2.1 tenant (fnOrigin f) cls s
          .done (bs ++ r.zipIdx.map fun x => { x.1 with at_ := p.1 + x.2 }) s
      | a => a) (.done [] s)

/-- Whether a party still waits for bytes it asked for. -/
def ioOpen (s : State) (w : Who) : Bool := reading s w || remoteOpen s w

/-! ### Writes -/

/-- Cut bytes in rising address order into runs of one 256-byte block and one poison mark; a line any poisoned byte reaches is
poisoned whole (R229). -/
def runsOf (bs : List PByte) : List (Nat × List PByte) :=
  let bad := (bs.filterMap fun b => b.poison.map fun d => (b.at_ / 64, d)).dedup
  let mark (b : PByte) : PByte := match b.poison with
    | some _ => b
    | none => { b with poison := (bad.find? fun x => x.1 = b.at_ / 64).map (·.2) }
  (bs.foldl (fun (a : List (Nat × List PByte)) b =>
    let b := mark b
    match a with
    | (st, l) :: t =>
      if b.at_ = st + l.length && b.at_ / 256 = st / 256 && (l.head?.bind (·.poison)).isSome = b.poison.isSome then (st, l ++ [b]) :: t
      else (b.at_, [b]) :: a
    | [] => [(b.at_, [b])]) []).reverse

/-- Store one run for party w of command k at its translated place. False when no route reaches the window. -/
def storeRun (w : Who) (k f tenant cls : Nat) (o : Nat × OutKind) (bs : List PByte) (s : State) : Bool × State :=
  match o.2 with
  | .host => (true, hostWrite (cmdTag s k f) (some k) o.1 (bs.map (·.val)) (ppoison bs).isSome s)
  | .dpa =>
    if region s o.1 = 4 then
      match sendRemote w 1 o.1 bs.length o.1 (.write (bs.map (·.val)) (ppoison bs).isSome) s with
      | (some tag, s) => (true, updCmd k (fun c => { c with remote := tag :: c.remote }) s)
      | (none, s) => (false, s)
    else (true, issueWrite o.1 tenant false (fnOrigin f) cls bs (.cmd k) s)

/-- Store bytes, in rising address order, of one page of a space. -/
def storeBytes (w : Who) (k f tenant cls : Nat) (items : List Item) (space : Nat) (bs : List PByte) (s : State) : Bool × State :=
  (runsOf bs).foldl (fun (a : Bool × State) r =>
    if !a.1 then a
    else match outOf items space r.1 with
      | some o => storeRun w k f tenant cls o r.2 a.2
      | none => a) (true, s)

/-- Bytes by address, a later one in place of an earlier (R222). -/
def laterWins (bs : List PByte) : NMap PByte := bs.foldl (fun m b => mset m b.at_ b) []

/-- Bytes merged over the present plaintext of unit u and sealed under the slot's next counter: the ciphertext and the tag record (R470,
R471). -/
def sealUnit (slot : Nat) (b : Slot) (u : Nat) (old bs : List PByte) (s : State) : (List PByte × List PByte) × State :=
  let base := b.bufBase + 4096 * u
  let m := laterWins (((bufBytes old 2 base 4096).map fun y => { y with at_ := y.at_ - sideAt 2 0 }) ++ bs)
  let plain := (List.range 4096).map fun i => (mgetD m (base + i) { at_ := base + i, val := 0 })
  let nonce := 2 ^ 95 + b.counter % 2 ^ 95
  let (c, tag) := Config.gcmSeal b.key nonce (unitAad b u) (plain.map (·.val))
  let cipher := (fitBytes 4096 c).zipIdx.map fun y => { at_ := base + y.2, val := y.1, poison := (plain[y.2]?).bind (·.poison) }
  let rec_ := leBytes 12 nonce ++ leBytes 4 0 ++ leBytes 16 tag.toNat
  ((cipher, asPBytes (b.tagBase + 32 * u) rec_),
    { s with sp := { s.sp with slots := mupd s.sp.slots slot fun b => { b with counter := b.counter + 1 } } })

/-- Store bytes of one page of a bounce unit: the unit's ciphertext and its tag record are written (R470, R471). -/
def storeUnit (w : Who) (k f tenant cls : Nat) (items : List Item) (slot : Nat) (b : Slot) (old : List PByte) (bs : List PByte) (s : State) :
    Bool × State :=
  match bs with
  | [] => (true, s)
  | x :: _ =>
    let ((cipher, rec_), s) := sealUnit slot b (b.unit x.at_) old bs s
    match storeBytes w k f tenant cls items 0 cipher s with
    | (false, s) => (false, s)
    | (true, s) => storeBytes w k f tenant cls items 0 rec_ s

/-- Store one page's bytes of a command, through its bounce slot where it has one. -/
def storePage (w : Who) (k f tenant cls : Nat) (bn : Option (Nat × Slot)) (items : List Item) (space : Nat) (old bs : List PByte) (s : State) :
    Bool × State :=
  match bn with
  | some (n, b) => if space = 0 then storeUnit w k f tenant cls items n b old bs s else storeBytes w k f tenant cls items space bs s
  | none => storeBytes w k f tenant cls items space bs s

/-- What a stored page leaves in the plaintext of its bounce units, over which a later piece is merged (R471). -/
def unitBytes (bn : Option (Nat × Slot)) (space : Nat) (bs : List PByte) : List PByte :=
  if bn.isSome && space = 0 then bs.map fun b => { b with at_ := sideAt 2 b.at_ } else []

/-- Bytes that a command both reads and writes hold values the spec leaves undefined (R231, R316): free values. -/
def freeWhere (p : Nat → Bool) (bs : List PByte) (s : State) : List PByte × State :=
  if bs.any fun b => p b.at_ then
    bs.foldr (fun b (a : List PByte × State) =>
      if p b.at_ then let (n, s) := draw a.2; ({ b with val := Config.freeByte n } :: a.1, s) else (b :: a.1, a.2)) ([], s)
  else (bs, s)

/-- The bytes of a list by page, in the order in which their pages first occur. -/
def byPage (bs : List PByte) : List (List PByte) :=
  let m := (laterWins bs).map (·.2)
  ((bs.map fun b => b.at_ / 4096).dedup).map fun p => m.filter fun b => b.at_ / 4096 = p

end Sys2Proof.Machine
end

