-- ==== Sys2Proof/Machine/Movers.lean ====
section
/-! DEFINITION. The Gantry movers: tiles and elements (R204 to R209), transforms (R213 to R226), tile plans and the steps a mover
takes (R134 to R137, R221, R228 to R232). A mover's reads are taken by MOVER_TILE and a tile's result is written by the row
of its opcode, one page at a time, so that an invalidation can fall between two pages of a tile (R144). -/

namespace Sys2Proof.Machine

/-! ### Tiles and elements -/

/-- The block of dimension 0, the block of dimension 1 and i2 to i4 of tile t, R208. -/
def tilePos (raw : List Byte) (t : Nat) : Nat × Nat × Nat × Nat × Nat :=
  let n0 := cdiv (mvCount raw 0) (2 ^ mvT0 raw)
  let n1 := cdiv (mvCount raw 1) (2 ^ mvT1 raw)
  let r := t / (n0 * n1)
  (t % n0, t / n0 % n1, r % mvCount raw 2, r / mvCount raw 2 % mvCount raw 3, r / mvCount raw 2 / mvCount raw 3)

/-- The values of i0 in tile t, clipped to COUNT0 (R207). -/
def tileI0 (raw : List Byte) (t : Nat) : List Nat :=
  let b := (tilePos raw t).1 * 2 ^ mvT0 raw
  List.range' b (Nat.min (2 ^ mvT0 raw) (mvCount raw 0 - b))

/-- The values of i1 in tile t. -/
def tileI1 (raw : List Byte) (t : Nat) : List Nat :=
  let b := (tilePos raw t).2.1 * 2 ^ mvT1 raw
  List.range' b (Nat.min (2 ^ mvT1 raw) (mvCount raw 1 - b))

/-- The row address of a side for row index j (i1, or i0 on a transposed destination) and i2 to i4, R204, R205. -/
def rowAddr (raw : List Byte) (dst : Bool) (j i2 i3 i4 : Nat) : Int :=
  let st (k : Nat) : Int := if dst then mvDstStride raw k else mvSrcStride raw k
  (if dst then (fld raw 32 8 : Int) else (fld raw 24 8 : Int)) + j * st 1 + i2 * st 2 + i3 * st 3 + i4 * st 4

/-- Width in bits of a side's format. -/
def sideW (raw : List Byte) (dst : Bool) : Nat := fmtWidth (if dst then mvDstFmt raw else mvSrcFmt raw)

/-- One element of a tile: its coordinates, the bit addresses of its source and its destination (none where a null index
leaves that side out), the poison of the index entry that chose it. -/
structure Elem where
  i0 : Nat
  i1 : Nat
  src : Option Nat
  dst : Option Nat
  poison : Option Nat := none
  deriving DecidableEq, Repr

/-- An index entry's value, none for a null one, and its poison (R218, R220, R560). -/
def idxEntry (raw : List Byte) (aux : List PByte) (j : Nat) : Option Nat × Option Nat :=
  let w := mvIdxWidth raw
  let bs := bufBytes aux 1 (mvAux raw + j * w) w
  (if pnum bs = 2 ^ (8 * w) - 1 then none else some (pnum bs), ppoison bs)

/-- Whether an opcode chooses rows by an index list. -/
def mvIndexed (op : Nat) : Bool := op = 0x14 || op = 0x15

/-- The row index of a side for i1, R219. -/
def rowIndex (op : Nat) (raw : List Byte) (aux : List PByte) (dst : Bool) (i1 : Nat) : Option Nat :=
  if (op = 0x14 && !dst) || (op = 0x15 && dst) then (idxEntry raw aux i1).1 else some i1

/-- The elements of tile t in element order. A COMPRESS has no element destinations and a DECOMPRESS no element sources. -/
def tileElems (op : Nat) (raw : List Byte) (aux : List PByte) (t : Nat) : List Elem :=
  let (_, _, i2, i3, i4) := tilePos raw t
  (tileI1 raw t).flatMap fun i1 =>
    let srow := if op = 0x17 then none else (rowIndex op raw aux false i1).map fun j => (rowAddr raw false j i2 i3 i4).toNat
    let drow := if op = 0x16 then none else (rowIndex op raw aux true i1).map fun j => (rowAddr raw true j i2 i3 i4).toNat
    let p := if mvIndexed op then (idxEntry raw aux i1).2 else none
    (tileI0 raw t).map fun i0 =>
      { i0 := i0, i1 := i1, poison := p, src := srow.map fun a => a * 8 + i0 * sideW raw false,
        dst := if mvTrans raw then some ((rowAddr raw true i0 i2 i3 i4).toNat * 8 + i1 * sideW raw true)
               else drow.map fun a => a * 8 + i0 * sideW raw true }

/-- First byte and byte count that w bits at a bit address touch. -/
def bitSpan (at_ w : Nat) : Nat × Nat := (at_ / 8, (at_ + w + 7) / 8 - at_ / 8)

/-- The scale block of an element (R214): of the destination for QUANTISE, of the source for DEQUANTISE. -/
def scaleBlock (op : Nat) (raw : List Byte) (t : Nat) (e : Elem) : Nat :=
  let (_, _, i2, i3, i4) := tilePos raw t
  let tr := op = 0x12 && mvTrans raw
  let (j0, j1) := if tr then (e.i1, e.i0) else (e.i0, e.i1)
  let (c0, c1) := if tr then (mvCount raw 1, mvCount raw 0) else (mvCount raw 0, mvCount raw 1)
  (((i4 * mvCount raw 3 + i3) * mvCount raw 2 + i2) * c1 + j1) * cdiv c0 32 + j0 / 32

/-- Whether a row address of an indexed side leaves 0 to 2^64 − 1 (R221). -/
def rowsOut (op : Nat) (raw : List Byte) (aux : List PByte) (t : Nat) : Bool :=
  mvIndexed op &&
  let (_, _, i2, i3, i4) := tilePos raw t
  let dst := op = 0x15
  (tileI1 raw t).any fun i1 => match rowIndex op raw aux dst i1 with
    | none => false
    | some j =>
      let a := rowAddr raw dst j i2 i3 i4
      let last := a + ((((tileI0 raw t).getLast?.getD 0 + 1) * sideW raw dst + 7) / 8 : Nat)
      decide (a < 0) || decide (2 ^ 64 < last)

/-- The first element of the tile whose row lies outside. -/
def firstRowOut (op : Nat) (raw : List Byte) (aux : List PByte) (t : Nat) : Nat :=
  let (_, _, i2, i3, i4) := tilePos raw t
  let dst := op = 0x15
  (((tileI1 raw t).filterMap fun i1 => match rowIndex op raw aux dst i1 with
    | none => none
    | some j =>
      let a := rowAddr raw dst j i2 i3 i4
      let last := a + ((((tileI0 raw t).getLast?.getD 0 + 1) * sideW raw dst + 7) / 8 : Nat)
      if a < 0 || 2 ^ 64 < last then some ((a + ((tileI0 raw t).head?.getD 0 * sideW raw dst / 8 : Nat)) % (2 ^ 64 : Int)).toNat else none).head?).getD 0

/-! ### Plans and reads -/

/-- Rights for a read. -/
def rdRights : Rights := ⟨true, false, false⟩
/-- Rights for a write. -/
def wrRights : Rights := ⟨false, true, false⟩

/-- Whether an opcode reads auxiliary entries before it plans a tile: an index list or a length table. -/
def hasAux (op : Nat) : Bool := op = 0x14 || op = 0x15 || op = 0x17

/-- The auxiliary entries of tile t. -/
def auxSegs (op : Nat) (raw : List Byte) (t : Nat) : List Seg :=
  let sp := mvSpace raw 2
  if op = 0x17 then [⟨1, sp, mvAux raw + 4 * t, 4⟩]
  else (tileI1 raw t).map fun i1 => ⟨1, sp, mvAux raw + i1 * mvIdxWidth raw, mvIdxWidth raw⟩

/-- The length DECOMPRESS reads of tile t's slot, R225. -/
def slotLen (raw : List Byte) (aux : List PByte) (t : Nat) : Nat := Nat.min (pnum (bufBytes aux 1 (mvAux raw + 4 * t) 4)) (mvSlot raw)

/-- The pages of the auxiliary entries tile t reads before its other pages are planned (R221, R225). -/
def auxItems (bn : Option (Nat × Slot)) (op : Nat) (raw : List Byte) (t : Nat) : List Item :=
  if hasAux op then (auxSegs op raw t).foldl (fun l g => touchIo bn g.space g.addr g.len rdRights l) [] else []

/-- The pages of tile t with the elements es and len bytes of a DECOMPRESS's slot, in element order, after its auxiliary entries' pages (R134,
R217, R221, R224, R225). -/
def itemsOf (bn : Option (Nat × Slot)) (op : Nat) (raw : List Byte) (t len : Nat) (es : List Elem) : List Item :=
  let sp := mvSpace raw 0; let dp := mvSpace raw 1; let ap := mvSpace raw 2
  let own := auxItems bn op raw t
  let pre := if op = 0x17 then
      (pieces 4096 (fld raw 24 8 + t * mvSlot raw) len).foldl (fun l p => touchIo bn sp p.1 p.2 rdRights l) own
    else own
  let mid := es.foldl (fun l e =>
    let l := match e.src with | some a => let b := bitSpan a (sideW raw false); touchIo bn sp b.1 b.2 rdRights l | none => l
    let l := if op = 0x12 || op = 0x13 then
        touchIo bn ap (mvAux raw + scaleBlock op raw t e) 1 (if op = 0x12 then wrRights else rdRights) l else l
    match e.dst with
    | some a => let b := bitSpan a (sideW raw true); touchIo bn dp b.1 b.2 (if op = 0x18 then ⟨true, true, false⟩ else wrRights) l
    | none => l) pre
  if op = 0x16 then
    let l := (pieces 4096 (fld raw 32 8 + t * mvSlot raw) (mvSlot raw)).foldl (fun l p => touchIo bn dp p.1 p.2 wrRights l) mid
    touchIo bn ap (mvAux raw + 4 * t) 4 wrRights l
  else mid

/-- The pages tile t touches once its auxiliary entries are read. -/
def tileItems (bn : Option (Nat × Slot)) (op : Nat) (raw : List Byte) (aux : List PByte) (t : Nat) : List Item :=
  itemsOf bn op raw t (slotLen raw aux t) (tileElems op raw aux t)

/-- The pages of tile t that are known before its auxiliary entries are read: for a GATHER or a SCATTER all but those its index chooses, for a
DECOMPRESS its whole slot (R116, R118). -/
def aheadItems (bn : Option (Nat × Slot)) (op : Nat) (raw : List Byte) (t : Nat) : List Item :=
  itemsOf bn op raw t (mvSlot raw) ((tileElems op raw [] t).map fun e =>
    if op = 0x14 then { e with src := none } else if op = 0x15 then { e with dst := none } else e)

/-- Contiguous runs of a list of byte ranges of one side. -/
def mergeSegs (l : List Seg) : List Seg :=
  (l.foldl (fun (a : List Seg) g => match a with
    | h :: t => if h.side = g.side && h.space = g.space && h.addr ≤ g.addr && g.addr ≤ h.addr + h.len then
        { h with len := Nat.max h.len (g.addr + g.len - h.addr) } :: t else g :: a
    | [] => [g]) []).reverse

/-- Whether a page of a plan is host memory. -/
def isHost (items : List Item) (space a : Nat) : Bool := match outOf items space a with | some (_, .host) => true | _ => false

/-- Whether one home can act on bytes of two pages of a space: both in this hub's memory, or one after the other in a remote aperture. -/
def oneHome (items : List Item) (space a b : Nat) : Bool :=
  match outOf items space (a / 4096 * 4096), outOf items space (b / 4096 * 4096) with
  | some (o, .dpa), some (p, .dpa) => (o < 2 ^ 47 && p < 2 ^ 47) || (2 ^ 47 ≤ o && p = o + 4096)
  | _, _ => false

/-- Whether an ACCUMULATE's destination element is read by the mover, added and written: in host memory (R227), or where its bytes lie in two
pages that no one home holds (DESIGN CHOICE, log entry 64). -/
def addsHere (raw : List Byte) (items : List Item) (d : Nat) : Bool :=
  let a := d / 8
  let b := (d + sideW raw true - 1) / 8
  isHost items (mvSpace raw 1) a || (a / 4096 ≠ b / 4096 && !oneHome items (mvSpace raw 1) a b)

/-- The byte ranges a tile reads: sources, scales, slots, and for ACCUMULATE the present destination that the mover adds to; for a
bounce context the destination units that are written in part. -/
def tileSegs (bn : Option (Nat × Slot)) (op : Nat) (raw : List Byte) (aux : List PByte) (t : Nat) (items : List Item) : List Seg :=
  let sp := mvSpace raw 0; let dp := mvSpace raw 1; let ap := mvSpace raw 2
  let es := tileElems op raw aux t
  let src := es.filterMap fun e => e.src.map fun a => let b := bitSpan a (sideW raw false); (⟨0, sp, b.1, b.2⟩ : Seg)
  let slot : List Seg := if op = 0x17 && slotLen raw aux t ≠ 0 then [⟨0, sp, fld raw 24 8 + t * mvSlot raw, slotLen raw aux t⟩] else []
  let scales : List Seg := if op = 0x13 then es.map fun e => ⟨1, ap, mvAux raw + scaleBlock op raw t e, 1⟩ else []
  let old : List Seg := if op = 0x18 then es.filterMap fun e => e.dst.bind fun a =>
      let b := bitSpan a (sideW raw true)
      if addsHere raw items a then some ⟨2, dp, b.1, b.2⟩ else none
    else []
  let units : List Seg := if bn.isSome then
      (if dp = 0 then es.filterMap fun e => e.dst.map fun a => ⟨2, 0, a / 8, 1⟩ else [])
      ++ (if op = 0x16 && dp = 0 then [⟨2, 0, fld raw 32 8 + t * mvSlot raw, mvSlot raw⟩] else [])
      ++ (if op = 0x12 && ap = 0 then es.map fun e => ⟨2, 0, mvAux raw + scaleBlock op raw t e, 1⟩ else [])
      ++ (if op = 0x16 && ap = 0 then [⟨2, 0, mvAux raw + 4 * t, 4⟩] else [])
    else []
  ((mergeSegs (src ++ slot ++ scales ++ old ++ units)).flatMap (widen bn)).dedup

/-! ### Transforms -/

/-- The bits of an element in a buffer, and their poison. -/
def elemBits (buf : List PByte) (side at_ w : Nat) : Nat × Option Nat :=
  let b := bitSpan at_ w
  let bs := bufBytes buf side b.1 b.2
  (pnum bs / 2 ^ (at_ % 8) % 2 ^ w, ppoison bs)

/-- CONVERT of one element, R213. -/
def convertElem (raw : List Byte) (scaled : Bool) (n : Nat) (rd : Rnd) : Nat :=
  let v := exactValue (fmtOf (mvSrcFmt raw)) n
  let v := if scaled then
      Num.mul (f32 (to32 (Num.add false v (f32 (BitVec.ofNat 32 (fld raw 100 4)))))) (f32 (BitVec.ofNat 32 (fld raw 96 4)))
    else v
  roundTo (fmtOf (mvDstFmt raw)) v rd (mvSat raw)

/-- The rounding of an element, with the generator's coordinates of R202. -/
def elemRnd (raw : List Byte) (t : Nat) (e : Elem) : Rnd :=
  let (_, _, i2, i3, i4) := tilePos raw t
  mkRnd (mvRound raw) (fld raw 20 4) [e.i0, e.i1, i2, i3, i4]

/-- The value of one element of COPY, CONVERT, DEQUANTISE, GATHER or SCATTER at its destination, and its poison. -/
def elemValue (op : Nat) (raw : List Byte) (t : Nat) (buf : List PByte) (e : Elem) : Nat × Option Nat :=
  match e.src with
  | none => (0, e.poison)
  | some a =>
    let (n, p) := elemBits buf 0 a (sideW raw false)
    let p := match p with | some d => some d | none => e.poison
    let rd := elemRnd raw t e
    if op = 0x10 then (n, p)
    else if op = 0x13 then
      let sc := bufBytes buf 1 (mvAux raw + scaleBlock op raw t e) 1
      (roundTo (fmtOf (mvDstFmt raw)) (mxValue (mvSrcFmt raw) (pnum sc) n) rd (mvSat raw), match p with | some d => some d | none => ppoison sc)
    else (convertElem raw (op = 0x11 && bit (fld raw 55 1) 0) n rd, p)

/-- Place w bits at a bit address into a table of bytes: other bits of a byte begin as zero, a later element's bits take the place of an
earlier's, and beyond the last element of a row the byte's bits are zero (R206, R222). -/
def putBits (last : Bool) (m : NMap PByte) (at_ w n : Nat) (p : Option Nat) : NMap PByte :=
  let b := bitSpan at_ w
  (List.range b.2).foldl (fun m i =>
    let a := b.1 + i
    let old := mgetD m a { at_ := a, val := 0 }
    let lo := if i = 0 then at_ % 8 else 0
    let hi := Nat.min 8 (at_ + w - 8 * a)
    let part := if i = 0 then n % 2 ^ (hi - lo) else n / 2 ^ (8 * i - at_ % 8) % 2 ^ hi
    let v := (if last then 0 else old.val.toNat - old.val.toNat % 2 ^ hi) + old.val.toNat % 2 ^ lo + part * 2 ^ lo
    mset m a { at_ := a, val := BitVec.ofNat 8 v, poison := match old.poison with | some d => some d | none => p }) m

/-- Whether an element is the last of its destination row. -/
def rowEnds (raw : List Byte) (e : Elem) : Bool := if mvTrans raw then e.i1 + 1 = mvCount raw 1 else e.i0 + 1 = mvCount raw 0

/-- QUANTISE of a tile (R215): the element bytes and the scale bytes. -/
def quantiseTile (raw : List Byte) (t : Nat) (buf : List PByte) (es : List Elem) : List PByte × List PByte :=
  let f := mvDstFmt raw
  let blocks := (es.map (scaleBlock 0x12 raw t)).dedup
  let r := blocks.foldl (fun (a : NMap PByte × List PByte) q =>
    let mine := es.filter fun e => scaleBlock 0x12 raw t e = q
    let xs := mine.map fun e => (elemBits buf 0 (e.src.getD 0) (sideW raw false))
    let p := xs.findSome? (·.2)
    let (sc, out) := quantiseBlock f ((mine.zip xs).map fun x => (exactValue (fmtOf (mvSrcFmt raw)) x.2.1, elemRnd raw t x.1))
    let m := (mine.zip out).foldl (fun m x => putBits (rowEnds raw x.1) m (x.1.dst.getD 0) (fmtWidth f) x.2 p) a.1
    (m, a.2 ++ [{ at_ := mvAux raw + q, val := BitVec.ofNat 8 sc, poison := p }])) ([], [])
  (r.1.map (·.2), r.2)

/-- A tile's bytes as one stream, R223. -/
def tileStream (raw : List Byte) (t : Nat) (buf : List PByte) : List PByte :=
  let (_, _, i2, i3, i4) := tilePos raw t
  let w := sideW raw false
  let i0 := tileI0 raw t
  let lo := (i0.head?.getD 0) * w / 8
  let hi := ((i0.getLast?.getD 0 + 1) * w + 7) / 8
  (tileI1 raw t).flatMap fun i1 => bufBytes buf 0 ((rowAddr raw false i1 i2 i3 i4).toNat + lo) (hi - lo)

/-- The encoding of one 64-byte group, R223. -/
def encodeGroup (g : List Byte) : List Byte :=
  let g := fitBytes 64 g
  leBytes 8 ((g.zipIdx.map fun p => if p.1 = 0 then 0 else 2 ^ p.2).sum) ++ g.filter (· ≠ 0)

/-- Cut a list in parts of n. -/
def chunks {α : Type} (n : Nat) : Nat → List α → List (List α)
  | 0, _ => []
  | fuel + 1, l => if l.isEmpty then [] else l.take n :: chunks n fuel (l.drop n)

/-- The compressed stream of a tile. -/
def compressed (bs : List Byte) : List Byte := (chunks 64 bs.length bs).flatMap encodeGroup

/-- Decode n groups from an encoding; bytes beyond its end read zero (R225). A poisoned mask contributes to its group and to every later one, a
poisoned data byte to its own byte (R229); `bad` is the poison met so far. -/
def decompressed : Nat → Option Nat → List PByte → List (Byte × Option Nat)
  | 0, _, _ => []
  | n + 1, bad, enc =>
    let m := leNat (fitBytes 8 ((enc.take 8).map (·.val)))
    let bad := match bad with | some d => some d | none => ppoison (enc.take 8)
    let r := (List.range 64).foldl (fun (a : List (Byte × Option Nat) × List PByte) j =>
      if bit m j then
        (a.1 ++ [match a.2.head? with | some b => (b.val, match bad with | some d => some d | none => b.poison) | none => (0, bad)], a.2.drop 1)
      else (a.1 ++ [(0, bad)], a.2)) ([], enc.drop 8)
    r.1 ++ decompressed n bad r.2

/-- The elements of a decompressed tile as bits: row by row, as R223 streams them. -/
def decodeTile (raw : List Byte) (t : Nat) (buf aux : List PByte) (es : List Elem) : List PByte :=
  let w := sideW raw true
  let n0 := (tileI0 raw t).length
  let rowBytes := (n0 * w + 7) / 8
  let slot := bufBytes buf 0 (fld raw 24 8 + t * mvSlot raw) (slotLen raw aux t)
  let bs := decompressed (cdiv (rowBytes * (tileI1 raw t).length) 64) (ppoison (bufBytes aux 1 (mvAux raw + 4 * t) 4)) slot
  let lo0 := (tileI0 raw t).head?.getD 0
  let lo1 := (tileI1 raw t).head?.getD 0
  let m := es.foldl (fun m e =>
    let at_ := (e.i1 - lo1) * rowBytes * 8 + (e.i0 - lo0) * w
    let b := bitSpan at_ w
    let part := (bs.drop b.1).take b.2
    let n := leNat (part.map (·.1)) / 2 ^ (at_ % 8) % 2 ^ w
    match e.dst with | some d => putBits (rowEnds raw e) m d w n (part.findSome? (·.2)) | none => m) []
  m.map (·.2)

/-- The exact sum of ACCUMULATE for an element that the mover itself adds (R226): to the destination's present value, which is what an earlier
element of the tile left there (m), else what was read. -/
def accumulateHost (raw : List Byte) (t : Nat) (buf : List PByte) (m : NMap PByte) (e : Elem) : Nat × Option Nat :=
  let (n, p) := elemBits buf 0 (e.src.getD 0) (sideW raw false)
  let b := bitSpan (e.dst.getD 0) (sideW raw true)
  let now := (bufBytes buf 2 b.1 b.2).zipIdx.map fun x => mgetD m (b.1 + x.2) x.1
  let (d, q) := (pnum now % 2 ^ sideW raw true, ppoison now)
  let rd := elemRnd raw t e
  let v := Num.add (rd.mode = 3) (exactValue (fmtOf (mvDstFmt raw)) d) (exactValue (fmtOf (mvSrcFmt raw)) n)
  (roundTo (fmtOf (mvDstFmt raw)) v rd (mvSat raw), match p with | some x => some x | none => q)

/-- Whether a SCATTER wrote byte a of its destination in a tile before t for an entry later than i (R222), by the entries read so far. -/
def laterEntryWrote (raw : List Byte) (entries : List PByte) (t i a : Nat) : Bool :=
  (List.range t).any fun u => (tileElems 0x15 raw entries u).any fun e => decide (i < e.i1) && match e.dst with
    | some d => let b := bitSpan d (sideW raw true); decide (b.1 ≤ a) && decide (a < b.1 + b.2)
    | none => false

/-- The last of a tile's entries that writes byte a. -/
def lastEntry (raw : List Byte) (es : List Elem) (a : Nat) : Nat :=
  es.foldl (fun n e => match e.dst with
    | some d => let b := bitSpan d (sideW raw true); if b.1 ≤ a && a < b.1 + b.2 then Nat.max n e.i1 else n
    | none => n) 0

/-- What a loaded tile writes: destination bytes and auxiliary bytes. ACCUMULATE lists only the destinations the mover itself adds to. -/
def tileOut (op : Nat) (raw : List Byte) (t : Nat) (job : Job) (items : List Item) : List PByte × List PByte :=
  let es := tileElems op raw job.aux t
  if op = 0x12 then quantiseTile raw t job.buf es
  else if op = 0x16 then
    let st := tileStream raw t job.buf
    let enc := compressed (st.map (·.val))
    let p := ppoison st
    let base := fld raw 32 8 + t * mvSlot raw
    let mark (bs : List PByte) : List PByte := bs.map fun b => { b with poison := p }
    -- every line of the slot of a poisoned tile is poisoned (R229)
    let body := if p.isSome then asPBytes base (fitBytes (mvSlot raw) enc) else asPBytes base enc
    (mark body, mark (asPBytes (mvAux raw + 4 * t) (leBytes 4 enc.length)))
  else if op = 0x17 then (decodeTile raw t job.buf job.aux es, [])
  else
    let m := es.foldl (fun m e => match e.dst with
      | some d =>
        if op = 0x18 && !addsHere raw items d then m
        else
          let (n, p) := if op = 0x18 then accumulateHost raw t job.buf m e else elemValue op raw t job.buf e
          putBits (rowEnds raw e) m d (sideW raw true) n p
      | none => m) []
    let out := m.map (·.2)
    -- the bytes of a later SCATTER entry stand, whichever tile wrote them (R222)
    (if op = 0x15 then out.filter fun b => !laterEntryWrote raw (job.aux ++ job.seen) t (lastEntry raw es b.at_) b.at_ else out, [])

/-! ### Overlap -/

/-- Whether a command of a bounce context reads byte a of a space in tile t or elsewhere, its own destination under ACCUMULATE apart (R231): the
rows of its source, those that the index entries idx name for a GATHER, the slots of a DECOMPRESS up to tile t by their length entries, and its
auxiliary entries. -/
def mvReads (op : Nat) (raw : List Byte) (idx : List PByte) (t space a : Nat) : Bool :=
  let w := mvIdxWidth raw
  let rows : List Nat := if op = 0x14 then (List.range (mvCount raw 1)).filterMap fun i =>
      if idx.any fun b => b.at_ = sideAt 1 (mvAux raw + i * w) then (idxEntry raw idx i).1 else none
    else List.range (mvCount raw 1)
  let len : Nat := cdiv (mvCount raw 0 * sideW raw false) 8
  let inRow (j i2 i3 i4 : Nat) : Bool := let lo := rowAddr raw false j i2 i3 i4; decide (lo ≤ a) && decide (a < lo + len)
  let near := op = 0x14 || (decide ((mvSpan raw false).1 ≤ a) && decide (a ≤ (mvSpan raw false).2))
  let src := if op = 0x17 then (List.range (t + 1)).any fun u => fld raw 24 8 + u * mvSlot raw ≤ a && a < fld raw 24 8 + u * mvSlot raw + slotLen raw idx u
    else near && (List.range (mvCount raw 4)).any fun i4 => (List.range (mvCount raw 3)).any fun i3 =>
      (List.range (mvCount raw 2)).any fun i2 => rows.any fun j => inRow j i2 i3 i4
  let auxLen := if mvIndexed op then mvCount raw 1 * w else if op = 0x17 then 4 * mvTiles raw
    else if op = 0x13 then cdiv (mvCount raw 0) 32 * mvCount raw 1 * mvCount raw 2 * mvCount raw 3 * mvCount raw 4 else 0
  (space = mvSpace raw 0 && src) || (space = mvSpace raw 2 && mvAux raw ≤ a && a < mvAux raw + auxLen)

/-- The bytes of one page that elements of a tile write, as addresses. -/
def dstBytes (op : Nat) (raw : List Byte) (aux : List PByte) (t page : Nat) : List Nat :=
  ((tileElems op raw aux t).flatMap fun e => match e.dst with
    | some d => let b := bitSpan d (sideW raw true); (List.range' b.1 b.2).filter fun a => a / 4096 = page
    | none => []).dedup

/-- The bytes that a tile of a GATHER or a DECOMPRESS reads and its earlier tiles wrote: what these opcodes read is known only then. -/
def readBack (op : Nat) (raw : List Byte) (aux : List PByte) (t : Nat) : List Nat :=
  if mvSpace raw 0 ≠ mvSpace raw 1 || (op ≠ 0x14 && op ≠ 0x17) then []
  else
    let read : List Nat := if op = 0x17 then List.range' (fld raw 24 8 + t * mvSlot raw) (slotLen raw aux t)
      else (tileElems op raw aux t).flatMap fun e => match e.src with
        | some d => let b := bitSpan d (sideW raw false); List.range' b.1 b.2
        | none => []
    read.dedup.filter fun a => (List.range t).any fun u => (dstBytes op raw [] u (a / 4096)).contains a

/-- The output ranges that segments of a tile read, its own destination apart. -/
def segOuts (items : List Item) (segs : List Seg) : List (OutKind × Nat × Nat) :=
  (segs.filter fun g => g.side < 2).flatMap fun g => (pieces 4096 g.addr g.len).filterMap fun p => (outOf items g.space p.1).map fun o => (o.2, o.1, p.2)

/-- What a range has in common with others. -/
def cutRanges (l : List (OutKind × Nat × Nat)) (d : OutKind × Nat × Nat) : List (OutKind × Nat × Nat) :=
  l.filterMap fun x =>
    let lo := Nat.max x.2.1 d.2.1
    let hi := Nat.min (x.2.1 + x.2.2) (d.2.1 + d.2.2)
    if x.1 = d.1 && lo < hi then some (d.1, lo, hi - lo) else none

/-- Whether a command has read, or reads in this tile, the byte that it writes at address a of a space (R231): by its place in memory, whichever
mapping leads there. A bounce context's bytes are compared by their address as well, over the whole command, since its memory holds their
ciphertext and what is written there cannot be undone (log entry 105). -/
def readHere (bn : Option (Nat × Slot)) (op : Nat) (raw : List Byte) (j : Job) (items : List Item) (space a : Nat) : Bool :=
  (bn.isSome && mvReads op raw (j.aux ++ j.seen) j.tile space a)
    || match outOf items space a with
      | some (o, k) => !(cutRanges j.reads (k, o, 1)).isEmpty
      | none => false

/-- The output ranges of bytes written at addresses of a space. -/
def wroteOuts (items : List Item) (space : Nat) (bs : List PByte) : List (OutKind × Nat × Nat) :=
  (runsOf bs).filterMap fun x => (outOf items space x.1).map fun o => (o.2, o.1, x.2.length)

/-! ### A mover's steps -/

/-- The job of mover m. -/
def getMover (s : State) (m : Nat) : Option Job := mget s.gm.movers m

/-- The job of mover m changed. -/
def setMover (m : Nat) (j : Job) (s : State) : State := { s with gm := { s.gm with movers := mset s.gm.movers m j } }

/-- Mover m becomes idle. -/
def freeMover (m : Nat) (s : State) : State := dropPlan (.mover m) <| dropAhead (fun a => a.m = m) { s with gm := { s.gm with movers := mdel s.gm.movers m } }

/-- The first poisoned address that the reads of some sides met, in the order of their segments (R229, R560): the source's and the auxiliary
entries', or a present destination's. -/
def firstPoison (side : Nat → Bool) (segs : List Seg) (buf : List PByte) : Option (Nat × Nat) :=
  segs.findSome? fun g => if !side g.side then none else
    (bufBytes buf g.side g.addr g.len).zipIdx.findSome? fun b => b.1.poison.map fun d => (g.addr + b.2, d)

/-- Store free values over output ranges: bytes a command wrote that it now reads (R231). -/
def freeOuts (w : Who) (k : Nat) (c : Cmd) (l : List (OutKind × Nat × Nat)) (s : State) : State :=
  (l.flatMap fun d => (pieces 256 d.2.1 d.2.2).map fun p => (d.1, p)).foldl (fun s d =>
    let (bs, s) := freeBytes d.2.2 s
    (storeRun w k c.f c.tenant c.cls (d.2.1, d.1) (asPBytes d.2.1 bs) s).2) s

/-- The base of a plan of command k for a party. -/
def planOf (w : Who) (c : Cmd) (items : List Item) : Plan :=
  { who := w, f := c.f, pasid := c.pasid, tenant := c.tenant, report := c.report, cls := c.cls, items := items }

/-- Whether a plan needs the host (R451): a page in space SVA. -/
def needsHost (items : List Item) : Bool := items.any fun it => it.space = 0

/-- Count bytes a mover read. -/
def countRd (m n : Nat) (s : State) : State := bump64 (.gmMover m) 0x050 n s

/-- One step of mover m toward a loaded tile (R134, R217, R221, R228). -/
def moverPass (m : Nat) (s : State) : State :=
  match getMover s m with
  | none => s
  | some j =>
    match getCmd s j.k with
    | none => freeMover m s
    | some c =>
      let bn := bounceOf s c.f c.ctx
      let ended (st d done a : Nat) (s : State) : State := freeMover m (finish j.k st d done a s)
      match c.cut (j.phase = .start || j.phase = .aux || j.phase = .plan) with
      | some (st, d) => ended st d j.tile c.fault s
      | none =>
        if c.phase = .finished then freeMover m s
        else match j.phase with
        | .start =>
          let items := if hasAux c.op then auxItems bn c.op c.raw j.tile else tileItems bn c.op c.raw [] j.tile
          match (if needsHost items then hostLoss j.k s else none) with
          | some s => if (getCmd s j.k).any (·.phase = .finished) then freeMover m s else s
          | none => planStart (planOf (.mover m) c items)
              (setMover m { j with phase := if hasAux c.op then .aux else .plan, buf := [], aux := [], wrote := 0 } s)
        | .aux | .plan =>
          match planAt s (.mover m) with
          | .waiting =>
            match (if (getPlan s (.mover m)).any (fun p => needsHost p.items) then hostLoss j.k s else none) with
            | some s => if (getCmd s j.k).any (·.phase = .finished) then freeMover m s else s
            | none => planAdvance (.mover m) s
          | .failed it b => freeMover m (stopCmd j.k j.tile it.first b s)
          | .ready items =>
            let aux := j.phase = .aux
            let segs := if aux then ((auxSegs c.op c.raw j.tile).flatMap (widen bn)).dedup else tileSegs bn c.op c.raw j.aux j.tile items
            match (if needsHost items then hostLoss j.k s else none) with
            | some s => if (getCmd s j.k).any (·.phase = .finished) then freeMover m s else s
            | none =>
              let outs := segOuts items (if aux then auxSegs c.op c.raw j.tile else tileSegs none c.op c.raw j.aux j.tile items)
              let back := ((outs.flatMap (cutRanges j.wrotes)).dedup).filter fun d => !j.freed.contains d && (bn.isNone || d.1 = .dpa)
              let j := { j with freed := back ++ j.freed }
              match issueSegs (.mover m) j.k c.f c.tenant c.cls items segs (freeOuts (.mover m) j.k c back (setMover m j s)) with
              | .waits s => s
              | .lost s => ended stLinkGone 0 j.tile 0 s
              | .done bs s =>
                let j := { j with reads := outs ++ j.reads }
                let s := countRd m (segs.map (·.len)).sum s
                setMover m (if aux then { j with phase := .auxRead, aux := bs } else { j with phase := .reading, buf := bs }) s
        | .auxRead =>
          if ioOpen s (.mover m) then s
          else
            let segs := ((auxSegs c.op c.raw j.tile).flatMap (widen bn)).dedup
            let (aux, s) := openAll j.k bn segs j.aux s
            let s := match firstPoison (· < 2) (auxSegs c.op c.raw j.tile) aux with | some (a, d) => notePoison j.k a d s | none => s
            let j := { j with aux := aux }
            if rowsOut c.op c.raw aux j.tile then
              ended stFault 0 j.tile (firstRowOut c.op c.raw aux j.tile) (countFault c.f s)
            else
              planStart (planOf (.mover m) c (tileItems bn c.op c.raw aux j.tile)) (setMover m { j with phase := .plan } s)
        | .reading =>
          if ioOpen s (.mover m) then s
          else
            let items := match getPlan s (.mover m) with | some p => p.items | none => []
            let segs := tileSegs bn c.op c.raw j.aux j.tile items
            let (buf, s) := openAll j.k bn segs j.buf s
            let s := match firstPoison (· < 2) segs buf with | some (a, d) => notePoison j.k a d s | none => s
            let s := match firstPoison (· = 2) segs buf with | some (a, d) => noteDst j.k a d s | none => s
            setMover m { j with phase := .loaded, buf := buf } s
        | .loaded => s

/-- MOVER_TILE: mover m plans its next tile and reads it as far as answers are there. -/
def moverTile (m : Nat) (s : State) : State := if rampHolds s then s else (List.range 6).foldl (fun s _ => moverPass m s) s

/-- Issue one ACCUMULATE request for a line and the line an element goes on in (R227, R552): journalled at a home here, or sent to the receiving
hub. -/
def accumulateLine (m k : Nat) (c : Cmd) (at_ out next : Nat) (elems : List (Nat × Nat × Nat)) (bad : Bool) (s : State) : Bool × State :=
  let sf := mvSrcFmt c.raw; let df := mvDstFmt c.raw
  if region s out = 4 then
    let (q, s) := hubSeq s
    match sendRemote (.mover m) 2 at_ 64 out (.nonIdem q (.accumulate sf df (mvRound c.raw) (mvSat c.raw) elems bad)) s with
    | (some tag, s) => (true, updCmd k (fun c => { c with remote := tag :: c.remote }) s)
    | (none, s) => (false, s)
  else
    let (id, s) := journalId m s
    (true, issue out c.tenant false (fnOrigin c.f) c.cls (.accumulate sf df (mvRound c.raw) (mvSat c.raw) elems bad next) (.cmd k) (some id) s)

/-- The ACCUMULATE additions that begin in one destination page of a tile in device memory or behind a remote window: one request for each line,
and one for each element that lies in two lines. -/
def accumulatePage (m k : Nat) (c : Cmd) (j : Job) (items : List Item) (page : Nat) (s : State) : Bool × State :=
  let dp := mvSpace c.raw 1
  let w := sideW c.raw true / 8
  let mine := (tileElems c.op c.raw j.aux j.tile).filterMap fun e => e.dst.bind fun d =>
    if d / 8 / 4096 = page && !addsHere c.raw items d then
      let (n, p) := elemBits j.buf 0 (e.src.getD 0) (sideW c.raw false)
      some (d / 8, n, p, elemRnd c.raw j.tile e)
    else none
  let whole := mine.filter fun x => x.1 % 64 + w ≤ 64
  let lines := (whole.map fun x => x.1 / 64).dedup
  let r : Bool × State := lines.foldl (fun (a : Bool × State) l =>
    if !a.1 then a
    else
      let es := whole.filter fun x => x.1 / 64 = l
      match outOf items dp (l * 64) with
      | some (o, _) => accumulateLine m k c (l * 64) o (o + 64) (es.map fun x => (x.1 % 64, x.2.1, x.2.2.2.r)) (es.any fun x => x.2.2.1.isSome) a.2
      | none => a) (true, s)
  (mine.filter fun x => 64 < x.1 % 64 + w).foldl (fun (a : Bool × State) x =>
    if !a.1 then a
    else match outOf items dp (x.1 / 64 * 64), outOf items dp (x.1 / 64 * 64 + 64) with
      | some (o, _), some (n, _) => accumulateLine m k c (x.1 / 64 * 64) o n [(x.1 % 64, x.2.1, x.2.2.2.r)] x.2.2.1.isSome a.2
      | _, _ => a) r

/-- The destination pieces of a loaded tile, one page each: space and page, in the order of their first bytes. -/
def tilePieces (op : Nat) (raw : List Byte) (j : Job) (items : List Item) : List (Nat × Nat) :=
  let (d, a) := tileOut op raw j.tile j items
  let acc := if op = 0x18 then (tileElems op raw j.aux j.tile).flatMap fun e => match e.dst with
      | some x => [x / 8 / 4096, (x + sideW raw true - 1) / 8 / 4096]
      | none => []
    else []
  let dp := (acc ++ d.map fun (b : PByte) => b.at_ / 4096).dedup
  let ap := (a.map fun (b : PByte) => b.at_ / 4096).dedup
  (dp.map fun p => (mvSpace raw 1, p)) ++ ap.map fun p => (mvSpace raw 2, p)

/-- Store free values over addresses of a space (R231). -/
def scribble (m k : Nat) (c : Cmd) (items : List Item) (space : Nat) (buf : List PByte) (at_ : List Nat) (s : State) : State :=
  let (bs, s) := freeWhere (fun _ => true) (at_.map fun a => { at_ := a, val := 0 }) s
  (byPage bs).foldl (fun s l => (storePage (.mover m) k c.f c.tenant c.cls (bounceOf s c.f c.ctx) items space buf l s).2) s

/-- A tile is whole: the mover goes on to the next, or its command ends (R135, R229). -/
def tileDone (m : Nat) (j : Job) (c : Cmd) (s : State) : State :=
  let n := j.tile + 1
  let items := match getPlan s (.mover m) with | some p => p.items | none => []
  let s := if (bounceOf s c.f c.ctx).isSome then scribble m j.k c items (mvSpace c.raw 1) j.buf (readBack c.op c.raw (j.aux ++ j.seen) j.tile) s else s
  let s := bump64 .gm 0x054 1 s
  let s := setReg (.gmMover m) 0 0x04C (n / 2 ^ 32) (setReg (.gmMover m) 0 0x048 (n % 2 ^ 32) s)
  let s := dropPlan (.mover m) (updCmd j.k (fun c => { c with done := n }) s)
  if n < mvTiles c.raw then setMover m { k := j.k, tile := n, seen := if mvIndexed c.op || c.op = 0x17 then j.aux ++ j.seen else [], reads := j.reads, wrotes := j.wrotes, freed := j.freed } s
  else freeMover m (finishWhole j.k n s)

/-- Whether every request and write of mover m's tile has been answered or performed, so that what a home finds reaches the status. -/
def moverQuiet (s : State) (m k : Nat) : Bool := !remoteOpen s (.mover m) && writesPerformed s k

/-- The old bytes an ACCUMULATE's tile lacks on a page, and on the next for an element that goes on there: those of destinations that came to be
the mover's to add to after the tile was read, their page being mapped anew (R144). -/
def lackingOld (bn : Option (Nat × Slot)) (op : Nat) (raw : List Byte) (j : Job) (items : List Item) (page : Nat) : List Seg :=
  if op ≠ 0x18 || bn.isSome then []
  else ((tileSegs bn op raw j.aux j.tile items).filter (·.side = 2)).flatMap fun g =>
    ((pieces 4096 g.addr g.len).filter fun p => (p.1 / 4096 = page || p.1 / 4096 = page + 1)
      && (List.range' p.1 p.2).any fun a => !(j.buf.any fun b => b.at_ = sideAt 2 a)).map fun p => ⟨2, g.space, p.1, p.2⟩

/-- The bytes that go out for n bytes of one page: in a bounce unit the whole unit and its tag record (R237, R471). -/
def bytesOut (bn : Option (Nat × Slot)) (space n : Nat) : Nat := if bn.isSome && space = 0 && n ≠ 0 then 4096 + 32 else n

/-- The row of MOVE opcode op on mover m: write the next page of its loaded tile; after the last, the tile is committed once its
remote requests are answered. -/
def moverWrite (op m : Nat) (s : State) : State :=
  match getMover s m with
  | none => s
  | some j =>
    match getCmd s j.k with
    | none => s
    | some c =>
      if c.op ≠ op || j.phase ≠ .loaded || rampHolds s then s
      else match c.cut false with
      | some (st, d) => freeMover m (finish j.k st d j.tile c.fault s)
      | none =>
        match planAt s (.mover m) with
        | .waiting => planAdvance (.mover m) s
        | .failed it b => freeMover m (stopCmd j.k j.tile it.first b s)
        | .ready items =>
          let ps := tilePieces op c.raw j items
          match ps[j.wrote]? with
          | some (space, page) =>
            match (if isHost items space (page * 4096) then hostLoss j.k s else none) with
            | some s => if (getCmd s j.k).any (·.phase = .finished) then freeMover m s else s
            | none =>
              let bn := bounceOf s c.f c.ctx
              let lacking := lackingOld bn op c.raw j items page
              if !lacking.isEmpty then
                (match issueSegs (.mover m) j.k c.f c.tenant c.cls items lacking s with
                | .waits s => s
                | .lost s => freeMover m (finish j.k stLinkGone 0 j.tile 0 s)
                | .done bs s => setMover m { j with phase := .reading, buf := bs ++ j.buf } (countRd m (lacking.map (·.len)).sum s))
              else
              let (d, a) := tileOut op c.raw j.tile j items
              let first := decide (j.wrote < ps.length - ((a.map fun (b : PByte) => b.at_ / 4096).dedup).length)
              let bs : List PByte := (if first then d else a).filter fun b => b.at_ / 4096 = page
              let (bs, s) := freeWhere (readHere bn op c.raw j items space) ((laterWins bs).map (·.2)) s
              let (stored, s) := storePage (.mover m) j.k c.f c.tenant c.cls bn items space j.buf bs s
              -- a later piece of the same bounce unit is merged over this one (R471)
              let j := { j with buf := unitBytes bn space bs ++ j.buf }
              let (ok, s) := if stored && op = 0x18 then accumulatePage m j.k c j items page s else (stored, s)
              let added := if op = 0x18 then (dstBytes op c.raw j.aux j.tile page).filter fun a => !(bs.any fun b => b.at_ = a) else []
              let both := if ok then added.filter (readHere bn op c.raw j items space) else []
              let s := if both.isEmpty then s else scribble m j.k c items space j.buf both s
              let s := bump64 (.gmMover m) 0x058 ((if stored then bytesOut bn space bs.length else 0) + (if ok then added.length else 0)) s
              let wrotes := wroteOuts items space (bs ++ added.map fun a => { at_ := a, val := 0 }) ++ j.wrotes
              let j := { j with wrote := j.wrote + 1, wrotes := wrotes }
              if ok then (if j.wrote = ps.length && moverQuiet s m j.k then tileDone m j c s else setMover m j s)
              else freeMover m (finish j.k stLinkGone 0 j.tile 0 s)
          | none => if moverQuiet s m j.k then tileDone m j c s else s

/-! ### Assignment and lookahead -/

/-- The limit of a class, R235. -/
def classLimit (s : State) (c : Nat) : Nat :=
  let v := bits (getReg s .gm 0 (if c < 4 then 0x04C else 0x050)) (8 * (c % 4) + 7) (8 * (c % 4))
  if v = 0 || 64 < v then 64 else v

/-- The class of the firmware's own work, MS.QOS_CFG.FW_CLASS. -/
def fwClass (s : State) : Nat := bits (getReg s .ms 0 0x090) 10 8

/-- Busy movers of a class; those of a scrub work in FW_CLASS (R482). -/
def classBusy (s : State) (c : Nat) : Nat :=
  (s.gm.movers.filter fun p => match getCmd s p.2.k with | some x => x.cls = c | none => false).length
    + (if c = fwClass s then s.gm.scrubbing.length else 0)

/-- Whether a command has a unit. -/
def onUnitK (s : State) (k : Nat) : Bool := s.gm.movers.any (·.2.k = k) || s.gm.lanes.any (·.2.k = k)

/-- MOVER_ASSIGN: the oldest waiting MOVE within its class limit goes to idle mover m (R232, R236). -/
def moverAssign (m : Nat) (s : State) : State :=
  if mhas s.gm.movers m || s.gm.scrubbing.contains m || s.tg.ckpt || s.sl.h ≠ 0 || rampHolds s then s
  else match s.qe.cmds.find? fun p => p.2.phase = .ready && 0x10 ≤ p.2.op && p.2.op < 0x20 && !onUnitK s p.1
      && classBusy s p.2.cls < classLimit s p.2.cls with
    | some (k, _) =>
      let s := setReg (.gmMover m) 0 0x04C 0 (setReg (.gmMover m) 0 0x048 0 s)
      setMover m { k := k } (updCmd k (fun c => { c with phase := .running }) s)
    | none => s

/-- LOOKAHEAD_FILL: translations for the pages of the next tiles of mover m, and PLANs for those in remote windows (R116, R117, R415). The pages a gathered index names follow
once the index is read, which is at the planning of its tile (R118, R221). -/
def lookaheadFill (m : Nat) (s : State) : State :=
  match getMover s m with
  | none => s
  | some j =>
    match getCmd s j.k with
    | none => s
    | some c =>
      let n := Nat.min 32 (bits (getReg s .tu 0 0x044) 5 0)
      let ts := (List.range' (j.tile + 1) n).filter (· < mvTiles c.raw)
      let bn := bounceOf s c.f c.ctx
      ts.foldl (fun s t =>
        let items := aheadItems bn c.op c.raw t
        planAhead m c.f c.pasid items (lookAhead m c.f c.pasid c.cls items s)) s

/-! ### The commands -/

/-- COPY on mover m. -/
def execCopy (m : Nat) (s : State) : Host.Outcome State Fault Refusal := onUnit m 64 (moverWrite 0x10 m s)
/-- CONVERT on mover m. -/
def execConvert (m : Nat) (s : State) : Host.Outcome State Fault Refusal := onUnit m 64 (moverWrite 0x11 m s)
/-- QUANTISE on mover m. -/
def execQuantise (m : Nat) (s : State) : Host.Outcome State Fault Refusal := onUnit m 64 (moverWrite 0x12 m s)
/-- DEQUANTISE on mover m. -/
def execDequantise (m : Nat) (s : State) : Host.Outcome State Fault Refusal := onUnit m 64 (moverWrite 0x13 m s)
/-- GATHER on mover m. -/
def execGather (m : Nat) (s : State) : Host.Outcome State Fault Refusal := onUnit m 64 (moverWrite 0x14 m s)
/-- SCATTER on mover m. -/
def execScatter (m : Nat) (s : State) : Host.Outcome State Fault Refusal := onUnit m 64 (moverWrite 0x15 m s)
/-- COMPRESS on mover m. -/
def execCompress (m : Nat) (s : State) : Host.Outcome State Fault Refusal := onUnit m 64 (moverWrite 0x16 m s)
/-- DECOMPRESS on mover m. -/
def execDecompress (m : Nat) (s : State) : Host.Outcome State Fault Refusal := onUnit m 64 (moverWrite 0x17 m s)
/-- ACCUMULATE on mover m. -/
def execAccumulate (m : Nat) (s : State) : Host.Outcome State Fault Refusal := onUnit m 64 (moverWrite 0x18 m s)
/-- MOVER_ASSIGN. -/
def execMoverAssign (m : Nat) (s : State) : Host.Outcome State Fault Refusal := onUnit m 64 (moverAssign m s)
/-- MOVER_TILE. -/
def execMoverTile (m : Nat) (s : State) : Host.Outcome State Fault Refusal := onUnit m 64 (moverTile m s)
/-- LOOKAHEAD_FILL. -/
def execLookaheadFill (m : Nat) (s : State) : Host.Outcome State Fault Refusal := onUnit m 64 (lookaheadFill m s)

end Sys2Proof.Machine
end

