-- ==== Sys2Proof/Machine/Reduce.lean ====
section
/-! DEFINITION. The reduce lanes: tiles of 1,024 elements (R311), exact sums and packets (R299 to R304, R306, R314), home additions
under ACC (R312), comparison and repair (R313). -/

namespace Sys2Proof.Machine

/-- ACC of a REDUCE. -/
def rdAcc (raw : List Byte) : Bool := bit (fld raw 18 1) 3
/-- REPAIR. -/
def rdRepair (raw : List Byte) : Bool := bit (fld raw 18 1) 5
/-- SRC_SPACE. -/
def rdSp (raw : List Byte) : Nat := bits (fld raw 16 1) 1 0
/-- DST_SPACE. -/
def rdDp (raw : List Byte) : Nat := bits (fld raw 16 1) 3 2
/-- Address of element k of source m, R307. -/
def rdSrc (op : Nat) (raw : List Byte) (m k : Nat) : Nat :=
  ((fld raw 24 8 : Int) + (if rdM raw = 1 then 0 else m * rdStride raw)).toNat + k * rdSrcSize op raw
/-- Address of element k of the destination. -/
def rdDst (op : Nat) (raw : List Byte) (k : Nat) : Nat := fld raw 32 8 + k * rdDstSize op raw
/-- Tiles of a REDUCE. -/
def rdTiles (raw : List Byte) : Nat := cdiv (rdCount raw) 1024
/-- The elements of tile t. -/
def rdTile (raw : List Byte) (t : Nat) : List Nat := List.range' (1024 * t) (Nat.min 1024 (rdCount raw - 1024 * t))

/-- The pages of tile t in element order with the rights of R311. -/
def rdItems (bn : Option (Nat × Slot)) (op : Nat) (raw : List Byte) (t : Nat) : List Item :=
  let sr : Rights := ⟨true, rdRepair raw, false⟩
  let dr : Rights := ⟨rdAcc raw, true, false⟩
  let l := (rdTile raw t).foldl (fun l k =>
    let l := (List.range (rdM raw)).foldl (fun l m => touchIo bn (rdSp raw) (rdSrc op raw m k) (rdSrcSize op raw) sr l) l
    if op = 0x34 then l else touchIo bn (rdDp raw) (rdDst op raw k) (rdDstSize op raw) dr l) []
  if op = 0x34 then touchIo bn (rdDp raw) (fld raw 32 8) 16 dr l else l

/-- The byte ranges tile t reads: its sources, packets in host memory under ACC, and bounce units written in part. -/
def rdSegs (bn : Option (Nat × Slot)) (op : Nat) (raw : List Byte) (t : Nat) (items : List Item) : List Seg :=
  let ks := rdTile raw t
  let src := (List.range (rdM raw)).flatMap fun m => ks.map fun k => (⟨0, rdSp raw, rdSrc op raw m k, rdSrcSize op raw⟩ : Seg)
  let old := if rdAcc raw then (ks.filter fun k => isHost items (rdDp raw) (rdDst op raw k)).map fun k => (⟨2, rdDp raw, rdDst op raw k, 64⟩ : Seg)
    else []
  let units := if bn.isNone then [] else
    (if rdDp raw ≠ 0 then [] else if op = 0x34 then [(⟨2, 0, fld raw 32 8, 16⟩ : Seg)] else ks.map fun k => ⟨2, 0, rdDst op raw k, rdDstSize op raw⟩)
    ++ (if op = 0x34 && rdRepair raw && rdSp raw = 0 then (List.range (rdM raw)).flatMap fun m => ks.map fun k => ⟨2, 0, rdSrc op raw m k, 64⟩ else [])
  ((mergeSegs (src ++ old ++ units)).flatMap (widen bn)).dedup

/-- The accumulator of element k over the sources, R302 and R314. -/
def rdSum (op : Nat) (raw : List Byte) (buf : List PByte) (k : Nat) : Acc :=
  let s := rdSrcSize op raw
  (List.range (rdM raw)).foldl (fun a m =>
    let bs := bufBytes buf 0 (rdSrc op raw m k) s
    if op = 0x31 || op = 0x32 then accMerge a (accOfPacket (BitVec.ofNat 512 (pnum bs)) (ppoison bs).isSome false)
    else
      let a := accAdd a (exactValue (fmtOf (mvSrcFmt raw)) (pnum bs))
      { a with poison := a.poison || (ppoison bs).isSome }) {}

/-- The 64 bytes of an element as an accumulator found at the destination in host memory. -/
def rdOld (op : Nat) (raw : List Byte) (buf : List PByte) (k : Nat) : Acc :=
  let bs := bufBytes buf 2 (rdDst op raw k) 64
  accOfPacket (BitVec.ofNat 512 (pnum bs)) (ppoison bs).isSome false

/-- The destination bytes of element k that the lane writes itself. -/
def rdOut (op : Nat) (raw : List Byte) (buf : List PByte) (items : List Item) (k : Nat) : List PByte :=
  let a := rdSum op raw buf k
  if op = 0x30 || op = 0x31 then
    if rdAcc raw && !isHost items (rdDp raw) (rdDst op raw k) then []
    else asPBytes (rdDst op raw k) (vecBytes (packetOf (if rdAcc raw then accMerge (rdOld op raw buf k) a else a)))
  else
    let (n, p) := accRound a (mvDstFmt raw) (mkRnd (mvRound raw) (fld raw 20 4) [k, 0, 0, 0, 0]) (mvSat raw)
    (asPBytes (rdDst op raw k) (leBytes (rdDstSize op raw) n)).map fun b => { b with poison := if p then some 0 else none }

/-- What line k shows when its copies are compared (R313): whether all are equal, whether any two are, and the odd copy with
the majority's bytes when exactly two are equal. -/
def rdCompare (raw : List Byte) (buf : List PByte) (k : Nat) : Bool × Bool × Option (Nat × List Byte) :=
  let cs := (List.range (rdM raw)).map fun m =>
    let bs := bufBytes buf 0 (rdSrc 0x34 raw m k) 64
    if (ppoison bs).isSome then none else some (bs.map (·.val))
  let eq (i j : Nat) : Bool := match cs.getD i none, cs.getD j none with | some x, some y => x = y | _, _ => false
  if rdM raw = 2 then (eq 0 1, eq 0 1, none)
  else
    let n := b2n (eq 0 1) + b2n (eq 0 2) + b2n (eq 1 2)
    let odd : Nat := if eq 0 1 then 2 else if eq 0 2 then 1 else 0
    let good : Nat := if odd = 0 then 1 else 0
    (n = 3, 1 ≤ n, if n = 1 then (cs.getD good none).map fun x => (odd, x) else none)

/-- The bytes RED_COMPARE rewrites in tile t. -/
def rdRepairs (raw : List Byte) (t : Nat) (buf : List PByte) : List PByte :=
  if !rdRepair raw then []
  else (rdTile raw t).flatMap fun k => match (rdCompare raw buf k).2.2 with
    | some (m, x) => asPBytes (rdSrc 0x34 raw m k) x
    | none => []

/-- The running counts after tile t is compared. -/
def rdCount3 (raw : List Byte) (t : Nat) (j : Job) : Job :=
  (rdTile raw t).foldl (fun (j : Job) k =>
    let r := rdCompare raw j.buf k
    if r.1 then j
    else { j with mism := j.mism + 1, first := (match j.first with | none => some k | some x => some x),
                  noMaj := j.noMaj + b2n (rdM raw = 3 && !r.2.1) }) j

/-- The compare record of R313. -/
def rdRecord (raw : List Byte) (j : Job) : List PByte :=
  asPBytes (fld raw 32 8) (leBytes 8 j.mism ++ leBytes 4 (j.first.getD 0xFFFFFFFF) ++ leBytes 4 j.noMaj)

/-! ### A lane's steps -/

/-- The job of lane l. -/
def getLane (s : State) (l : Nat) : Option Job := mget s.gm.lanes l

/-- The job of lane l changed. -/
def setLaneJob (l : Nat) (j : Job) (s : State) : State := { s with gm := { s.gm with lanes := mset s.gm.lanes l j } }

/-- Lane l becomes idle. -/
def freeLane (l : Nat) (s : State) : State := dropPlan (.lane l) { s with gm := { s.gm with lanes := mdel s.gm.lanes l } }

/-- How many sources of a REDUCE hold byte a of a space, by its address. -/
def rdReads (op : Nat) (raw : List Byte) (space a : Nat) : Nat :=
  if space ≠ rdSp raw then 0
  else ((List.range (rdM raw)).filter fun m => rdSrc op raw m 0 ≤ a && a < rdSrc op raw m 0 + rdCount raw * rdSrcSize op raw).length

/-- The output ranges tile t reads from its sources, one for each element of each. -/
def rdOuts (op : Nat) (raw : List Byte) (t : Nat) (items : List Item) : List (OutKind × Nat × Nat) :=
  segOuts items ((List.range (rdM raw)).flatMap fun m => (rdTile raw t).map fun k => ⟨0, rdSp raw, rdSrc op raw m k, rdSrcSize op raw⟩)

/-- How many of the elements read so far hold the byte at address a of a space, by its place in memory. -/
def readTimes (j : Job) (items : List Item) (space a : Nat) : Nat :=
  match outOf items space a with
  | some (o, k) => (j.reads.filter fun d => d.1 = k && d.2.1 ≤ o && o < d.2.1 + d.2.2).length
  | none => 0

/-- Whether a REDUCE reads the byte it writes at address a of a space (R316): by its place in memory, and in a bounce context by its address over
the whole command as well (log entry 105). A repair writes one copy of a line, which it has read as that copy (R313): its bytes are open where
another copy is read there too. -/
def rdBoth (bn : Option (Nat × Slot)) (op : Nat) (raw : List Byte) (j : Job) (items : List Item) (repairs : Bool) (space a : Nat) : Bool :=
  b2n repairs < readTimes j items space a || (bn.isSome && b2n repairs < rdReads op raw space a)

/-- Write the compare record through the lane's plan, if its page is translated. -/
def writeRecord (l : Nat) (j : Job) (c : Cmd) (s : State) : State :=
  match getPlan s (.lane l) with
  | none => s
  | some p =>
    let (bs, s) := freeWhere (rdBoth (bounceOf s c.f c.ctx) c.op c.raw j p.items false (rdDp c.raw)) (rdRecord c.raw j) s
    (storePage (.lane l) j.k c.f c.tenant c.cls (bounceOf s c.f c.ctx) p.items (rdDp c.raw) j.buf bs s).2

/-- The lane's command ends early: a comparison's record covers the committed tiles (DEDUCED, log entry 21). -/
def laneStop (l : Nat) (j : Job) (t : State → State) (s : State) : State :=
  match getCmd s j.k with
  | none => freeLane l s
  | some c => freeLane l (t (if c.op = 0x34 && j.tile ≠ 0 then writeRecord l j c s else s))

/-- One step of lane l toward a loaded tile (R311). -/
def lanePass (l : Nat) (s : State) : State :=
  match getLane s l with
  | none => s
  | some j =>
    match getCmd s j.k with
    | none => freeLane l s
    | some c =>
      let bn := bounceOf s c.f c.ctx
      let lost (items : List Item) : Option State := if needsHost items then hostLoss j.k s else none
      let ended (s : State) : State := if (getCmd s j.k).any (·.phase = .finished) then laneStop l j id s else s
      match c.cut (j.phase = .start || j.phase = .plan) with
      | some (st, d) => laneStop l j (finish j.k st d j.tile c.fault) s
      | none =>
        if c.phase = .finished then laneStop l j id s
        else match j.phase with
        | .start =>
          let items := rdItems bn c.op c.raw j.tile
          match lost items with
          | some s => ended s
          | none => planStart (planOf (.lane l) c items) (setLaneJob l { j with phase := .plan, buf := if c.op = 0x34 then j.buf else [], wrote := 0 } s)
        | .plan =>
          match planAt s (.lane l) with
          | .waiting =>
            match lost (match getPlan s (.lane l) with | some p => p.items | none => []) with
            | some s => ended s
            | none => planAdvance (.lane l) s
          | .failed it b => laneStop l j (stopCmd j.k j.tile it.first b) s
          | .ready items =>
            match lost items with
            | some s => ended s
            | none =>
              let outs := rdOuts c.op c.raw j.tile items
              let back := ((outs.flatMap (cutRanges j.wrotes)).dedup).filter fun d => !j.freed.contains d && (bn.isNone || d.1 = .dpa)
              let j := { j with freed := back ++ j.freed }
              match issueSegs (.lane l) j.k c.f c.tenant c.cls items (rdSegs bn c.op c.raw j.tile items)
                  (freeOuts (.lane l) j.k c back (setLaneJob l j s)) with
              | .waits s => s
              | .lost s => laneStop l j (finish j.k stLinkGone 0 j.tile 0) s
              | .done bs s => setLaneJob l { j with phase := .reading, buf := bs, reads := outs ++ j.reads } s
        | .reading =>
          if ioOpen s (.lane l) then s
          else
            let items := match getPlan s (.lane l) with | some p => p.items | none => []
            let segs := rdSegs bn c.op c.raw j.tile items
            let (buf, s) := openAll j.k bn segs j.buf s
            let s := if c.op = 0x34 then updCmd j.k (fun c => { c with poisonAt := none }) s else
              match firstPoison (· = 0) segs buf with | some (a, _) => notePoison j.k a 0 s | none => s
            let s := match firstPoison (· = 2) segs buf with
              | some (a, _) => if rdAcc c.raw then noteDst j.k a 0 s else s
              | none => s
            setLaneJob l { j with phase := .loaded, buf := buf } s
        | _ => s

/-- The pages a loaded tile writes in element order: those the lane writes itself and those with additions at a home. -/
def lanePieces (op : Nat) (raw : List Byte) (j : Job) : List Nat :=
  if op = 0x34 then ((rdRepairs raw j.tile j.buf).map fun (b : PByte) => b.at_ / 4096).dedup
  else ((rdTile raw j.tile).map fun k => rdDst op raw k / 4096).dedup

/-- Send one packet addition to its home (R312, R552). -/
def addPacket (l k : Nat) (c : Cmd) (va out : Nat) (v : Vec) (s : State) : Bool × State :=
  if region s out = 4 then
    let (q, s) := hubSeq s
    match sendRemote (.lane l) 2 va 64 out (.nonIdem q (.packet v false)) s with
    | (some tag, s) => (true, updCmd k (fun c => { c with remote := tag :: c.remote }) s)
    | (none, s) => (false, s)
  else
    let (id, s) := journalId (64 + l) s
    (true, issue out c.tenant false (fnOrigin c.f) c.cls (.packet v false) (.lane l) (some id) s)

/-- Write one page of a loaded tile: whether every request found its way, and the bytes the lane stored itself. -/
def lanePage (l : Nat) (j : Job) (c : Cmd) (items : List Item) (page : Nat) (s : State) : Bool × List PByte × State :=
  let bn := bounceOf s c.f c.ctx
  if c.op = 0x34 then
    let bs := (laterWins ((rdRepairs c.raw j.tile j.buf).filter fun (b : PByte) => b.at_ / 4096 = page)).map (·.2)
    let (bs, s) := freeWhere (rdBoth bn c.op c.raw j items true (rdSp c.raw)) bs s
    let r := storePage (.lane l) j.k c.f c.tenant c.cls bn items (rdSp c.raw) j.buf bs s
    (r.1, bs, r.2)
  else
    let ks := (rdTile c.raw j.tile).filter fun k => rdDst c.op c.raw k / 4096 = page
    let (bs, s) := freeWhere (rdBoth bn c.op c.raw j items false (rdDp c.raw)) (ks.flatMap (rdOut c.op c.raw j.buf items)) s
    let r := storePage (.lane l) j.k c.f c.tenant c.cls bn items (rdDp c.raw) j.buf bs s
    let homes := if rdAcc c.raw then ks.filter fun k => !isHost items (rdDp c.raw) (rdDst c.op c.raw k) else []
    let r := homes.foldl (fun (a : Bool × State) k =>
      if !a.1 then a
      else match outOf items (rdDp c.raw) (rdDst c.op c.raw k) with
        | some (o, _) => addPacket l j.k c (rdDst c.op c.raw k) o (packetOf (rdSum c.op c.raw j.buf k)) a.2
        | none => a) r
    let both := (homes.flatMap fun k => List.range' (rdDst c.op c.raw k) 64).filter (rdBoth bn c.op c.raw j items false (rdDp c.raw))
    if !r.1 || both.isEmpty then (r.1, bs, r.2)
    else
      let (open_, s) := freeWhere (fun _ => true) (both.map fun a => { at_ := a, val := 0 }) r.2
      let r := storePage (.lane l) j.k c.f c.tenant c.cls bn items (rdDp c.raw) j.buf open_ s
      (r.1, bs, r.2)

/-- The output ranges a page of a loaded tile writes. -/
def laneWrotes (j : Job) (c : Cmd) (items : List Item) (page : Nat) : List (OutKind × Nat × Nat) :=
  if c.op = 0x34 then wroteOuts items (rdSp c.raw) ((laterWins ((rdRepairs c.raw j.tile j.buf).filter fun (b : PByte) => b.at_ / 4096 = page)).map (·.2))
  else segOuts items (((rdTile c.raw j.tile).filter fun k => rdDst c.op c.raw k / 4096 = page).map fun k => ⟨0, rdDp c.raw, rdDst c.op c.raw k, rdDstSize c.op c.raw⟩)

/-- The old packets a page of an ACC tile lacks: its page came to be host memory after the tile was read (R144). -/
def laneLacking (bn : Option (Nat × Slot)) (j : Job) (c : Cmd) (items : List Item) (page : Nat) : List Seg :=
  if !rdAcc c.raw || c.op = 0x34 || bn.isSome then []
  else ((rdSegs bn c.op c.raw j.tile items).filter (·.side = 2)).flatMap fun g =>
    ((pieces 64 g.addr g.len).filter fun p => p.1 / 4096 = page && !(j.buf.any fun b => b.at_ = sideAt 2 p.1)).map fun p => ⟨2, g.space, p.1, p.2⟩

/-- Whether lane l's requests and writes for its tile are all answered or performed, so that what a home finds reaches the status (R467). -/
def laneQuiet (s : State) (l : Nat) : Bool :=
  !remoteOpen s (.lane l) && !(s.mem.queue.any fun o => o.who = .lane l) && ((getLane s l).all fun j => writesPerformed s j.k)

/-- A tile is whole: the lane goes on, or writes the record and ends its command. A comparison counts a tile when it is committed, and keeps its
plan until the next tile's, so that a stop between tiles finds the record's page. -/
def laneDone (l : Nat) (j : Job) (c : Cmd) (s : State) : State :=
  let n := j.tile + 1
  let j := if c.op = 0x34 then rdCount3 c.raw j.tile j else j
  let s := updCmd j.k (fun c => { c with done := n }) s
  if n < rdTiles c.raw then
    setLaneJob l { k := j.k, tile := n, buf := if c.op = 0x34 then j.buf else [], mism := j.mism, first := j.first, noMaj := j.noMaj, reads := j.reads, wrotes := j.wrotes, freed := j.freed }
      (if c.op = 0x34 then s else dropPlan (.lane l) s)
  else
    let s := if c.op = 0x34 then writeRecord l j c s else s
    freeLane l (finishWhole j.k n s)

/-- The row of REDUCE opcode op on lane l: take its tile as far as answers are there, and write the next page of a loaded tile. -/
def laneStep (op l : Nat) (s : State) : State :=
  match (getLane s l).bind fun j => getCmd s j.k with
  | none => s
  | some c0 =>
    if c0.op ≠ op || rampHolds s then s
    else
      let s := (List.range 3).foldl (fun s _ => lanePass l s) s
      match getLane s l with
      | none => s
      | some j =>
        match getCmd s j.k with
        | none => freeLane l s
        | some c =>
          if j.phase ≠ .loaded then s
          else match c.cut false with
          | some (st, d) => laneStop l j (finish j.k st d j.tile c.fault) s
          | none =>
            match planAt s (.lane l) with
            | .waiting => planAdvance (.lane l) s
            | .failed it b => laneStop l j (stopCmd j.k j.tile it.first b) s
            | .ready items =>
              let ps := lanePieces op c.raw j
              match ps[j.wrote]? with
              | some page =>
                let sp := if op = 0x34 then rdSp c.raw else rdDp c.raw
                match (if isHost items sp (page * 4096) then hostLoss j.k s else none) with
                | some s => if (getCmd s j.k).any (·.phase = .finished) then laneStop l j id s else s
                | none =>
                  let bn := bounceOf s c.f c.ctx
                  let lacking := laneLacking bn j c items page
                  if !lacking.isEmpty then
                    (match issueSegs (.lane l) j.k c.f c.tenant c.cls items lacking s with
                    | .waits s => s
                    | .lost s => laneStop l j (finish j.k stLinkGone 0 j.tile 0) s
                    | .done bs s => setLaneJob l { j with phase := .reading, buf := bs ++ j.buf } s)
                  else match lanePage l j c items page s with
                  | (false, _, s) => laneStop l j (finish j.k stLinkGone 0 j.tile 0) s
                  | (true, bs, s) =>
                    let j := { j with wrote := j.wrote + 1, wrotes := laneWrotes j c items page ++ j.wrotes, buf := unitBytes bn sp bs ++ j.buf }
                    if j.wrote = ps.length && laneQuiet s l then laneDone l j c s else setLaneJob l j s
              | none => if laneQuiet s l then laneDone l j c s else s

/-- REDUCE_LANE_ASSIGN: the oldest waiting REDUCE goes to idle lane l (R315). -/
def laneAssign (l : Nat) (s : State) : State :=
  if mhas s.gm.lanes l || s.tg.ckpt || s.sl.h ≠ 0 || rampHolds s then s
  else match s.qe.cmds.find? fun p => p.2.phase = .ready && 0x30 ≤ p.2.op && p.2.op < 0x40 && !onUnitK s p.1 with
    | some (k, _) => setLaneJob l { k := k } (updCmd k (fun c => { c with phase := .running }) s)
    | none => s

/-! ### The commands -/

/-- RED_PACK on lane l. -/
def execRedPack (l : Nat) (s : State) : Host.Outcome State Fault Refusal := onUnit l 8 (laneStep 0x30 l s)
/-- RED_MERGE on lane l. -/
def execRedMerge (l : Nat) (s : State) : Host.Outcome State Fault Refusal := onUnit l 8 (laneStep 0x31 l s)
/-- RED_ROUND on lane l. -/
def execRedRound (l : Nat) (s : State) : Host.Outcome State Fault Refusal := onUnit l 8 (laneStep 0x32 l s)
/-- RED_SUM on lane l. -/
def execRedSum (l : Nat) (s : State) : Host.Outcome State Fault Refusal := onUnit l 8 (laneStep 0x33 l s)
/-- RED_COMPARE on lane l. -/
def execRedCompare (l : Nat) (s : State) : Host.Outcome State Fault Refusal := onUnit l 8 (laneStep 0x34 l s)
/-- REDUCE_LANE_ASSIGN. -/
def execReduceLaneAssign (l : Nat) (s : State) : Host.Outcome State Fault Refusal := onUnit l 8 (laneAssign l s)

end Sys2Proof.Machine
end

