-- ==== Sys2Proof/Machine/Atomics.lean ====
section
/-! DEFINITION. ATOMIC commands (R171 to R176, R556, R567), FENCE commands (R187 to R189), NOP, and the rows of the Queue Engine:
fetch, arrival, dispatch, completion, interrupts and flushing reads (R74 to R77, R82, R85, R168). -/

namespace Sys2Proof.Machine

/-! ### ATOMIC -/

/-- ADDR of an atomic. -/
def atAddr (raw : List Byte) : Nat := fld raw 24 8
/-- RESULT_ADDR. -/
def atResult (raw : List Byte) : Nat := fld raw 32 8
/-- Operand A. -/
def atA (raw : List Byte) : Nat := fld raw 40 (atSize raw)
/-- Swap value B of CAS. -/
def atB (raw : List Byte) : Nat := fld raw 56 (atSize raw)
/-- The space of ADDR. -/
def atSpace (raw : List Byte) : Nat := bits (fld raw 16 1) 1 0
/-- The space of RESULT_ADDR. -/
def atResSpace (raw : List Byte) : Nat := bits (fld raw 18 1) 1 0
/-- Bytes written to RESULT_ADDR, R175. -/
def atResLen (raw : List Byte) : Nat := Nat.max 8 (atSize raw)

/-- The pages an atomic plans, R174. -/
def atItems (bn : Option (Nat × Slot)) (raw : List Byte) : List Item :=
  let l := touchIo bn (atSpace raw) (atAddr raw) (atSize raw) ⟨false, false, true⟩ []
  if atResultEn raw then touchIo bn (atResSpace raw) (atResult raw) (atResLen raw) wrRights l else l

/-- An atomic ends; its plan goes. -/
def atEnd (k : Nat) (s : State) : State := dropPlan (.atomicUnit k) s

/-- The journal number of the atomic unit (log entry 22). -/
def atomicSource : Nat := 148

/-- The unit a bounce context's atomic on host memory acts in, as it is read (R471). -/
def atUnit (bn : Option (Nat × Slot)) (raw : List Byte) : List Seg := widen bn ⟨2, 0, atAddr raw, atSize raw⟩

/-- An atomic of a bounce context on host memory, whose unit has come: its unit is opened, changed and sealed again (R471, R472). -/
def atInUnit (k : Nat) (c : Cmd) (aop : AOp) (s : State) : State :=
  let raw := c.raw
  let bn := bounceOf s c.f c.ctx
  match c.stop, planAt s (.atomicUnit k) with
  | some (st, d), _ => atEnd k (finish k st d 0 c.fault s)
  | none, .ready items =>
    if ioOpen s (.atomicUnit k) then s
    else
      let (buf, s) := openAll k bn (atUnit bn raw) c.buf s
      let was := bufBytes buf 2 (atAddr raw) (atSize raw)
      if (ppoison was).isSome then atEnd k (finishWhole k 0 s)
      else
        let v := pnum was
        let new := leBytes (atSize raw) (atomicNew aop (atSize raw) v (atA raw) (atB raw))
        match storePage (.atomicUnit k) k c.f c.tenant c.cls bn items 0 buf (asPBytes (atAddr raw) new) s with
        | (true, s) => updCmd k (fun c => { c with stage := 2, buf := [], old := some v, done := 1 }) s
        | (false, s) => atEnd k (finish k stLinkGone 0 0 0 s)
  | none, .failed it b => atEnd k (stopCmd k 0 it.first b s)
  | none, .waiting => planAdvance (.atomicUnit k) s

/-- Send a planned atomic to its home (R171, R176). -/
def atSend (k : Nat) (c : Cmd) (aop : AOp) (items : List Item) (s : State) : State :=
  let raw := c.raw
  let sent (s : State) : State := updCmd k (fun c => { c with stage := 2 }) s
  match outOf items (atSpace raw) (atAddr raw) with
  | none => s
  | some (o, .host) =>
    match hostLoss k s with
    | some s => s
    | none =>
      let bn := if atSpace raw = 0 then bounceOf s c.f c.ctx else none
      if 0x42 < c.op || !(fnCfg s c.f).atomicReq then atEnd k (finish k stField 0 0 0 s)
      else if bn.isSome then
        match issueSegs (.atomicUnit k) k c.f c.tenant c.cls items (atUnit bn raw) s with
        | .waits s => s
        | .lost s => atEnd k (finish k stLinkGone 0 0 0 s)
        | .done bs s => updCmd k (fun c => { c with stage := 5, buf := bs }) s
      else updCmd k (fun c => { c with aux := 1 }) (sent (emit (.hostAtomic (steer s o) k o aop (atSize raw) (atA raw) (atB raw) (cmdTag s k c.f)) s))
  | some (o, .dpa) =>
    if region s o = 4 then
      let (q, s) := hubSeq s
      match sendRemote (.atomicUnit k) 2 (atAddr raw) (atSize raw) o (.nonIdem q (.atomic aop (atSize raw) (atA raw) (atB raw))) s with
      | (some _, s) => sent s
      | (none, s) => atEnd k (finish k stLinkGone 0 0 0 s)
    else
      let ((src, q), s) := journalId atomicSource s
      issue (o / 64 * 64) c.tenant false (fnOrigin c.f) c.cls (.atomic aop (atSize raw) (atA raw) (atB raw) (o % 64)) (.atomicUnit k)
        (some (src, q)) (sent s)

/-- The result is written: the atomic ends, FAULT at RESULT_ADDR where the write was refused (R175), HOST_DETACHED where the host is lost
(R452). -/
def atResultDone (k : Nat) (c : Cmd) (s : State) : State :=
  atEnd k (match (getCmd s k).bind (·.stop) with
    | some (st, _) => if st = stDetached then finish k stDetached 0 1 0 s else finish k stFault 0 1 (atResult c.raw) s
    | none => finishWhole k 1 s)

/-- Whether a result write is on its way to its home or its window. -/
def atResultOpen (s : State) (k : Nat) : Bool := remoteOpen s (.atomicUnit k) || !writesPerformed s k

/-- Write a performed atomic's old value to RESULT_ADDR (R175): first the bounce unit is read where there is one. -/
def atWriteResult (k : Nat) (c : Cmd) (s : State) : State :=
  let raw := c.raw
  let failed (d : Nat) (s : State) : State := atEnd k (finish k stFault d 1 (atResult raw) s)
  let bn := if atResSpace raw = 0 then bounceOf s c.f c.ctx else none
  let mine := touchIo bn (atResSpace raw) (atResult raw) (atResLen raw) wrRights []
  let keep (it : Item) : Bool := mine.any fun x => x.space = it.space && x.page = it.page
  let s := match getPlan s (.atomicUnit k) with
    | some p => setPlan { p with items := p.items.filter keep } s
    | none => s
  match planAt s (.atomicUnit k) with
  | .waiting => match (if atResSpace raw = 0 then hostLoss k s else none) with
    | some s => s
    | none => planAdvance (.atomicUnit k) s
  | .failed _ b => failed (if b = .timeout then 1 else 0) s
  | .ready items =>
    match (if isHost items (atResSpace raw) (atResult raw) then hostLoss k s else none) with
    | some s => s
    | none =>
      if bn.isSome && c.stage = 2 then
        match issueSegs (.atomicUnit k) k c.f c.tenant c.cls items (widen bn ⟨2, 0, atResult raw, atResLen raw⟩) s with
        | .waits s => s
        | .lost s => failed 0 s
        | .done bs s => updCmd k (fun c => { c with stage := 3, buf := bs }) s
      else if ioOpen s (.atomicUnit k) then s
      else
        let (buf, s) := if bn.isSome then openAll k bn (widen bn ⟨2, 0, atResult raw, atResLen raw⟩) c.buf s else (c.buf, s)
        let bs := asPBytes (atResult raw) (leBytes (atResLen raw) (c.old.getD 0))
        match storePage (.atomicUnit k) k c.f c.tenant c.cls bn items (atResSpace raw) buf bs s with
        | (true, s) => if atResultOpen s k then updCmd k (fun c => { c with stage := 4 }) s else atResultDone k c s
        | (false, s) => failed 0 s

/-- The row of an ATOMIC opcode for command k. -/
def atomicStep (op k : Nat) (s : State) : State :=
  match getCmd s k, aopOf op with
  | some c, some aop =>
    if c.op ≠ op || c.phase = .finished || c.phase = .fence || (c.phase = .ready && s.tg.ckpt) then s
    else if c.stage = 0 then
      let items := atItems (bounceOf s c.f c.ctx) c.raw
      match c.stop with
      | some (st, d) => finish k st d 0 0 s
      | none => match (if needsHost items then hostLoss k s else none) with
        | some s => s
        | none =>
          planStart { who := .atomicUnit k, f := c.f, pasid := c.pasid, tenant := c.tenant, report := c.report, cls := c.cls, items := items }
            (updCmd k (fun c => { c with stage := 1, phase := .running }) s)
    else if c.stage = 1 then
      match c.stop with
      | some (st, d) => atEnd k (finish k st d 0 0 s)
      | none => match planAt s (.atomicUnit k) with
        | .waiting => match (if (getPlan s (.atomicUnit k)).any (fun p => needsHost p.items) then hostLoss k s else none) with
          | some s => s
          | none => planAdvance (.atomicUnit k) s
        | .failed it b => atEnd k (stopCmd k 0 it.first b s)
        | .ready items => atSend k c aop items s
    else if c.stage = 5 then atInUnit k c aop s
    else if c.old.isNone then s
    else if c.stage = 4 then (if atResultOpen s k then s else atResultDone k c s)
    else if atResultEn c.raw then atWriteResult k c s
    else atEnd k (finishWhole k 1 s)
  | _, _ => s

/-- A host's answer to a PCIe AtomicOp (R176). -/
def hostAtomicDone (k : Nat) (a : AtomicAnswer) (s : State) : State :=
  match getCmd s k with
  | some c =>
    if (aopOf c.op).isNone || c.aux ≠ 1 || c.old.isSome || c.phase ≠ .running then s
    else match a with
      | .old v => updCmd k (fun c => { c with old := some (v % 2 ^ (8 * atSize c.raw)), done := 1 }) s
      | .unsupported => atEnd k (finish k stFault 0 0 (atAddr c.raw) s)
  | none => s

/-- A host atomic reaches its completion timeout (R556). -/
def hostAtomicLate (k : Nat) (s : State) : State :=
  match getCmd s k with
  | some c =>
    if (aopOf c.op).isNone || c.aux ≠ 1 || c.old.isSome || c.phase ≠ .running then s
    else atEnd k (finish k stPoisoned 0 0 (atAddr c.raw) s)
  | none => s

/-! ### NOP and FENCE -/

/-- NOP ends at once. -/
def nopGo (k : Nat) (s : State) : State :=
  match startable s k 0x00 with
  | some _ => finish k stSuccess 0 0 0 s
  | none => s

/-- FENCE_SCOPE: every earlier command of its SQ has completed (R188); its visibility is COMPLETION_RECORD_WRITE's. -/
def fenceScopeGo (k : Nat) (s : State) : State :=
  match startable s k 0x50 with
  | some c => if s.qe.cmds.any fun p => p.2.sq = c.sq && p.2.n < c.n then s else finish k stSuccess 0 0 0 s
  | none => s

/-- FENCE_SET (R189). -/
def fenceSetGo (k : Nat) (s : State) : State :=
  match startable s k 0x51 with
  | some c =>
    let n := fld c.raw 16 2
    if fenceOk s c.f n then finish k stSuccess 0 0 0 (checkWaiters n (setFence n { value := BitVec.ofNat 64 (fld c.raw 24 8), status := 0 } s))
    else finish k stFence 0 0 0 s
  | none => s

/-! ### Queue Engine rows -/

/-- The backoff of a re-read ends: the entry is read again (R74), once a read may go out (R77, R84). -/
def refetch (q : Nat) (s : State) : State :=
  match mget s.qe.sqs q with
  | some sq => if sq.backoff && readRoom s sq then issueFetch q sq.checkNext (updSq q (fun sq => { sq with backoff := false, tries := sq.tries + 1 }) s) else s
  | none => s

/-- IRQ_TIME passes since the oldest unsignalled record of CQ q (R85). -/
def irqTime (q : Nat) (s : State) : State :=
  match mget s.qe.cqs q with
  | some c => if 64 ≤ q && c.irqTime ≠ 0 && c.unsignalled ≠ 0 then signalCq q s else s
  | none => s

/-- A flushing read returns (R168, R139 step 5). -/
def flushDone (id : Nat) (s : State) : State :=
  match s.gw.flushes.find? fun g => g.id = id with
  | none => s
  | some g =>
    let s := { s with gw := { s.gw with flushes := s.gw.flushes.filter fun h => h.id ≠ id } }
    let s := match g.k with
      | some k => updCmd k (fun c => { c with flushes := c.flushes.filter (· ≠ id) }) s
      | none => s
    match g.inv with
    | some i => invFinish i s
    | none => s

/-! ### The commands -/

/-- FETCH_TURN. -/
def execFetchTurn (sq : Nat) (s : State) : Host.Outcome State Fault Refusal := onUnit sq 8192 (fetchTurnStep sq s)
/-- ENTRY_ARRIVAL. -/
def execEntryArrival (sq n : Nat) (data : List Byte) (poison : Bool) (s : State) : Host.Outcome State Fault Refusal :=
  onUnit sq 8192 (arrive sq n data poison s)
/-- REFETCH_BACKOFF_EXPIRY. -/
def execRefetchBackoffExpiry (sq : Nat) (s : State) : Host.Outcome State Fault Refusal := onUnit sq 8192 (refetch sq s)
/-- DISPATCH. -/
def execDispatch (sq : Nat) (s : State) : Host.Outcome State Fault Refusal := onUnit sq 8192 (dispatchStep sq s)
/-- COMPLETION_RECORD_WRITE. -/
def execCompletionRecordWrite (k : Nat) (s : State) : Host.Outcome State Fault Refusal := .next (tryComplete k s)
/-- IRQ_TIME_EXPIRY. -/
def execIrqTimeExpiry (cq : Nat) (s : State) : Host.Outcome State Fault Refusal := onUnit cq 8192 (irqTime cq s)
/-- NOP. -/
def execNop (k : Nat) (s : State) : Host.Outcome State Fault Refusal := .next (nopGo k s)
/-- FENCE_SCOPE. -/
def execFenceScope (k : Nat) (s : State) : Host.Outcome State Fault Refusal := .next (fenceScopeGo k s)
/-- FENCE_SET. -/
def execFenceSet (k : Nat) (s : State) : Host.Outcome State Fault Refusal := .next (fenceSetGo k s)
/-- FETCH_ADD. -/
def execFetchAdd (k : Nat) (s : State) : Host.Outcome State Fault Refusal := .next (atomicStep 0x40 k s)
/-- SWAP. -/
def execSwap (k : Nat) (s : State) : Host.Outcome State Fault Refusal := .next (atomicStep 0x41 k s)
/-- CAS. -/
def execCas (k : Nat) (s : State) : Host.Outcome State Fault Refusal := .next (atomicStep 0x42 k s)
/-- FETCH_MIN_S. -/
def execFetchMinS (k : Nat) (s : State) : Host.Outcome State Fault Refusal := .next (atomicStep 0x43 k s)
/-- FETCH_MAX_S. -/
def execFetchMaxS (k : Nat) (s : State) : Host.Outcome State Fault Refusal := .next (atomicStep 0x44 k s)
/-- FETCH_MIN_U. -/
def execFetchMinU (k : Nat) (s : State) : Host.Outcome State Fault Refusal := .next (atomicStep 0x45 k s)
/-- FETCH_MAX_U. -/
def execFetchMaxU (k : Nat) (s : State) : Host.Outcome State Fault Refusal := .next (atomicStep 0x46 k s)
/-- FETCH_AND. -/
def execFetchAnd (k : Nat) (s : State) : Host.Outcome State Fault Refusal := .next (atomicStep 0x47 k s)
/-- FETCH_OR. -/
def execFetchOr (k : Nat) (s : State) : Host.Outcome State Fault Refusal := .next (atomicStep 0x48 k s)
/-- FETCH_XOR. -/
def execFetchXor (k : Nat) (s : State) : Host.Outcome State Fault Refusal := .next (atomicStep 0x49 k s)

end Sys2Proof.Machine
end

