-- ==== Sys2Proof/Machine/Admin.lean ====
section
/-! DEFINITION. The admin commands of queues, contexts, fence blocks and recipes: R54, R55, R89 to R98, R190, R277 to R279. -/

namespace Sys2Proof.Machine

/-- The admin command k of opcode op, if it may begin (R90 keeps one of a function at a time). -/
def adminAt (s : State) (k op : Nat) : Option Cmd :=
  match startable s k op with
  | some c => if c.sq < 64 && adminCoreUp s c.f then some c else none
  | none => none

/-- An admin command in progress at a stage. -/
def adminIn (s : State) (k op : Nat) : Option Cmd :=
  match getCmd s k with
  | some c => if c.sq < 64 && c.op = op && c.phase = .running && adminCoreUp s c.f then some c else none
  | none => none

/-- End an admin command. -/
def adminEnd (k status detail done : Nat) (s : State) : State := finish k status detail done 0 s

/-- Take an admin command on to a stage. -/
def toStage (k n : Nat) (s : State) : State := updCmd k (fun c => { c with phase := .running, stage := n }) s

/-- A choice the hub makes among free numbers: which one is free (R92). -/
def pickFree (l : List Nat) (s : State) : Option Nat × State :=
  match l with
  | [] => (none, s)
  | [a] => (some a, s)
  | a :: t => let (n, s) := draw s; (some (((a :: t)[(Config.freeWord n).toNat % (a :: t).length]?).getD a), s)

/-- The numbers lo to hi − 1 that a table does not list. -/
def freeNums {α : Type} (m : NMap α) (lo hi : Nat) : List Nat := (List.range' lo (hi - lo)).filter fun n => !mhas m n

/-- Choose a slot for a new object: the one named, or a free one (R55, R92). -/
def placeIn {α : Type} (m : NMap α) (lo hi want : Nat) (s : State) : Except Nat Nat × State :=
  if want = 0xFFFF then
    match pickFree (freeNums m lo hi) s with
    | (some n, s) => (.ok n, s)
    | (none, s) => (.error stNoResource, s)
  else if mhas m want then (.error stBusy, s)
  else (.ok want, s)

/-- The function a create command names, R93. -/
def namedFn (c : Cmd) (off : Nat) : Nat := if fld c.raw off 1 = 0xFF then c.f else fld c.raw off 1

/-- Whether a device-memory range lies wholly in the data range of one tier in service (R93, R102). -/
def inOneTier (s : State) (a n : Nat) : Bool :=
  let r := region s a
  (r = 0 || r = 1 || r = 2) && region s (a + n - 1) = r

/-- A quota field of a function, R55. -/
def quota (s : State) (f off hi lo : Nat) : Nat := bits (getReg s .qe f off) hi lo

/-! ### Queues -/

/-- Whether the partner at a berth may own an SQ, or a CQ (R98, R365). A berth whose partner is not ACTIVE (none, in training, in CARD_WAIT,
departing) is accepted: R98 speaks of an attached partner (DESIGN CHOICE, log entry 114). -/
def ownsQueues (s : State) (b : Nat) (cq : Bool) : Bool :=
  let be := getBerth s (lowerBerth s b)
  be.st ≠ 3 || (!be.cxl && bit be.caps 1 && (!cq || bit be.caps 2))

/-- QUEUE_CREATE_SQ. The quota is tested before the slot named: a create over quota that names a taken slot ends NO_RESOURCE (DESIGN CHOICE, log
entry 89). -/
def createSq (k : Nat) (s : State) : State :=
  match adminAt s k 0x80 with
  | none => s
  | some c =>
    let raw := c.raw
    let f := namedFn c 26
    let log2 := fld raw 20 1
    let berth := fld raw 23 1
    let cq := fld raw 18 2
    let owner := fld raw 24 2
    let base := fld raw 32 8
    let cqBad : Bool := match mget s.qe.cqs cq with | some q => q.f ≠ f || cq < 64 | none => true
    let ctxBad : Bool := match mget s.qe.ctxs owner with | some x => x.f ≠ f | none => true
    let have_ := (s.qe.sqs.filter fun p => 64 ≤ p.1 && p.2.f = f).length
    if fld raw 21 1 = 1 && !inOneTier s base (128 * 2 ^ log2) then adminEnd k stField 32 0 s
    else if c.f ≠ 0 && (f ≠ c.f || berth ≠ 0xFF) then adminEnd k stNotPermitted 0 0 s
    else if berth ≠ 0xFF && !ownsQueues s berth false then adminEnd k stNotPermitted 0 0 s
    else if cqBad then adminEnd k stField 18 0 s
    else if ctxBad then adminEnd k stField 24 0 s
    else if quota s f 0x054 28 16 ≤ have_ then adminEnd k stNoResource 0 0 s
    else match placeIn s.qe.sqs 64 8192 (fld raw 16 2) s with
      | (.error st, s) => adminEnd k st 0 0 s
      | (.ok q, s) =>
        let sq : Sq := { f := f, base := base, log2 := log2, device := fld raw 21 1 = 1, weight := fld raw 22 1,
                         berth := if berth = 0xFF then none else some berth, owner := owner, cq := cq, en := true }
        adminEnd k stSuccess 0 q { s with qe := { s.qe with sqs := mset s.qe.sqs q sq } }

/-- QUEUE_CREATE_CQ, its checks in the order of QUEUE_CREATE_SQ's (log entry 89). -/
def createCq (k : Nat) (s : State) : State :=
  match adminAt s k 0x81 with
  | none => s
  | some c =>
    let raw := c.raw
    let f := namedFn c 29
    let log2 := fld raw 20 1
    let berth := fld raw 28 1
    let base := fld raw 32 8
    let have_ := (s.qe.cqs.filter fun p => 64 ≤ p.1 && p.2.f = f).length
    if fld raw 21 1 = 1 && !inOneTier s base (32 * 2 ^ log2) then adminEnd k stField 32 0 s
    else if c.f ≠ 0 && (f ≠ c.f || berth ≠ 0xFF) then adminEnd k stNotPermitted 0 0 s
    else if berth ≠ 0xFF && !ownsQueues s berth true then adminEnd k stNotPermitted 0 0 s
    else if quota s f 0x054 12 0 ≤ have_ then adminEnd k stNoResource 0 0 s
    else match placeIn s.qe.cqs 64 8192 (fld raw 16 2) s with
      | (.error st, s) => adminEnd k st 0 0 s
      | (.ok q, s) =>
        let cq : Cq := { f := f, base := base, log2 := log2, device := fld raw 21 1 = 1, vector := fld raw 22 2, irqCount := fld raw 24 2,
                         irqTime := fld raw 26 2, berth := if berth = 0xFF then none else some berth }
        adminEnd k stSuccess 0 q { s with qe := { s.qe with cqs := mset s.qe.cqs q cq } }

/-- QUEUE_DESTROY: a CQ goes at once; for an SQ the fetch stops (R94). -/
def destroyQueue (k : Nat) (s : State) : State :=
  match adminAt s k 0x82 with
  | none => s
  | some c =>
    let slot := fld c.raw 16 2
    let fn := if fld c.raw 18 1 = 0 then (mget s.qe.sqs slot).map (·.f) else (mget s.qe.cqs slot).map (·.f)
    match fn with
    | none => adminEnd k stField 16 0 s
    | some f =>
      if slot < 64 then adminEnd k stField 16 0 s
      else if f ≠ c.f then adminEnd k stNotPermitted 0 0 s
      else if fld c.raw 18 1 = 1 then
        if s.qe.sqs.any fun p => p.2.cq = slot then adminEnd k stBusy 0 0 s
        else adminEnd k stSuccess 0 0 { s with qe := { s.qe with cqs := mdel s.qe.cqs slot } }
      else toStage k 1 (updSq slot (fun q => { q with en := false, destroying := true }) s)

/-- QUEUE_DESTROY_FINISH: once its dispatched commands have completed, the SQ goes with what it had not dispatched. An entry fetched before the
destroy may still be dispatched until then, and one that is left goes without a record (R94; DESIGN CHOICE, log entry 114). -/
def destroyQueueEnd (k : Nat) (s : State) : State :=
  match adminIn s k 0x82 with
  | none => s
  | some c =>
    let slot := fld c.raw 16 2
    if s.qe.cmds.any fun p => p.2.sq = slot then s
    else adminEnd k stSuccess 0 0 { s with qe := { s.qe with sqs := mdel s.qe.sqs slot } }

/-! ### Fence blocks -/

/-- Every fence of a block takes status ABANDONED. -/
def abandonBlock (b : Nat) (s : State) : State := (List.range 256).foldl (fun s i => failFence (256 * b + i) 2 s) s

/-- A block's page OWNER by R190: for its function, or for none. -/
def ownBlock (b : Nat) (f : Option Nat) (s : State) : State :=
  setReg (.qeFb b) 0 0x008 (match f with | some f => if f = 0 then 0x0D else f * 65536 + 0x0F | none => 0x0D) s

/-- Free a fence block (R92, R190). -/
def freeBlock (b : Nat) (s : State) : State :=
  let s := ownBlock b none (abandonBlock b s)
  { s with qe := { s.qe with blocks := mdel s.qe.blocks b } }

/-- FENCE_ALLOC. -/
def fenceAllocGo (k : Nat) (s : State) : State :=
  match adminAt s k 0x88 with
  | none => s
  | some c =>
    let cx := fld c.raw 16 2
    let n := fld c.raw 18 1
    match mget s.qe.ctxs cx with
    | none => adminEnd k stContext 0 0 s
    | some x =>
      let have_ := (s.qe.blocks.filter fun p => p.2.f = x.f).length
      let runs := (List.range (257 - n)).filter fun b => (List.range n).all fun i => !mhas s.qe.blocks (b + i)
      if x.f ≠ c.f then adminEnd k stNotPermitted 0 0 s
      else if quota s x.f 0x058 8 0 < have_ + n then adminEnd k stNoResource 0 0 s
      else match pickFree runs s with
        | (none, s) => adminEnd k stNoResource 0 0 s
        | (some b, s) =>
          let s := { s with qe := { s.qe with fences := s.qe.fences.filter fun p => !(256 * b ≤ p.1 && p.1 < 256 * (b + n)) } }
          let s := (List.range n).foldl (fun s i =>
            ownBlock (b + i) (some x.f) { s with qe := { s.qe with blocks := mset s.qe.blocks (b + i) { f := x.f, ctx := cx } } }) s
          adminEnd k stSuccess 0 b s

/-- FENCE_FREE. -/
def fenceFreeGo (k : Nat) (s : State) : State :=
  match adminAt s k 0x89 with
  | none => s
  | some c =>
    let b := fld c.raw 16 1
    match mget s.qe.blocks b with
    | none => adminEnd k stField 16 0 s
    | some x => if x.f ≠ c.f then adminEnd k stNotPermitted 0 0 s else adminEnd k stSuccess 0 0 (freeBlock b s)

/-! ### Contexts -/

/-- CONTEXT_CREATE. R106 refuses PASID_VALID without the function's PASID Enable and ATS Enable, at the PASID field's first byte. -/
def createCtx (k : Nat) (s : State) : State :=
  match adminAt s k 0x84 with
  | none => s
  | some c =>
    let raw := c.raw
    let f := namedFn c 25
    let have_ := (s.qe.ctxs.filter fun p => p.2.f = f).length
    if bit (fld raw 20 4) 31 && !((fnCfg s f).pasid && (fnCfg s f).ats) then adminEnd k stField 20 0 s
    else if c.f ≠ 0 && f ≠ c.f then adminEnd k stNotPermitted 0 0 s
    else if quota s f 0x058 28 16 ≤ have_ then adminEnd k stNoResource 0 0 s
    else match placeIn s.qe.ctxs 0 4096 (fld raw 16 2) s with
      | (.error st, s) => adminEnd k st 0 0 s
      | (.ok n, s) =>
        let p := fld raw 20 4
        let x : Ctx := { f := f, pasid := if bit p 31 then some (p % 2 ^ advertised.pasidWidth) else none, report := bit (fld raw 24 1) 0, drop := bit (fld raw 24 1) 1 }
        adminEnd k stSuccess 0 n { s with qe := { s.qe with ctxs := mset s.qe.ctxs n x } }

/-- CONTEXT, function and PASID as CTX_BIND and CTX_UNBIND carry them (R358). -/
def bindMsg (typ cx : Nat) (x : Ctx) : BresaMsg := bmsg 2 typ 0 cx 0 0 0 (x.f + x.pasid.getD 0 * 2 ^ 8) [] false

/-- A context granted to a berth is revoked (R368). -/
def revokeGrant (b cx : Nat) (s : State) : State :=
  let be := getBerth s b
  if !be.grants.contains cx then s
  else
    let s := updBerth b (fun be => { be with grants := be.grants.erase cx }) s
    match mget s.qe.ctxs cx with
    | some x =>
      if bit be.caps 1 then sendBresa b (bindMsg 0x11 cx x) (updBerth b (fun be => { be with unbinds := cx :: be.unbinds }) s) else s
    | none => s

/-- The context an admin command names, or how it ends: not created, or of another function. -/
def adminCtx (s : State) (c : Cmd) : Except Nat Ctx :=
  match mget s.qe.ctxs (fld c.raw 16 2) with
  | none => .error stContext
  | some x => if x.f ≠ c.f then .error stNotPermitted else .ok x

/-- CONTEXT_DESTROY (R96). A context is used once an I/O entry of it has been dispatched; owning SQs or fence blocks is no use (DESIGN CHOICE, log
entry 90). An SQ keeps the number of its owner: a later context of that number owns it (DESIGN CHOICE, log entry 114). -/
def destroyCtx (k : Nat) (s : State) : State :=
  match adminAt s k 0x85 with
  | none => s
  | some c =>
    let n := fld c.raw 16 2
    match adminCtx s c with
    | .error st => adminEnd k st 0 0 s
    | .ok x =>
      if !x.drained && (x.used || x.draining) then adminEnd k stBusy 0 0 s
      else
        let s := ((s.qe.blocks.filter fun p => p.2.ctx = n).map (·.1)).foldl (fun s b => freeBlock b s) s
        let s := (List.range 8).foldl (fun s b => revokeGrant b n s) s
        adminEnd k stSuccess 0 0 { s with qe := { s.qe with ctxs := mdel s.qe.ctxs n } }

/-- Abort the entries of SQ q that wait for dispatch: all of an owned SQ, which complete in ring order as step 2 of R95 states, or those naming
the context. -/
def abortReady (q n : Nat) (s : State) : State :=
  match mget s.qe.sqs q with
  | none => s
  | some sq =>
    let hit (raw : List Byte) : Bool := raw ≠ [] && (sq.owner = n || bits (fld raw 2 2) 11 0 = n)
    let gone := sq.ready.filter fun p => hit p.2
    let s := gone.foldl (fun s p => enter { newCmd s q p.1 sq.f p.2 with phase := .finished, status := stAborted, sigOk := true, inOrder := sq.owner = n } s) s
    let left := sq.ready.map fun p => if hit p.2 then (p.1, []) else p
    let r := skipRefused (left.length + 1) left sq.next
    countAborted n gone.length (updSq q (fun sq => { sq with ready := r.1, next := r.2 }) s)

/-- Step 1 of R95. -/
def drainBegin (n : Nat) (s : State) : State :=
  let s := { s with qe := { s.qe with ctxs := mupd s.qe.ctxs n fun x => { x with draining := true, aborted := 0 } } }
  let owned := (s.qe.sqs.filter fun p => 64 ≤ p.1 && p.2.owner = n).map (·.1)
  let s := owned.foldl (fun s q => updSq q (fun sq => { sq with en := false, draining := true, backoff := false }) s) s
  let waiting := s.qe.cmds.filter fun p => 64 ≤ p.2.sq && p.2.ctx = n && p.2.phase = .fence
  let s := waiting.foldl (fun s p => finish p.1 stAborted 0 0 0 s) s
  let s := countAborted n waiting.length s
  ((s.qe.sqs.filter fun p => 64 ≤ p.1).map (·.1)).foldl (fun s q => abortReady q n s) s

/-- Whether the entry to be checked next was fetched before and found not written: it is read once more in a drain, without refetch. -/
def Sq.lapsed (q : Sq) : Bool := q.checkNext < q.fetchNext && !q.issued.contains q.checkNext && !mhas q.arrived q.checkNext

/-- Step 2 of R95: issue the fetches of an owned SQ's entries up to its tail, as far as R77 and R84 allow. -/
def drainFetch (q : Nat) (s : State) : State :=
  match mget s.qe.sqs q with
  | none => s
  | some sq =>
    if sq.drainEnd || !readRoom s sq then s
    else
      let s := if sq.lapsed then issueFetch q sq.checkNext s else s
      let n := Nat.min (sq.tailCount - sq.fetchNext) (512 - fetchesOut s)
      let s := (List.range n).foldl (fun s i => issueFetch q (sq.fetchNext + i) s) s
      updSq q (fun sq => { sq with fetchNext := sq.fetchNext + n }) s

/-- Whether step 2 of R95 has ended for an SQ: it met an entry not written, or has checked every entry up to its tail. -/
def Sq.drainedOut (q : Sq) : Bool := q.drainEnd || q.tailCount ≤ q.checkNext

/-- CONTEXT_DRAIN: step 1, and the first fetches of step 2. A drained context has nothing to drain: SUCCESS at once, DONE 0 (DESIGN CHOICE, log
entry 114). -/
def drainCtx (k : Nat) (s : State) : State :=
  match adminAt s k 0x86 with
  | none => s
  | some c =>
    let n := fld c.raw 16 2
    match adminCtx s c with
    | .error st => adminEnd k st 0 0 s
    | .ok x =>
      if x.drained then adminEnd k stSuccess 0 0 s
      else
        let s := toStage k 1 (drainBegin n s)
        ((s.qe.sqs.filter fun p => 64 ≤ p.1 && p.2.owner = n).map (·.1)).foldl (fun s q => drainFetch q s) s

/-- CONTEXT_DRAIN_FINISH: steps 2 to 6 of R95, as far as each has ended. -/
def drainCtxEnd (k : Nat) (s : State) : State :=
  match adminIn s k 0x86 with
  | none => s
  | some c =>
    let n := fld c.raw 16 2
    let x := (mget s.qe.ctxs n).getD { f := c.f, pasid := none, report := false, drop := false }
    let owned := s.qe.sqs.filter fun p => 64 ≤ p.1 && p.2.owner = n && p.2.draining
    let step5 (s : State) : State :=
      let s := ((s.qe.blocks.filter fun p => p.2.ctx = n).map (·.1)).foldl (fun s b => abandonBlock b s) s
      adminEnd k stSuccess 0 (match getCmd s k with | some c => c.aux | none => 0) { s with qe := { s.qe with ctxs := mupd s.qe.ctxs n fun x => { x with drained := true } } }
    if c.stage = 1 then
      if owned.all fun p => p.2.drainedOut then updCmd k (fun c => { c with stage := 2, aux := x.aborted }) s
      else (owned.map (·.1)).foldl (fun s q => drainFetch q s) s
    else if c.stage = 2 then
      if s.qe.cmds.any fun p => 64 ≤ p.2.sq && p.2.ctx = n && p.2.phase ≠ .finished then s
      else match x.pasid with
        | some p => updCmd k (fun c => { c with stage := 3 }) (invStart (.drain k) x.f (some p) false 3 0 (2 ^ 64) s)
        | none => step5 s
    else if s.tu.invs.any fun v => v.src = .drain k then s
    else step5 s

/-! ### Recipes -/

/-- A rejected RECIPE_STORE, R278. -/
def recipeReject (k f step : Nat) (s : State) : State :=
  adminEnd k stField 24 0 (raise .ch 0 (setReg .ch 0 0x044 (step * 2 ^ 16 + f) s))

/-- Place the steps read by RECIPE_STORE k: the steps are checked first (check 7 of R572), then the recipe's owner and the store's room (R278): with
all 1,024 in use every store ends NO_RESOURCE. -/
def recipePlace (k : Nat) (c : Cmd) (bs : List PByte) (s : State) : State :=
  let n := fld c.raw 18 1
  let a := fld c.raw 24 8
  let at_ (i : Nat) : List PByte := bufBytes bs 0 (a + 4 * i) 4
  let steps := (List.range n).map fun i => BitVec.ofNat 32 (pnum (at_ i))
  let num := fld c.raw 16 2
  match (List.range n).find? fun i => (ppoison (at_ i)).isSome with
  | some i => recipeReject k c.f i s
  | none => match firstBadStep steps with
    | some i => recipeReject k c.f i s
    | none =>
      let r : Recipe := { f := c.f, steps := steps }
      let store (j : Nat) (s : State) : State := adminEnd k stSuccess 0 j { s with qe := { s.qe with recipes := mset s.qe.recipes j r } }
      if num ≠ 0xFFFF && (mget s.qe.recipes num).any (·.f ≠ c.f) then adminEnd k stNotPermitted 0 0 s
      else if num ≠ 0xFFFF && s.qe.recipes.length < 1024 then store num s
      else match pickFree (freeNums s.qe.recipes 0 1024) s with
        | (some j, s) => store j s
        | (none, s) => adminEnd k stNoResource 0 0 s

/-- RECIPE_STORE: the step array is read, then checked and stored (R277, R278). -/
def recipeStoreGo (k : Nat) (s : State) : State :=
  match getCmd s k with
  | none => s
  | some c =>
    if c.sq ≥ 64 || c.op ≠ 0x8C || !adminCoreUp s c.f then s
    else
      let raw := c.raw
      let a := fld raw 24 8
      let n := 4 * fld raw 18 1
      let sp := fld raw 19 1
      let cls := bits (getReg s .ms 0 0x090) 18 16
      let seg : Seg := ⟨0, if sp = 0 then 0 else sp, a, n⟩
      let endPlan (s : State) : State := dropPlan (.recipe k) s
      match c.phase with
      | .ready =>
        if s.tg.ckpt then s
        else if sp = 0 then
          (if s.gw.detached then s else toStage k 2 (hostRead (plainTag c.f) (.recipe k) (sideAt 0 a) a n s))
        else
          planStart { who := .recipe k, f := c.f, pasid := none, tenant := c.f, report := false, cls := cls,
                      items := touch sp a n rdRights [] } (toStage k 1 s)
      | .running =>
        if c.stage = 1 then
          match planAt s (.recipe k) with
          | .waiting => planAdvance (.recipe k) s
          | .failed it b => endPlan (stopCmd k 0 it.first b s)
          | .ready items =>
            match issueSegs (.recipe k) k c.f c.f cls items [seg] s with
            | .waits s => s
            | .lost s => endPlan (finish k stLinkGone 0 0 0 s)
            | .done bs s => updCmd k (fun c => { c with stage := 2, buf := bs ++ c.buf }) s
        else if ioOpen s (.recipe k) then s
        else match c.stop with
          | some (st, d) => endPlan (adminEnd k st d 0 s)
          | none => endPlan (recipePlace k c c.buf s)
      | _ => s

/-- RECIPE_DELETE (R279). -/
def recipeDeleteGo (k : Nat) (s : State) : State :=
  match adminAt s k 0x8D with
  | none => s
  | some c =>
    let n := fld c.raw 16 2
    match mget s.qe.recipes n with
    | none => adminEnd k stRecipe 0 0 s
    | some r =>
      if r.f ≠ c.f then adminEnd k stRecipe 0 0 s
      else if s.qe.cmds.any fun p => p.2.op = 0x21 && 64 ≤ p.2.sq && fld p.2.raw 48 2 = n && p.2.phase ≠ .finished then adminEnd k stBusy 0 0 s
      else adminEnd k stSuccess 0 n { s with qe := { s.qe with recipes := mdel s.qe.recipes n } }

/-! ### The commands -/

/-- QUEUE_CREATE_SQ. -/
def execQueueCreateSq (k : Nat) (s : State) : Host.Outcome State Fault Refusal := .next (createSq k s)
/-- QUEUE_CREATE_CQ. -/
def execQueueCreateCq (k : Nat) (s : State) : Host.Outcome State Fault Refusal := .next (createCq k s)
/-- QUEUE_DESTROY. -/
def execQueueDestroy (k : Nat) (s : State) : Host.Outcome State Fault Refusal := .next (destroyQueue k s)
/-- QUEUE_DESTROY_FINISH. -/
def execQueueDestroyFinish (k : Nat) (s : State) : Host.Outcome State Fault Refusal := .next (destroyQueueEnd k s)
/-- CONTEXT_CREATE. -/
def execContextCreate (k : Nat) (s : State) : Host.Outcome State Fault Refusal := .next (createCtx k s)
/-- CONTEXT_DESTROY. -/
def execContextDestroy (k : Nat) (s : State) : Host.Outcome State Fault Refusal := .next (destroyCtx k s)
/-- CONTEXT_DRAIN. -/
def execContextDrain (k : Nat) (s : State) : Host.Outcome State Fault Refusal := .next (drainCtx k s)
/-- CONTEXT_DRAIN_FINISH. -/
def execContextDrainFinish (k : Nat) (s : State) : Host.Outcome State Fault Refusal := .next (drainCtxEnd k s)
/-- FENCE_ALLOC. -/
def execFenceAlloc (k : Nat) (s : State) : Host.Outcome State Fault Refusal := .next (fenceAllocGo k s)
/-- FENCE_FREE. -/
def execFenceFree (k : Nat) (s : State) : Host.Outcome State Fault Refusal := .next (fenceFreeGo k s)
/-- RECIPE_STORE. -/
def execRecipeStore (k : Nat) (s : State) : Host.Outcome State Fault Refusal := .next (recipeStoreGo k s)
/-- RECIPE_DELETE. -/
def execRecipeDelete (k : Nat) (s : State) : Host.Outcome State Fault Refusal := .next (recipeDeleteGo k s)

end Sys2Proof.Machine
end

