-- ==== Sys2Proof/Machine/Churn.lean ====
section
/-! DEFINITION. The Churn array: planning and placement (R268, R269), sequencers, windows and barriers (R264 to R267, R270 to R273),
engine faults, quarantine and remapping (R280 to R282, R285). The recipe steps are in Steps.lean. -/

namespace Sys2Proof.Machine

/-! ### Look-ups -/

/-- The run of CHURN command k. -/
def getRun (s : State) (k : Nat) : Option Run := mget s.ch.runs k

/-- The run of command k changed. -/
def updRun (k : Nat) (f : Run → Run) (s : State) : State := { s with ch := { s.ch with runs := mupd s.ch.runs k f } }

/-- Cluster cl. -/
def getCluster (s : State) (cl : Nat) : Cluster := mgetD s.ch.clusters cl {}

/-- Cluster cl changed. -/
def updCluster (cl : Nat) (f : Cluster → Cluster) (s : State) : State :=
  { s with ch := { s.ch with clusters := mset s.ch.clusters cl (f (getCluster s cl)) } }

/-- Engine e. -/
def getEng (s : State) (e : Nat) : Eng := mgetD s.ch.engines e {}

/-- Engine e set. -/
def setEng (e : Nat) (x : Eng) (s : State) : State := { s with ch := { s.ch with engines := mset s.ch.engines e x } }

/-- The engine a placed window is on, R238. -/
def Win.engine (w : Win) : Nat := w.dpa / 2 ^ 18

/-- The cluster a placed window is on. -/
def Win.cluster (w : Win) : Nat := w.dpa / 2 ^ 24

/-- The address of byte off of window w in DATA_SPACE, R245. -/
def winAddr (raw : List Byte) (w off : Nat) : Nat := fld raw 24 8 + w * chWin raw + off

/-- DATA_SPACE. -/
def chData (raw : List Byte) : Nat := bits (fld raw 17 1) 1 0
/-- BCAST_SPACE. -/
def chBcast (raw : List Byte) : Nat := bits (fld raw 17 1) 3 2
/-- BCAST_LINES. -/
def chLines (raw : List Byte) : Nat := fld raw 19 1
/-- ITER. -/
def chIter (raw : List Byte) : Nat := fld raw 43 3
/-- SEED of CHURN. -/
def chSeed (raw : List Byte) : Nat := fld raw 20 4

/-! ### Planning -/

/-- The rights every window needs for the steps of a recipe, R268. -/
def recipeRights (steps : List Word) : Rights :=
  let has (l : List Nat) : Bool := steps.any fun w => l.contains (stOp w)
  ⟨true, has [0x05, 0x16, 0x1B, 0x1C], has [0x1C]⟩

/-- The pages a CHURN plans: every window's, page by page (a faulting address is its page's, R269), then the broadcast source's. -/
def churnItems (bn : Option (Nat × Slot)) (raw : List Byte) (steps : List Word) : List Item :=
  let n := chWindows raw + chExtra raw
  let l := (List.range n).foldl (fun l w => (List.range (chWin raw / 4096)).foldl (fun l i =>
    touch (chData raw) (winAddr raw w (4096 * i)) 4096 (recipeRights steps) l) l) []
  (pieces 4096 (fld raw 32 8) (64 * chLines raw)).foldl (fun l p => touchIo bn (chBcast raw) p.1 p.2 rdRights l) l

/-- Start planning a CHURN command with its steps. -/
def churnPlan (k : Nat) (c : Cmd) (steps : List Word) (s : State) : State :=
  let items := churnItems (bounceOf s c.f c.ctx) c.raw steps
  let s := { s with ch := { s.ch with runs := mset s.ch.runs k { steps := steps } } }
  planStart (planOf (.churn k) c items) (updCmd k (fun c => { c with phase := .running }) s)

/-- A CHURN command ends: its plan, its run and what its engines showed go. -/
def churnDrop (k : Nat) (s : State) : State :=
  let s := dropPlan (.churn k) s
  let free (p : Nat × Cluster) : Nat × Cluster := (p.1, if p.2.run = some k then { p.2 with run := none } else p.2)
  let idle (p : Nat × Eng) : Nat × Eng := (p.1, if p.2.k = k then { p.2 with win := none, atBar := false } else p.2)
  { s with ch := { s.ch with
    runs := mdel s.ch.runs k, shown := s.ch.shown.filter fun x => x.k ≠ k,
    clusters := s.ch.clusters.map free, engines := s.ch.engines.map idle } }

/-- CHURN_INLINE and CHURN_STORED: planning begins (R248, R268). -/
def churnGo (k op : Nat) (s : State) : State :=
  match startable s k op with
  | none => s
  | some c =>
    match c.stop with
    | some (st, d) => finish k st d 0 0 s
    | none =>
      match (if chBcast c.raw = 0 && chLines c.raw ≠ 0 then hostLoss k s else none) with
      | some s => s
      | none =>
        if op = 0x20 then churnPlan k c (inlineSteps c.raw) s
        else match mget s.qe.recipes (bits (fld c.raw 48 2) 9 0) with
          | some r => if r.f = c.f then churnPlan k c r.steps s else finish k stRecipe 0 0 0 s
          | none => finish k stRecipe 0 0 0 s

/-- How the placement of one window came out. -/
inductive Placed where
  | at_ (dpa : Nat)
  | bad (it : Item) (b : Bad)
  | wrong (addr : Nat)
  deriving DecidableEq, Repr

/-- Place window w from its translated pages, R268. -/
def placeWin (raw : List Byte) (items : List Item) (w : Nat) : Placed :=
  let ps := (List.range (chWin raw / 4096)).map fun i => winAddr raw w (4096 * i)
  let get (a : Nat) : Option Item := items.find? fun it => it.space = chData raw && it.page = a
  let bad := ps.findSome? fun a => match get a with
    | some it => match it.st with | .bad b => some (it, b) | _ => none
    | none => none
  match bad with
  | some (it, b) => .bad it b
  | none =>
    let out (a : Nat) : Option Nat := match get a with | some it => (match it.st with | .ok o .dpa => some o | _ => none) | none => none
    match ps with
    | [] => .wrong 0
    | a0 :: _ =>
      match out a0 with
      | none => .wrong a0
      | some d =>
        if 0x1FE000000 ≤ d then .wrong a0
        else match (ps.zipIdx).find? fun p => out p.1 ≠ some (d + 4096 * p.2) || (d + 4096 * p.2 + 4095) / 2 ^ 18 ≠ d / 2 ^ 18 with
          | some p => .wrong p.1
          | none => .at_ d

/-- Whether a page of a CHURN's plan belongs to a window; the others are the broadcast source's alone. -/
def isWinPage (raw : List Byte) (it : Item) : Bool :=
  it.space = chData raw && winAddr raw 0 0 ≤ it.page && it.page < winAddr raw (chWindows raw + chExtra raw) 0

/-- WINDOW_PLAN_DONE: windows are placed and the broadcast source is read; or the command ends on its lowest window that faults, on
the broadcast source, or on a retired engine (R268, R269, R282). Planning lasts until the broadcast source is read: a window whose translation
dies meanwhile is translated again, and its fault is one of the plan. -/
def planDone (k : Nat) (s : State) : State :=
  match getCmd s k, getRun s k, getPlan s (.churn k) with
  | some c, some r, some p =>
    if r.planned then s
    else match c.stop with
    | some (st, d) => churnDrop k (finish k st d 0 0 s)
    | none =>
      let bn := bounceOf s c.f c.ctx
      let segs := if chLines c.raw = 0 then [] else widen bn ⟨0, chBcast c.raw, fld c.raw 32 8, 64 * chLines c.raw⟩
      let lost (s : State) : Option State := if chBcast c.raw = 0 && chLines c.raw ≠ 0 then hostLoss k s else none
      let ended (s : State) : State := if (getCmd s k).any (·.phase = .finished) then churnDrop k s else s
      let items := p.items.filter fun it => !r.reading || isWinPage c.raw it
      if (items.any Item.looking) || (items.any Item.waiting) || (items.takeWhile fun it => !hardBad s p it).any (canAsk s p) then
        (match lost s with | some s => ended s | none => planAdvance (.churn k) s)
      else
        let ws := (List.range (chWindows c.raw + chExtra c.raw)).map fun w => (w, placeWin c.raw items w)
        match ws.find? fun w => match w.2 with | .at_ _ => false | _ => true with
        | some (_, .bad it b) => churnDrop k (stopCmd k 0 it.first b s)
        | some (_, .wrong a) => churnDrop k (stopCmd k 0 a .absent s)
        | _ =>
          match items.find? fun it => !it.isOk with
          | some it => churnDrop k (stopCmd k 0 it.first (match it.st with | .bad b => b | _ => .absent) s)
          | none =>
            let wins := ws.filterMap fun w => match w.2 with
              | .at_ d => some ({ w := w.1, dpa := d, runs := w.1 < chWindows c.raw } : Win)
              | _ => none
            match wins.find? fun w => w.runs && (getCluster s w.cluster).retired.contains (w.engine % 64) with
            | some w => churnDrop k (finish k stPoisoned 0 0 (winAddr c.raw w.w 0) s)
            | none =>
              let cls := ((wins.filter (·.runs)).map Win.cluster).dedup
              let placed (s : State) : State := updRun k (fun r => { r with wins := wins, clusters := cls }) s
              if r.reading then
                if ioOpen s (.churn k) then s
                else
                  let (buf, s) := openAll k bn segs r.buf s
                  let line (i : Nat) : Vec × Bool :=
                    let bs := bufBytes buf 0 (fld c.raw 32 8 + 64 * i) 64
                    (BitVec.ofNat 512 (pnum bs), (ppoison bs).isSome)
                  updRun k (fun r => { r with bcast := (List.range (chLines c.raw)).map line, buf := [], reading := false, planned := true }) (placed s)
              else match lost s with
              | some s => ended s
              | none =>
                if segs.isEmpty then updRun k (fun r => { r with planned := true }) (placed s)
                else match issueSegs (.churn k) k c.f c.tenant c.cls p.items segs (placed s) with
                  | .waits s => s
                  | .lost s => churnDrop k (finish k stLinkGone 0 0 0 s)
                  | .done bs s => updRun k (fun r => { r with reading := true, buf := bs ++ r.buf }) s
  | _, _, _ => s

/-! ### Windows -/

/-- Whether a window will run no further: it has ended, or it may not start any more. -/
def winOver (s : State) (k : Nat) (r : Run) (w : Win) : Bool :=
  !w.runs || w.ended || (!w.started && (r.stop.isSome || (getCmd s k).any (·.stop.isSome)))

/-- DONE of R273: the windows before the first that did not complete. -/
def prefixDone (r : Run) : Nat := ((r.wins.filter (·.runs)).takeWhile (·.whole)).length

/-- Free the clusters whose windows are over; end the command when all are and its writes have been performed or denied at their homes (R271,
R273, R274, R280, R467). -/
def runCheck (k : Nat) (s : State) : State :=
  match getCmd s k, getRun s k with
  | some c, some r =>
    if !r.planned then s
    else
      let idle (cl : Nat) : Bool := (r.wins.filter fun w => w.cluster = cl).all (winOver s k r)
      let s := r.clusters.foldl (fun s cl =>
        if (getCluster s cl).run = some k && idle cl then updCluster cl (fun x => { x with run := none }) s else s) s
      if r.wins.all (winOver s k r) && writesPerformed s k then
        let t := prefixDone r
        churnDrop k (match r.stop with
          | some (b, a) => stopCmd k t a b s
          | none => match r.fault with
            | some a => finish k stPoisoned 0 t a s
            | none => match c.stop with
              | some (st, d) => finish k st d t 0 s
              | none => match c.poisonAt with
                | some (a, _) => finish k stPoisoned 0 (chWindows c.raw) a s
                | none => finish k stSuccess 0 (chWindows c.raw) 0 s)
      else s
  | _, _ => s

/-- SEQUENCER_START: cluster cl takes the next CHURN command in dispatch order (R270, R281). The commands whose windows are over end first,
once their last writes are performed. -/
def sequencerGo (cl : Nat) (s : State) : State :=
  let s := (s.ch.runs.filter fun p => p.2.clusters.contains cl).foldl (fun s p => runCheck p.1 s) s
  let x := getCluster s cl
  if x.run.isSome || x.resetting || x.asked || !x.quar.isEmpty || s.sl.h ≠ 0 || rampHolds s then s
  else
    let next := s.qe.cmds.find? fun p => (p.2.op = 0x20 || p.2.op = 0x21) && 64 ≤ p.2.sq && (p.2.phase = .ready || p.2.phase = .running)
      && (match getRun s p.1 with
          | some r => !r.planned || (r.clusters.contains cl && (r.wins.any fun w => w.cluster = cl && !winOver s p.1 r w))
          | none => true)
    match next with
    | none => s
    | some (k, c) =>
      match getRun s k with
      | none => s
      | some r =>
        if !r.planned then s
        else
          let dead (w : Win) : Bool := w.cluster = cl && w.runs && !w.started && !w.ended && x.retired.contains (w.engine % 64)
          match r.wins.find? dead with
          | some w =>
            runCheck k (updRun k (fun r => { r with
              wins := r.wins.map (fun w => if dead w then { w with ended := true } else w),
              fault := some (winAddr c.raw w.w 0) }) (updCluster cl (fun x => { x with run := some k }) s))
          | none => updCluster cl (fun x => { x with run := some k }) s

/-- The running windows of command k on engine e, in ascending number. -/
def engWins (r : Run) (e : Nat) : List Win := r.wins.filter fun w => w.runs && w.engine = e

/-- WINDOW_START on engine e (R264, R265, R267). -/
def windowGo (e : Nat) (s : State) : State :=
  let cl := e / 64
  match (getCluster s cl).run with
  | none => s
  | some k =>
    match getCmd s k, getRun s k with
    | some c, some r =>
      if rampHolds s || (getEng s e).win.isSome || r.stop.isSome || c.stop.isSome || (getCluster s cl).quar.contains (e % 64) || !writesPerformed s k then s
      else match (engWins r e).zipIdx.find? fun w => !w.1.started && !w.1.ended with
        | none => s
        | some (w, n) =>
          let s := updRun k (fun r => { r with wins := r.wins.map fun x => if x.w = w.w then { x with started := true } else x }) s
          setEng e { win := some w.w, k := k, round := n } s
    | _, _ => s

/-- A window on engine e ends, whole or abandoned. -/
def windowEnd (e : Nat) (whole : Bool) (s : State) : State :=
  let x := getEng s e
  match x.win with
  | none => s
  | some w =>
    let s := updRun x.k (fun r => { r with wins := r.wins.map fun y => if y.w = w then { y with ended := true, whole := whole } else y }) s
    runCheck x.k (setEng e { x with win := none, atBar := false } s)

/-- The window of round n of engine e in a run. -/
def roundWin (r : Run) (e n : Nat) : Option Win := (engWins r e)[n]?

/-- BARRIER_RELEASE of cluster cl (R265): when every engine that runs a window of the round has arrived. -/
def barrierGo (cl : Nat) (s : State) : State :=
  match (getCluster s cl).run with
  | none => s
  | some k =>
    match getRun s k with
    | none => s
    | some r =>
      let es := (List.range 64).map fun i => 64 * cl + i
      let waits := es.filter fun e => (getEng s e).win.isSome && (getEng s e).atBar
      match (waits.map fun e => (getEng s e).round).min? with
      | none => s
      | some n =>
        let all_ := es.all fun e => match roundWin r e n with
          | none => true
          | some w => winOver s k r w || ((getEng s e).win = some w.w && (getEng s e).atBar)
        if all_ && writesPerformed s k && !rampHolds s then
          (waits.filter fun e => (getEng s e).round = n).foldl (fun s e =>
            let x := getEng s e
            let x := { x with atBar := false, step := x.step + 1 }
            let s := setEng e x s
            if r.steps.length ≤ x.step then windowEnd e true s else s) s
        else s

/-! ### Faults and resets -/

/-- The windows of command k that engine e has not started are not run (R280). With no window abandoned, the first of them is where the
command is found to have failed (log entry 97). -/
def skipWindows (k e : Nat) (raw : List Byte) (s : State) : State :=
  let skip (w : Win) : Bool := w.runs && w.engine = e && !w.started && !w.ended
  updRun k (fun r => { r with
    wins := r.wins.map (fun w => if skip w then { w with ended := true } else w),
    fault := match r.fault with | some a => some a | none => (r.wins.find? skip).map fun w => winAddr raw w.w 0 }) s

/-- ENGINE_FAULT on engine e (R280). -/
def engineFaultGo (e : Nat) (s : State) : State :=
  let cl := e / 64
  let x := getEng s e
  let i := e % 64
  let mark (y : Cluster) : Cluster := { y with quar := if y.quar.contains i then y.quar else y.quar ++ [i] }
  let s := raise (.chCluster cl) 0 (bump (.chCluster cl) 0x064 1 (updCluster cl mark s))
  match x.win with
  | none =>
    match (getCluster s cl).run with
    | some k => match getCmd s k with
      | some c => runCheck k (skipWindows k e c.raw s)
      | none => s
    | none => s
  | some w =>
    match getCmd s x.k, getRun s x.k with
    | some c, some r =>
      let dpa := match r.wins.find? fun y => y.w = w with | some y => y.dpa | none => 0
      let s := (List.range (chWin c.raw / 64)).foldl (fun s j =>
        let a := dpa + 64 * j
        issue a c.tenant false (fnOrigin c.f) c.cls (.write ((asPBytes a (lineBytes s a)).map fun b => { b with poison := some 0 })) (.cmd x.k) none s) s
      let s := updRun x.k (fun r => { r with fault := match r.fault with | some a => some a | none => some (winAddr c.raw w 0) }) s
      windowEnd e false (skipWindows x.k e c.raw s)
    | _, _ => s

/-- CLUSTER_RESET: step 1 of R281, or of R285. -/
def clusterResetGo (cl : Nat) (s : State) : State :=
  let x := getCluster s cl
  if x.run.isSome || x.resetting || (x.quar.isEmpty && !x.asked) then s
  else updCluster cl (fun x => { x with resetting := true }) s

/-- Copy a slice to a spare, line by line: what a line check meets is corrected, or written poisoned, and counted (R281, R330, R331). -/
def copySlice (e : Nat) (s : State) : State :=
  let bad := s.mem.uncorrectable.filter fun a => a / 2 ^ 18 = e
  let soft := s.mem.correctable.filter fun a => a / 2 ^ 18 = e
  let s := bad.foldl (fun s a => foundEffect a ⟨.hmFw, 6⟩ .failed s) s
  soft.foldl (fun s a => foundEffect a ⟨.hmFw, 6⟩ .good s) s

/-- Map a quarantined engine to a spare, or retire it (R281, R282). -/
def remapOne (cl i : Nat) (s : State) : State :=
  let x := getCluster s cl
  if x.spares = 0 then
    raise (.chCluster cl) 2 (updCluster cl (fun x => { x with retired := if x.retired.contains i then x.retired else x.retired ++ [i] }) s)
  else
    let spare := 66 - x.spares
    let rec_ := BitVec.ofNat 32 (2 ^ 31 + i * 2 ^ 16 + spare * 2 ^ 8 + mgetD x.map i i)
    let s := copySlice (64 * cl + i) s
    let s := updCluster cl (fun x => { x with
      spares := x.spares - 1, map := mset x.map i spare,
      qrec0 := if spare = 64 then rec_ else x.qrec0, qrec1 := if spare = 65 then rec_ else x.qrec1 }) s
    let s := raise (.chCluster cl) 1 s
    if x.spares = 1 then raise .ch 1 s else s

/-- CLUSTER_REMAP: steps 2 to 4 of R281. The cluster page's registers, its SEALED with them, return to reset (R15, R33); the events of the
remap are raised after that. -/
def clusterRemapGo (cl : Nat) (s : State) : State :=
  let x := getCluster s cl
  if !x.resetting then s
  else
    let s := x.quar.foldl (fun s i => remapOne cl i s) (resetPage (.chCluster cl) s)
    let s := { s with ch := { s.ch with engines := s.ch.engines.filter fun p => p.1 / 64 ≠ cl } }
    updCluster cl (fun x => { x with resetting := false, asked := false, quar := [] }) s

/-! ### The commands -/

/-- CHURN_INLINE. -/
def execChurnInline (k : Nat) (s : State) : Host.Outcome State Fault Refusal := .next (churnGo k 0x20 s)
/-- CHURN_STORED. -/
def execChurnStored (k : Nat) (s : State) : Host.Outcome State Fault Refusal := .next (churnGo k 0x21 s)
/-- WINDOW_PLAN_DONE. -/
def execWindowPlanDone (k : Nat) (s : State) : Host.Outcome State Fault Refusal := .next (planDone k s)
/-- SEQUENCER_START. -/
def execSequencerStart (cl : Nat) (s : State) : Host.Outcome State Fault Refusal := onUnit cl 512 (sequencerGo cl s)
/-- WINDOW_START. -/
def execWindowStart (e : Nat) (s : State) : Host.Outcome State Fault Refusal := onUnit e 32768 (windowGo e s)
/-- BARRIER_RELEASE. -/
def execBarrierRelease (cl : Nat) (s : State) : Host.Outcome State Fault Refusal := onUnit cl 512 (barrierGo cl s)
/-- ENGINE_FAULT. -/
def execEngineFault (e : Nat) (s : State) : Host.Outcome State Fault Refusal := onUnit e 32768 (engineFaultGo e s)
/-- CLUSTER_RESET. -/
def execClusterReset (cl : Nat) (s : State) : Host.Outcome State Fault Refusal := onUnit cl 512 (clusterResetGo cl s)
/-- CLUSTER_REMAP. -/
def execClusterRemap (cl : Nat) (s : State) : Host.Outcome State Fault Refusal := onUnit cl 512 (clusterRemapGo cl s)

end Sys2Proof.Machine
end

