-- ==== Sys2Proof/Machine/Power.lean ====
section
/-! DEFINITION. The governor's figures and the power grants of berths: R520, R526, R527, R531. -/

namespace Sys2Proof.Machine

/-- The levels the Sluice counts for the berths. -/
def berthsCounted (s : State) : Nat := ((List.range 8).map fun b => (getBerth s b).counted).sum

/-- The levels granted, those that do not hold yet included. -/
def berthsGranted (s : State) : Nat :=
  ((List.range 8).map fun b => let be := getBerth s b; Nat.max be.counted be.granted).sum

/-- SL.P_CAP within its ceiling. -/
def pCap (s : State) : Nat := Nat.min (regReset s .sl 0x048) (zero1 (bits (getReg s .sl 0 0x048) 9 0))
/-- SL.P_STEP within its bounds. -/
def pStep (s : State) : Nat := clampN 10 1000 (bits (getReg s .sl 0 0x04C) 9 0)
/-- SL.BALLAST.MAX; 0 while EN is clear. -/
def ballastMax (s : State) : Nat :=
  let v := getReg s .sl 0 0x054
  if bit v 31 then Nat.min 300 (bits v 8 0) else 0
/-- SL.PKG_CAP. -/
def pkgCap (s : State) : Nat := bits (getReg s .sl 0 0x060) 12 0
/-- SL.B_INIT. -/
def bInit (s : State) : Nat := bits (getReg s .sl 0 0x06C) 9 0
/-- SL.STAGGER in ns. -/
def stagger (s : State) : Nat := Nat.max 10 (bits (getReg s .sl 0 0x05C) 15 0) * 1000

/-- How far package power may still rise: P_STEP above the window's lowest value, within the package cap (R527). -/
def riseRoom (s : State) : Nat :=
  let now := s.sl.hubW + berthsGranted s
  Nat.min (s.sl.pkgLo + pStep s - now) (pkgCap s - now)

/-- Raise the grant of berth b toward the level asked, as far as R527 permits, from 10 µs ahead (R531). -/
def raiseGrant (b : Nat) (s : State) : State :=
  let be := getBerth s b
  let r := Nat.min (be.asked - be.granted) (riseRoom s)
  if be.st ≠ 3 || !bit be.caps 3 || r = 0 then s
  else
    let start := s.time.toNat + 10000
    let level := be.granted + r
    sendBresa b (bmsg 4 0x10 0 0 0 0 start level [] false)
      (updBerth b (fun be => { be with granted := level, rises := be.rises ++ [(start, level)] }) s)

/-- Raise every grant that is asked for, lowest berth first. -/
def raiseGrants (s : State) : State := (List.range 8).foldl (fun s b => raiseGrant b s) s

/-- Count the grants whose start time has come. -/
def settleRises (s : State) : State :=
  let due (be : Berth) : Berth :=
    let now := be.rises.filter fun r => r.1 ≤ s.time.toNat
    match now.getLast? with
    | some r => { be with counted := r.2, rises := be.rises.filter fun r => s.time.toNat < r.1 }
    | none => be
  { s with qy := { s.qy with berths := s.qy.berths.map fun p => (p.1, due p.2) } }

/-- The level a berth is counted at from its card on: its initial grant, or its draw without a negotiated PWR (R365, R531). -/
def initialGrant (s : State) (pwr : Bool) (power : Nat) : Nat := if pwr then Nat.min power (bInit s) else power

/-- A level kept by RELEASE: it counts at once, a grant that does not hold yet is cut to it, and ballast takes the difference up to its maximum
(R531). -/
def releasePower (b level : Nat) (s : State) : State :=
  let be := getBerth s b
  if be.granted ≤ level then s
  else
    let less := be.counted - level
    let s := updBerth b (fun be => { be with asked := level, granted := level, counted := Nat.min be.counted level, rises := be.rises.map fun x => (x.1, Nat.min x.2 level) }) s
    { s with sl := { s.sl with ballast := Nat.min (ballastMax s) (s.sl.ballast + less) } }

/-! ### Hub global time -/

/-- SL.PWR_NOW, SL.PKG_NOW and SL.GRANT_b, by offset. -/
def powerView (s : State) (off : Nat) : Nat :=
  if off = 0x064 then s.sl.ballast % 512 * 2 ^ 16 + s.sl.hubW % 1024
  else if off = 0x068 then (s.sl.hubW + s.sl.ballast + berthsCounted s) % 8192
  else let be := getBerth s ((off - 0x0C0) / 4); be.asked % 1024 * 2 ^ 16 + be.counted % 1024

/-- The power readings of the SL page. -/
def powerOffs : List Nat := [0x064, 0x068] ++ (List.range 8).map (0x0C0 + 4 * ·)

/-- What VF reads of counters are answered from is latched: counters each 1 ms, power each 100 ms (R483). -/
def latch (power : Bool) (s : State) : State :=
  let put (m : NMap Word) (off : Nat) : NMap Word :=
    let k := regKey .sl 0 off
    if power then mset m k (BitVec.ofNat 32 (powerView s off))
    else match mget s.latched k with | some v => mset m k v | none => m
  { s with latched := powerOffs.foldl put s.regs }

/-- Hub global time advances by n ns; at a boundary of 1 ms the counters are latched and the storm counts start again, at one of 100 ms the
power readings are latched (R483, R501). -/
def timeStep (n : Nat) (s : State) : State :=
  let before := s.time.toNat
  let after := before + n
  let s : State := { s with time := s.time + BitVec.ofNat 64 n }
  if before / 1000000 = after / 1000000 then s
  else
    let s := latch (before / 100000000 ≠ after / 100000000) s
    { s with ec := { s.ec with storm := [] } }

end Sys2Proof.Machine
end

