-- ==== Sys2Proof/Machine/Quay.lean ====
section
/-! DEFINITION. The Quays: departure (R382 to R385), arrival (R354, R361 to R366), requests of partners (R369 to R373), their evictions
and snoop answers (R375 to R378), queues, fences, events, power and time of partners (R97, R179, R379 to R381). -/

namespace Sys2Proof.Machine

/-! ### Berths -/

/-- The berths of b's pair, or b alone. -/
def mates (s : State) (b : Nat) : List Nat := if (getBerth s b).paired then [b / 2 * 2, b / 2 * 2 + 1] else [b]

/-- A little-endian field of the stored card. -/
def Berth.cardFld (be : Berth) (off n : Nat) : Nat := fld be.card off n

/-- The partner of a berth caused an error that QY.ERR_CAP captures. -/
def berthErr (b code : Nat) (s : State) : State := capErr .qy code ⟨.partner, lowerBerth s b⟩ s

/-- Step 3 of R382 for one berth-owned SQ: disabled, and its fetched, undispatched entries complete BERTH_GONE, those that came before an
earlier entry's read among them, each once. -/
def orphanSq (q : Nat) (s : State) : State :=
  match mget s.qe.sqs q with
  | none => s
  | some sq =>
    let come := (sq.arrived.filter fun p => !p.2.2 && !sq.answered.contains p.1 && fld p.2.1 14 2 = stampOf p.1 && fld p.2.1 120 2 = stampOf p.1).map fun p => (p.1, p.2.1)
    let s := (sq.ready.filter (fun p => p.2 ≠ []) ++ come).foldl (fun s p =>
      enter { newCmd s q p.1 sq.f p.2 with phase := .finished, status := stBerthGone } s) s
    let n := sq.next + sq.ready.length
    updSq q (fun sq => { sq with
      en := false, ready := [], next := n, fetchNext := n, arrived := [], issued := [], backoff := false, tries := 0,
      answered := sq.answered ++ (come.map (·.1)).filter fun i => !sq.answered.contains i }) s

/-- Steps 1 to 3 of R382 for one berth. -/
def departOne (b reason : Nat) (s : State) : State :=
  let lines := (getBerth s b).snoops.map (·.2)
  let dead (o : Open) : Open := { o with live := false }
  let s := updBerth b (fun be => { be with
    st := 4, depart := reason, snoops := [], invs := [], unbinds := [], waiting := [], opens := be.opens.map fun p => (p.1, dead p.2) }) s
  let s := lines.foldl (fun s l => loseDeparted l s) (annexTouch s)
  ((s.qe.sqs.filter fun p => p.2.berth = some b).map (·.1)).foldl (fun s q => orphanSq q s) s

/-- A berth departs, with the other of its pair (R382, R385). -/
def depart (b reason : Nat) (s : State) : State :=
  let s := (mates s b).foldl (fun s b => departOne b reason s) s
  homeDrain (if reason = 5 then raise (.qyBerth b) 4 s else s)

/-- Whether a berth is somewhere between training and departure. -/
def Berth.attached (be : Berth) : Bool := be.st = 1 || be.st = 2 || be.st = 3 || be.st = 6

/-- Step 4 of R382: every filter entry that names a departing berth. -/
def sweepFilter (s : State) : State := (s.qy.filter.map (·.line)).foldl (fun s l => loseDeparted l s) s

/-- Whether QY.B_CTL.EN is set. -/
def berthEn (s : State) (b : Nat) : Bool := bit (getReg s (.qyBerth b) 0 0x044) 0

/-- A berth without supply: its enable and reset are down and nothing is counted. -/
def unpowered (be : Berth) : Berth :=
  { be with st := 0, powered := false, resetPin := true, asked := 0, granted := 0, counted := 0, rises := [] }

/-- Step 5 of R382 for one berth. Its supply stays on while EN is set (DEDUCED, log entry 25). -/
def departEnd (b : Nat) (s : State) : State :=
  if (getBerth s b).st ≠ 4 then s
  else
    let s := setReg (.qyBerth b) 0 0x044 (getReg s (.qyBerth b) 0 0x044 &&& 0xFFFFFFFD) s
    let clear (be : Berth) : Berth :=
      { be with st := 1, grants := [], paired := false, carded := false, evicting := false, caps := 0, modules := 0, half := 0 }
    let s := updBerth b clear s
    let s := if berthEn s b then s else emit (.pin "BRST_N" b false) (emit (.pin "BPWR_EN" b false) (updBerth b unpowered s))
    raise (.qyBerth b) 1 (annexTouch s)

/-- BERTH_DEPARTURE_END, for a pair as one. -/
def departFinish (b : Nat) (s : State) : State :=
  if (getBerth s b).st ≠ 4 then s else homeDrain ((mates s b).foldl (fun s b => departEnd b s) (sweepFilter s))

/-! ### Enable, evict, reset (R366, R384, R388) -/

/-- EN written one: a refused berth trains again; an unpowered one waits for its stagger slot. -/
def berthOn (b : Nat) (s : State) : State :=
  if (getBerth s b).st = 5 then annexTouch (updBerth b (fun be => { be with st := 1, carded := false }) s) else s

/-- EN cleared: the berth departs with reason EVICTED; a berth without a partner goes to OFF. -/
def berthOff (b : Nat) (s : State) : State :=
  let be := getBerth s b
  if be.attached then depart b 6 s
  else if be.st = 4 then s
  else
    let s := updBerth b unpowered s
    let s := if be.st = 0 then s else annexTouch s
    if be.powered then emit (.pin "BRST_N" b false) (emit (.pin "BPWR_EN" b false) s) else s

/-- Lines a berth holds. -/
def heldLines (s : State) (b : Nat) : List Nat := (s.qy.filter.filter fun e => e.holders.contains (lowerBerth s b)).map (·.line)

/-- An evicting berth is asked for every line it still holds; when all are back it departs with reason EVICTED. -/
def evictCheck (b : Nat) (s : State) : State :=
  let lo := lowerBerth s b
  if !(getBerth s lo).evicting then s
  else
    let s := (heldLines s lo).foldl (fun s l => snoop l lo s) s
    if (getBerth s lo).snoops.isEmpty && (heldLines s lo).isEmpty then depart lo 6 s else s

/-- B_CTL.EVICT: every line the berth holds is snooped. -/
def berthEvictGo (b : Nat) (s : State) : State :=
  let lo := lowerBerth s b
  if (getBerth s lo).st ≠ 3 then setReg (.qyBerth b) 0 0x044 (getReg s (.qyBerth b) 0 0x044 &&& 0xFFFFFFFD) s
  else evictCheck lo (updBerth lo (fun be => { be with evicting := true }) s)

/-- B_CTL.PRST: the berth departs with reason RESET and BRST_N is asserted. -/
def partnerResetGo (b : Nat) (s : State) : State :=
  let s := if (getBerth s b).attached then depart b 7 s else s
  emit (.pin "BRST_N" b false) (updBerth b (fun be => { be with resetPin := true }) s)

/-- BRST_N is released, on arrival or after PRST; edges count from here (R354, R366, R379, R384). -/
def resetRelease (b : Nat) (s : State) : State :=
  let be := getBerth s b
  if !be.powered || !be.resetPin then s
  else
    let s := setReg (.qyBerth b) 0 0x044 (getReg s (.qyBerth b) 0 0x044 &&& 0xFFFFFFFB) s
    let s := updBerth b (fun be => { be with resetPin := false, edge := s.tclk, st := if be.st = 0 then 1 else be.st }) s
    emit (.pin "BRST_N" b true) (if be.st = 0 then annexTouch s else s)

/-- The hub's receive credits by class (R359). -/
def rxFull : List Nat := [512, 256, 64, 64, 8, 8, 64]

/-- UCIe training completes (R352, R355, R366). -/
def linkUpGo (b : Nat) (cxl : Bool) (modules half rate : Nat) (s : State) : State :=
  if (getBerth s b).st ≠ 1 || modules % 16 = 0 then s
  else annexTouch (updBerth b (fun be => { be with
    st := 2, cxl := cxl, modules := modules % 16, half := half % 16 &&& modules % 16, rate := rate % 8, carded := false,
    rxCredits := rxFull }) s)

/-- Training exceeds QY.TRAIN_LIMIT: the berth trains again. -/
def trainAgain (b : Nat) (s : State) : State :=
  if (getBerth s b).st ≠ 1 then s else updBerth b (fun be => { be with modules := 0, half := 0, rate := 0 }) s

/-! ### Cards -/

/-- The TIME message of R379 for the present edge. -/
def sendTime (b : Nat) (s : State) : State :=
  let be := getBerth s b
  let n := (s.tclk - be.edge) % 2 ^ 32
  let slew := if s.hl.slewLeft = 0 then 0 else if s.hl.slew < 0 then 1 else 2
  if be.cxl then s
  else sendBresa b (bmsg 5 0x11 0 0 0 0 s.time.toNat (n + slew * 2 ^ 32 + s.tclk % 100 * 2 ^ 34) [] false) s

/-- TIME to every active berth. -/
def timeAll (s : State) : State := (List.range 8).foldl (fun s b => if (getBerth s b).st = 3 then sendTime b s else s) s

/-- The hub's receive credits, as CARD_ACK's payload carries them: class c at bytes 18 + 2c (R359). -/
def hubCredits : List Byte := List.replicate 18 0 ++ rxFull.flatMap (leBytes 2) ++ List.replicate 32 0

/-- Capabilities a negotiated minor offers (R363). -/
def capsOf (minor : Nat) : Nat := if minor = 0 then 0x0F else if minor = 1 then 0x1F else 0x3F

/-- Why a card is refused (R364): the code of R389. -/
def cardFault (card : List Byte) (pairOk : Bool) : Option Nat :=
  if fld card 5 1 ≠ 2 then some 3
  else if fld card 7 1 / 2 ≠ 0 || fld card 8 4 / 64 ≠ 0 || fld card 40 24 ≠ 0 then some 2
  else if fld card 12 2 = 0 || 1000 < fld card 12 2 || 4096 < fld card 16 2 then some 2
  else if bit (fld card 7 1) 0 && !pairOk then some 2
  else none

/-- The card the hub builds for a plain CXL partner from its configuration header: vendor ID at bytes 0 and 1, device ID at 2 and 3, revision ID
at 8 (R366). -/
def cxlCard (header : List Byte) (power : Nat) : List Byte :=
  fitBytes 4 header ++ [header.getD 8 0] ++ List.replicate 3 0 ++ leBytes 4 1 ++ leBytes 2 power ++ List.replicate 50 0

/-- A card is refused: its link goes down and the berth stays REFUSED. -/
def refuseCard (b code : Nat) (s : State) : State :=
  raise (.qyBerth b) 2 (annexTouch (berthErr b code (updBerth b (fun be => { be with st := 5, modules := 0, half := 0, carded := false }) s)))

/-- A berth becomes ACTIVE, or the upper berth of a pair (R353, R366). The lower berth of a pair takes the partner's whole grant. -/
def activate (b : Nat) (upper : Bool) (pair : Bool) (s : State) : State :=
  let be := getBerth s b
  let minor := Nat.min (be.cardFld 6 1) 2
  let caps := if be.cxl then 1 else be.cardFld 8 4 &&& capsOf minor
  let power := be.cardFld 12 2
  let level := if upper then 0 else initialGrant s (bit caps 3) power
  let credits := (List.range 7).map fun c => be.cardFld (18 + 2 * c) 2
  let s := updBerth b (fun be => { be with
    st := if upper then 6 else 3, paired := pair, major := if be.cxl then 0 else 2, minor := if be.cxl then 0 else minor, caps := caps,
    txCredits := credits, grants := [], asked := level, granted := level, counted := level, rises := [], carded := true }) s
  let s := annexTouch s
  let ack := 2 * 2 ^ 24 + minor * 2 ^ 16 + b * 2 ^ 8 + caps * 2 ^ 32
  let s := if be.cxl || upper then s
    else sendTime b (sendBresa b (bmsg 5 0x10 0 0 0 0 (level + s.hl.hubId * 2 ^ 16) ack hubCredits false) s)
  raise (.qyBerth b) 0 (bump (.qyBerth b) 0x054 1 s)

/-- A card without its receive credits, by which the cards of a pair are compared. -/
def cardCore (card : List Byte) : List Byte := card.take 18 ++ card.drop 32

/-- CARD: check, negotiate, activate (R362 to R366). A partner that occupies a pair waits for the other berth's card; two cards of a pair that
differ, in PAIR too, refuse it (R364). -/
def cardGo (b : Nat) (m : BresaMsg) (s : State) : State :=
  let be := getBerth s b
  if be.st ≠ 2 || be.carded then s
  else if be.cxl then
    activate b false false (updBerth b (fun be => { be with card := cxlCard m.payload (bits (getReg s (.qyBerth b) 0 0x048) 25 16) }) s)
  else
    let card := fitBytes 64 m.payload
    let lo := b / 2 * 2
    -- on an odd berth PAIR stands only in the second card of a pair, after the lower berth's (R364, log entry 67)
    let mate := getBerth s lo
    let pairOk := bit (getReg s (.qyBerth lo) 0 0x044) 3 && (b = lo || (mate.st = 2 && mate.carded))
    let s := updBerth b (fun be => { be with card := card }) s
    match cardFault card pairOk with
    | some code => refuseCard b code s
    | none =>
      let o := getBerth s (if b = lo then lo + 1 else lo)
      let mateWaits := o.st = 2 && o.carded
      if mateWaits then
        (if cardCore o.card = cardCore card then activate (lo + 1) true true (activate lo false true s)
         else refuseCard (lo + 1) 2 (refuseCard lo 2 s))
      else if !bit (fld card 7 1) 0 then activate b false false s
      else if o.st = 3 then refuseCard b 2 s
      else annexTouch (updBerth b (fun be => { be with carded := true }) s)

/-- No card within 1 ms of link up. -/
def cardLate (b : Nat) (s : State) : State :=
  let be := getBerth s b
  if be.st = 2 && !be.carded then depart b 5 s else s

/-! ### Receiving -/

/-- The types a partner may send in a class (R358). -/
def partnerTypes (cls : Nat) : List Nat :=
  match cls with
  | 0 => [0, 1, 2, 3, 4] | 1 => [0, 1, 2, 3, 4, 5, 6] | 2 => [0, 1, 2, 3, 4] | 3 => [0, 1] | 4 => [0, 1, 2] | 5 => [0, 1, 2] | 6 => [0, 1]
  | _ => []

/-- Whether LEN fits a type. -/
def lenOk (m : BresaMsg) : Bool :=
  match m.cls, m.typ with
  | 0, 2 => 1 ≤ m.len && m.len ≤ 4
  | 0, 3 | 0, 4 | 1, 4 | 5, 1 => m.len = 1
  | 1, 5 => m.len = if m.status = 2 then 1 else 0
  | 6, 1 => 1 ≤ m.len && m.len ≤ 4
  | _, _ => m.len = 0

/-- The 32 header bytes of a message, little-endian (R357); a field and its reserved bits are one number here. -/
def bresaHeader (m : BresaMsg) : List Byte :=
  leBytes 1 m.cls ++ leBytes 1 m.typ ++ leBytes 1 m.len ++ leBytes 1 m.flags ++ leBytes 2 m.tag ++ leBytes 2 m.ctx ++ leBytes 2 m.label
    ++ leBytes 1 m.status ++ leBytes 5 m.rsv ++ leBytes 8 m.addr ++ leBytes 8 m.aux

/-- A message on the wire: its header, then its payload lines (R357). -/
def bresaWire (m : BresaMsg) : List Byte := bresaHeader m ++ m.payload

/-- The message that bytes of the wire carry. -/
def bresaOfWire (bs : List Byte) : BresaMsg :=
  { cls := fld bs 0 1, typ := fld bs 1 1, len := fld bs 2 1, flags := fld bs 3 1, tag := fld bs 4 2, ctx := fld bs 6 2, label := fld bs 8 2,
    status := fld bs 10 1, rsv := fld bs 11 5, addr := fld bs 16 8, aux := fld bs 24 8, payload := bs.drop 32 }

/-- The bytes a MEM or COH request touches. -/
def bresaLen (m : BresaMsg) : Nat :=
  match m.cls, m.typ with
  | 0, 1 => 64 * bits m.aux 2 0
  | 0, 2 => 64 * m.len
  | 0, 3 => 4 * 2 ^ bits m.aux 9 8
  | _, _ => 64

/-- The capability bit a message needs, if any (R362). -/
def capNeeded (m : BresaMsg) : Option Nat :=
  match m.cls with
  | 0 => if m.typ = 4 then some 5 else none
  | 1 => some 0 | 2 => some 1 | 3 => some 2 | 4 => some 3 | 6 => some 4
  | _ => none

/-- A message that makes its berth depart with reason PROTOCOL (R361): reserved bits, an unassigned type or one outside the negotiated
set, a LEN its type does not allow, a request across a 256-byte block, a message beyond its credits. -/
def bresaBad (be : Berth) (m : BresaMsg) : Bool :=
  !(partnerTypes m.cls).contains m.typ || !lenOk m || 2 ≤ m.flags || 4096 ≤ m.tag || 2 ^ 14 ≤ m.ctx || m.rsv ≠ 0
    || (m.cls ≤ 1 && (m.cls = 1 → m.typ = 1 || m.typ = 2) && m.typ ≠ 0 && 256 < m.addr % 256 + bresaLen m)
    || (match capNeeded m with | some c => !bit be.caps c | none => false) || be.rxCredits.getD m.cls 0 < creditNeed m

/-- Whether a message keeps its credits until it is answered: the requests of MEM and COH (DESIGN CHOICE, log entry 98). -/
def answeredLater (m : BresaMsg) : Bool := m.cls = 0 || (m.cls = 1 && (m.typ = 1 || m.typ = 2))

/-- Take the credits of a message that has come (R359). -/
def creditTake (b : Nat) (m : BresaMsg) (s : State) : State :=
  updBerth b (fun be => { be with rxCredits := be.rxCredits.set m.cls (be.rxCredits.getD m.cls 0 - creditNeed m) }) s

/-- Whether a message that comes before CARD_ACK is beyond the partner's credits: all but CREDIT, which needs none, and one CARD (R359). -/
def early (be : Berth) (m : BresaMsg) : Bool := be.st = 2 && m.typ ≠ 0 && (be.carded || m.cls ≠ 5 || m.typ ≠ 1)

/-- A message of type (cls, typ) reaches the hub: counted, checked, its credits taken and, unless its answer does it, returned, and processed
by go. A well-formed message of another type is not this command's, and a berth without its link takes none. -/
def receive (b cls typ : Nat) (m : BresaMsg) (go : State → State) (s : State) : State :=
  let be := getBerth s b
  let bad := bresaBad be m || early be m
  if be.cxl || (be.st ≠ 2 && be.st ≠ 3 && be.st ≠ 6) then s
  else if !bad && (m.cls ≠ cls || m.typ ≠ typ) then s
  else
    let s := wakeUp (bump64 (.qyBerth b) 0x064 (32 + 64 * m.len) s)
    if bad then depart b 5 (berthErr b 1 s)
    else
      let s := creditTake b m s
      go (if typ = 0 || answeredLater m then s else creditBack b m s)

/-! ### MEM and COH requests -/

/-- The rights a request needs (R119). -/
def bresaRights (m : BresaMsg) : Rights :=
  match m.cls, m.typ with
  | 0, 1 | 1, 1 => ⟨true, false, false⟩
  | 0, 2 => ⟨false, true, false⟩
  | 0, 3 => ⟨false, false, true⟩
  | _, _ => ⟨true, true, false⟩

/-- A request whose operands no row of R358 admits: answered UNSUPPORTED (DESIGN CHOICE, log entry 26). -/
def bresaOdd (m : BresaMsg) : Bool :=
  match m.cls, m.typ with
  | 0, 1 => m.addr % 64 ≠ 0 || bits m.aux 2 0 = 0 || 4 < bits m.aux 2 0
  | 0, 3 => (aopOf (bits m.aux 7 0)).isNone || !atomicSizeOk (bits m.aux 7 0) (bits m.aux 9 8) || m.addr % bresaLen m ≠ 0
  | _, _ => m.addr % 64 ≠ 0

/-- The STATUS of R360 for a page that cannot be used (R369). -/
def badStatus : Bad → Nat
  | .absent | .forced | .timeout | .host | .link => 1
  | .short _ | .tag _ => 2
  | .walkPoison | .recall => 3
  | .reserved => 4
  | .refused .. => 1

/-- A partner's request ends without its access: an answer with status 3 carries data, of no known value (R360). -/
def bresaEnd (b id st : Nat) (m : BresaMsg) (s : State) : State :=
  if st = 3 && !(m.cls = 0 && (m.typ = 2 || m.typ = 4)) then
    let (bs, s) := freeBytes (bresaLen m) s
    bresaReply b id 3 0 bs s
  else bresaReply b id st 0 [] s

/-- How a partner's access to host memory is marked: as one of its context (R105, R369). -/
def partnerTag (s : State) (m : BresaMsg) : HostTag :=
  match mget s.qe.ctxs (m.ctx % 4096) with
  | some x => svaTag s x.f x.pasid
  | none => plainTag 0

/-- A partner's write to host memory; an invalidation of its function waits for the link it took (R139). -/
def partnerStore (m : BresaMsg) (a : Nat) (bs : List Byte) (poison : Bool) (s : State) : State :=
  let t := partnerTag s m
  let l := (t.f, steer s a)
  let s := if linkCxl s l.2 || s.gw.partnerLinks.contains l then s else { s with gw := { s.gw with partnerLinks := l :: s.gw.partnerLinks } }
  hostWrite t none a bs poison s

/-- The bytes a WR stores: with LEN 1 those its byte-enable mask names (R358). -/
def wrBytes (m : BresaMsg) (a : Nat) : List PByte :=
  let p := if m.flags % 2 = 1 then some 0 else none
  let all := (fitBytes (64 * m.len) m.payload).zipIdx.map fun x => ({ at_ := a + x.2, val := x.1, poison := p } : PByte)
  if m.len = 1 then all.filter fun x => bit m.aux (x.at_ - a) else all

/-- Contiguous runs of bytes in address order. -/
def byteRuns (bs : List PByte) : List (List PByte) :=
  bs.foldr (fun b acc => match acc with
    | (c :: r) :: t => if c.at_ = b.at_ + 1 then (b :: c :: r) :: t else [b] :: (c :: r) :: t
    | acc => [b] :: acc) []

/-- The number by which a partner's atomic on host memory answers (log entry 27). -/
def partnerAtomic (b id : Nat) : Nat := 2 ^ 62 + 8 * id + b

/-- The operation of an ATOMIC or PKT_ADD for a journal. -/
def bresaJop (m : BresaMsg) : JOp :=
  if m.typ = 3 then .atomic ((aopOf (bits m.aux 7 0)).getD .add) (bresaLen m) (fld m.payload 0 (bresaLen m)) (fld m.payload 16 (bresaLen m))
  else .packet (vecOf (fitBytes 64 m.payload)) (m.flags % 2 = 1)

/-- Expect n parts before the answer of a request. -/
def expectParts (w : Who) (n : Nat) (s : State) : State :=
  { s with mem := { s.mem with gathers := { who := w, left := n, bytes := [], status := 0 } :: s.mem.gathers.filter fun g => g.who ≠ w } }

/-- Perform a translated request in device memory. -/
def bresaDevice (b id : Nat) (m : BresaMsg) (x : Ctx) (a : Nat) (s : State) : State :=
  let w : Who := .bresa b id
  let cls := bits m.label 15 13
  let o : Origin := ⟨.partner, lowerBerth s b⟩
  let req := s.mem.nextOp
  let part (whole : Bool) (line : Nat) (act : HomeAct) (jid : Option (Nat × Nat)) (s : State) : State := issueOf req whole line x.f false o cls act w jid s
  let go := part false
  let s := acCount a (1 + b) (cdiv (a % 64 + bresaLen m) 64) (m.cls = 0 && m.typ ≠ 1) s
  match m.cls, m.typ with
  | 0, 1 => (List.range (bits m.aux 2 0)).foldl (fun s i => go (a + 64 * i) .read none s) (expectParts w (bits m.aux 2 0) s)
  | 0, 2 =>
    let bs := wrBytes m a
    let ps := (List.range m.len).filterMap fun i =>
      let l := bs.filter fun x => x.at_ / 64 = a / 64 + i
      if l.isEmpty then none else some (a / 64 * 64 + 64 * i, l)
    if ps.isEmpty then bresaReply b id 0 0 [] s
    else ps.foldl (fun s p => part (fillsBlock bs p.1) p.1 (.write p.2) none s) (expectParts w ps.length s)
  | 0, _ =>
    let (j, s) := journalId (88 + b) s
    let act : HomeAct := match bresaJop m with
      | .atomic op n p q => .atomic op n p q (a % 64)
      | .packet v bad => .packet v bad
      | _ => .read
    go (a / 64 * 64) act (some j) (expectParts w 1 s)
  | _, typ => go a (if typ = 2 then .own (lowerBerth s b) else .share (lowerBerth s b)) none (expectParts w 1 s)

/-- Send a translated request through an outbound window (R408, R414). -/
def bresaRemote (b id : Nat) (m : BresaMsg) (a : Nat) (s : State) : State :=
  let w : Who := .bresa b id
  let send (kind at_ n : Nat) (op : RemOp) (s : State) : State :=
    match sendRemote w kind at_ n at_ op s with
    | (some _, s) => s
    | (none, s) => bresaAnswer b id 0 [] 1 s
  if m.cls = 1 then bresaReply b id 6 0 [] s
  else match m.typ with
  | 1 => send 0 a (bresaLen m) (.read (bresaLen m)) (expectParts w 1 s)
  | 2 =>
    let rs := byteRuns (wrBytes m a)
    if rs.isEmpty then bresaReply b id 0 0 [] s
    else rs.foldl (fun s r => send 1 ((r.head?.map (·.at_)).getD a) r.length (.write (r.map (·.val)) (m.flags % 2 = 1)) s) (expectParts w rs.length s)
  | _ =>
    let (q, s) := hubSeq s
    send 2 a (bresaLen m) (.nonIdem q (bresaJop m)) (expectParts w 1 s)

/-- The bounce slot through which a partner's request reaches host memory (R471). -/
def bresaBounce (s : State) (m : BresaMsg) : Option (Nat × Slot) :=
  if bits m.ctx 13 12 ≠ 0 then none else (mget s.qe.ctxs (m.ctx % 4096)).bind fun x => bounceOf s x.f (m.ctx % 4096)

/-- The units, with their tag records, that a partner's request of a bounce context touches. -/
def bresaUnits (bn : Option (Nat × Slot)) (m : BresaMsg) : List Seg := widen bn ⟨2, 0, m.addr, bresaLen m⟩

/-- A partner's request of a bounce context reads the units it touches (R471). -/
def bresaUnitRead (b id : Nat) (m : BresaMsg) (bn : Option (Nat × Slot)) (items : List Item) (s : State) : State :=
  let w : Who := .bresa b id
  let ps := (bresaUnits bn m).flatMap fun g => (pieces 4096 g.addr g.len).filterMap fun p => match outOf items 0 p.1 with
    | some (o, .host) => some (sideAt g.side p.1, o, p.2)
    | _ => none
  ps.foldl (fun s p => hostRead (partnerTag s m) w p.1 p.2.1 p.2.2 s)
    (expectParts w ((ps.map fun p => (readPieces s p.2.1 p.2.2).length).sum) s)

/-- A partner's bytes are stored through the bounce slot, unit by unit (R471). -/
def bresaUnitStore (n : Nat) (sl : Slot) (m : BresaMsg) (items : List Item) (buf bs : List PByte) (s : State) : State :=
  (byPage bs).foldl (fun s l => match l with
    | [] => s
    | x :: _ =>
      let ((cipher, rec_), s) := sealUnit n sl (sl.unit x.at_) buf l s
      [cipher, rec_].foldl (fun s r => match r with
        | [] => s
        | y :: _ => match outOf items 0 y.at_ with
          | some (o, .host) => partnerStore m o (r.map (·.val)) (ppoison r).isSome s
          | _ => s) s) s

/-- The units of a partner's request have come: they are opened, and the request is answered; a write, an atomic and a packet addition are
merged into them and seal them again (R471, R472). -/
def bresaUnitDone (b id : Nat) (m : BresaMsg) (items : List Item) (bytes : List PByte) (s : State) : State :=
  match bresaBounce s m with
  | none => bresaReply b id 1 0 [] s
  | some (n, sl) =>
    let (buf, s) := openUnits (partnerAtomic b id) 2 sl (segUnits sl 2 (bresaUnits (some (n, sl)) m)) bytes s
    let old := bufBytes buf 2 m.addr (bresaLen m)
    let bad := (ppoison old).isSome
    let store := bresaUnitStore n sl m items buf
    match m.typ with
    | 1 => bresaReply b id (if bad then 3 else 0) 0 (old.map (·.val)) s
    | 2 => bresaReply b id (if bad then 3 else 0) 0 [] (store (wrBytes m m.addr) s)
    | _ => match bresaJop m with
      | .atomic op k p q =>
        if bad then bresaEnd b id 3 m s
        else bresaReply b id 0 0 (old.map (·.val)) (store (asPBytes m.addr (leBytes k (atomicNew op k (pnum old) p q))) s)
      | .packet v mark =>
        let sum := accMerge (accOfPacket (vecOf (old.map (·.val))) false bad) (accOfPacket v false mark)
        bresaReply b id (if bad then 3 else 0) 0 [] (store (asPBytes m.addr (vecBytes (packetOf sum))) s)
      | _ => s

/-- Perform a translated request in host memory. A packet addition reads the line first (R312); a detached host faults it. -/
def bresaHost (b id : Nat) (m : BresaMsg) (x : Ctx) (a : Nat) (items : List Item) (s : State) : State :=
  let w : Who := .bresa b id
  if m.cls = 1 then bresaReply b id 6 0 [] s
  else if s.gw.detached then bresaReply b id 1 0 [] s
  else if (bresaBounce s m).isSome then
    if m.typ = 3 && (0x42 < bits m.aux 7 0 || !(fnCfg s x.f).atomicReq) then bresaReply b id 6 0 [] s
    else bresaUnitRead b id m (bresaBounce s m) items s
  else match m.typ with
  | 2 => bresaReply b id 0 0 []
      ((byteRuns (wrBytes m a)).foldl (fun s r => partnerStore m ((r.head?.map (·.at_)).getD a) (r.map (·.val)) (m.flags % 2 = 1) s) s)
  | 3 =>
    match bresaJop m with
    | .atomic op n p q =>
      if 0x42 < bits m.aux 7 0 || !(fnCfg s x.f).atomicReq then bresaReply b id 6 0 [] s
      else emit (.hostAtomic (steer s a) (partnerAtomic b id) a op n p q (partnerTag s m)) s
    | _ => s
  | _ => hostRead (partnerTag s m) w a a (bresaLen m) (expectParts w (readPieces s a (bresaLen m)).length s)

/-- Take a partner's request as far as its translation goes (R369); one whose context is no longer granted goes no further (R368). -/
def bresaGo (b id : Nat) (s : State) : State :=
  let w : Who := .bresa b id
  match mget (getBerth s b).opens id with
  | none => dropPlan w s
  | some o =>
    let m := o.msg
    match getPlan s w, mget s.qe.ctxs (m.ctx % 4096) with
    | some _, some x =>
      if o.issued then s
      else if !(getBerth s (lowerBerth s b)).grants.contains (m.ctx % 4096) then bresaReply b id 5 0 [] (dropPlan w s)
      else match planAt s w with
      | .waiting => s
      | .failed _ bad => bresaEnd b id (badStatus bad) m (dropPlan w s)
      | .ready items =>
        match outOf items (bits m.ctx 13 12) m.addr with
        | none => s
        | some (a, k) =>
          let s := updBerth b (fun be => { be with opens := mset be.opens id { o with
            issued := true, items := if k = .host && (bresaBounce s m).isSome then items else [] } }) (dropPlan w s)
          if k = .host then bresaHost b id m x a items s
          else if region s a = 4 then bresaRemote b id m a s
          else bresaDevice b id m x a s
    | _, _ => bresaReply b id 5 0 [] (dropPlan w s)

/-- A MEM or COH request arrives (R368, R369, R373). -/
def bresaStart (b : Nat) (m : BresaMsg) (s : State) : State :=
  let be := getBerth s b
  let id := be.nextTag
  let s := updBerth b (fun be => { be with nextTag := id + 1, opens := mset be.opens id { msg := m } }) s
  let cx := m.ctx % 4096
  let space := bits m.ctx 13 12
  match mget s.qe.ctxs cx with
  | none => bresaReply b id 5 0 [] s
  | some x =>
    if !(getBerth s (lowerBerth s b)).grants.contains cx then bresaReply b id 5 0 [] s
    else if space = 3 || (space = 2 && x.f ≠ 0) || bresaOdd m then bresaReply b id 6 0 [] s
    else
      bresaGo b id (planStart { who := .bresa b id, f := x.f, pasid := x.pasid, tenant := x.f, report := x.report, cls := bits m.label 15 13,
                                items := touchIo (bresaBounce s m) space m.addr (bresaLen m) (bresaRights m) [] } s)

/-- Host bytes of a partner's request have come; a packet addition is then written back. -/
def bresaHostDone (b id : Nat) (bs : List PByte) (poison : Bool) (s : State) : State :=
  match mget (getBerth s b).opens id with
  | none => s
  | some o =>
    match gather (.bresa b id) bs (if poison then 3 else 0) s with
    | (none, s) => s
    | (some g, s) =>
      let data := g.sorted.map (·.val)
      if !o.items.isEmpty then bresaUnitDone b id o.msg o.items g.bytes s
      else if o.msg.typ = 4 then
        let sum := accMerge (accOfPacket (vecOf data) false (g.status = 3)) (accOfPacket (vecOf (fitBytes 64 o.msg.payload)) false (o.msg.flags % 2 = 1))
        let a := (g.sorted.head?.map (·.at_)).getD 0
        bresaReply b id g.status 0 [] (partnerStore o.msg a (vecBytes (packetOf sum)) false s)
      else bresaReply b id g.status 0 data s

/-- The host's answer to a partner's atomic. -/
def partnerAtomicDone (k : Nat) (a : AtomicAnswer) (s : State) : State :=
  let b := (k - 2 ^ 62) % 8
  let id := (k - 2 ^ 62) / 8
  match mget (getBerth s b).opens id with
  | none => s
  | some o =>
    if !o.issued || o.msg.typ ≠ 3 then s
    else match a with
      | .old v => bresaReply b id 0 0 (leBytes (bresaLen o.msg) v) s
      | .unsupported => bresaReply b id 1 0 [] s

/-- A partner's atomic on host memory reaches its completion timeout (R556). -/
def partnerAtomicLate (k : Nat) (s : State) : State :=
  let b := (k - 2 ^ 62) % 8
  let id := (k - 2 ^ 62) / 8
  match mget (getBerth s b).opens id with
  | none => s
  | some o => if o.issued && o.msg.typ = 3 then bresaEnd b id 3 o.msg s else s

/-! ### Plain CXL partners (R371) -/

/-- A CXL request that failed: poisoned data, of no known value, for a read, a dropped write. -/
def cxlFail (b id : Nat) (s : State) : State :=
  let (bs, s) := freeBytes 64 s
  cxlAnswer b id bs true (berthErr b 5 (bump (.qyBerth b) 0x060 1 s))

/-- Take a CXL request as far as its translation goes. -/
def cxlGo (b id : Nat) (s : State) : State :=
  let w : Who := .cxl b id
  match mget (getBerth s b).opens id with
  | none => dropPlan w s
  | some o =>
    match getPlan s w with
    | none => s
    | some p =>
      match planAt s w with
      | .waiting => s
      | .failed .. => cxlFail b id (dropPlan w s)
      | .ready items =>
        match outOf items 1 (o.msg.addr / 64 * 64) with
        | none => s
        | some (a, _) =>
          let s := dropPlan w s
          if region s a = 4 then cxlFail b id s
          else
            let org : Origin := ⟨.partner, b⟩
            let s := acCount a (1 + b) 1 (o.msg.typ = 4) s
            match o.msg.typ with
            | 4 =>
              let bs := (asPBytes (a + o.msg.addr % 64) o.msg.payload).take (64 - o.msg.addr % 64)
              dropHolder a b (issue a p.tenant false org p.cls (.write bs) w none s)
            | t => issue a p.tenant false org p.cls (if t = 2 then .own b else .share b) w none s

/-- CXL_PARTNER_REQUEST: data for a write; own for a read that takes ownership. -/
def cxlRequest (b addr : Nat) (data : Option (List Byte)) (own : Bool) (s : State) : State :=
  let be := getBerth s b
  if be.st ≠ 3 || !be.cxl then s
  else
    let s := wakeUp s
    let cfg := getReg s (.qyBerth b) 0 0x048
    let id := be.nextTag
    let typ := if data.isSome then 4 else if own then 2 else 1
    let m : BresaMsg := { bmsg 1 typ 0 0 0 0 addr 0 [] false with payload := data.getD [] }
    let s := bump64 (.qyBerth b) 0x064 m.payload.length s
    let s := updBerth b (fun be => { be with nextTag := id + 1, opens := mset be.opens id { msg := m } }) s
    let r : Rights := ⟨typ ≠ 4, typ ≠ 1, false⟩
    cxlGo b id (planStart { who := .cxl b id, f := bits cfg 5 0, pasid := none, tenant := bits cfg 5 0, report := true, cls := bits cfg 10 8,
                            items := touch 1 (addr / 64 * 64) 64 r [] } s)

/-! ### Coherence -/

/-- The class of a partner's traffic: the label in the message, or the berth's own for a CXL partner (R342). -/
def partnerClass (s : State) (b label : Nat) : Nat :=
  if (getBerth s b).cxl then bits (getReg s (.qyBerth b) 0 0x048) 10 8 else bits label 15 13

/-- Data a holder gives back of a Modified line, written at the home under the tenant of the grant. -/
def writeBack (b : Nat) (m : BresaMsg) (line : Nat) (s : State) : State :=
  match sfEntry s line with
  | some e =>
    if e.modified && e.holders.contains (lowerBerth s b) then
      let s := setEntry line none s
      let bs := (asPBytes line (fitBytes 64 m.payload)).map fun x => { x with poison := if m.flags % 2 = 1 then some 0 else none }
      acCount line (1 + b) 1 true (giveBack line e.tenant ⟨.partner, lowerBerth s b⟩ (partnerClass s b m.label) bs s)
    else s
  | none => s

/-- EVICT_CLEAN or EVICT_DIRTY: the line leaves the berth and is acknowledged. -/
def evictLine (b : Nat) (m : BresaMsg) (dirty : Bool) (s : State) : State :=
  let line := m.addr / 64 * 64
  let s := if dirty then writeBack b m line s else s
  let s := dropHolder line (lowerBerth s b) s
  evictCheck b (homeDrain (sendBresa b (bmsg 1 0x12 m.tag 0 0 0 0 0 [] false) s))

/-- SNP_RSP: the snoop its TAG names is answered (R375). -/
def snoopAnswer (b : Nat) (m : BresaMsg) (s : State) : State :=
  let lo := lowerBerth s b
  match (getBerth s lo).snoops.find? fun p => p.1 = m.tag with
  | none => s
  | some (_, line) =>
    let s := if m.status = 2 then writeBack b m line s else s
    let s := updBerth lo (fun be => { be with snoops := be.snoops.filter fun p => p.1 ≠ m.tag }) (dropHolder line lo s)
    evictCheck b (homeDrain s)

/-- INV_ACK (R378). -/
def invAckGo (b : Nat) (m : BresaMsg) (s : State) : State :=
  updBerth (lowerBerth s b) (fun be => { be with invs := be.invs.filter fun i => i.1 % 4096 ≠ m.tag }) s

/-! ### Grants, tasks, events -/

/-- A grant write to QY.B_GRANT (R368). -/
def grantGo (b cx : Nat) (s : State) : State :=
  let lo := lowerBerth s b
  let be := getBerth s lo
  match mget s.qe.ctxs cx with
  | none => s
  | some x =>
    if be.st ≠ 3 || be.grants.contains cx then s
    else if be.cardFld 14 2 ≤ be.grants.length then berthErr lo 4 s
    else
      let s := updBerth lo (fun be => { be with grants := cx :: be.grants }) s
      if bit be.caps 1 then sendBresa lo (bindMsg 0x10 cx x) s else s

/-- A write of QY.B_GRANT. -/
def grantWrite (b v : Nat) (s : State) : State :=
  if bit v 31 then grantGo b (bits v 11 0) s else revokeGrant (lowerBerth s b) (bits v 11 0) s

/-- Whether a queue's owner is the partner at berth b. -/
def ownedBy (s : State) (b : Nat) (o : Option Nat) : Bool := match o with | some x => lowerBerth s x = lowerBerth s b | none => false

/-- TSK DOORBELL (R97). -/
def tskDoorbellGo (b : Nat) (m : BresaMsg) (s : State) : State :=
  let q := bits m.addr 12 0
  match mget s.qe.sqs q with
  | some sq => if ownedBy s b sq.berth then doorbell q (bits m.aux 15 0) (bits m.aux 31 16) (bits m.aux 31 0) (countDoorbell s) else dbBad s
  | none => dbBad s

/-- TSK CQ_HEAD (R97). -/
def tskHeadGo (b : Nat) (m : BresaMsg) (s : State) : State :=
  let q := bits m.addr 12 0
  match mget s.qe.cqs q with
  | some cq => if ownedBy s b cq.berth then headUpdate q (bits m.aux 15 0) (countDoorbell s) else dbBad s
  | none => dbBad s

/-- TSK FENCE_SIGNAL: a fence of the function the partner's queues are bound to (R179). -/
def tskSignalGo (b : Nat) (m : BresaMsg) (s : State) : State :=
  let n := bits m.addr 15 0
  match mget s.qe.blocks (n / 256) with
  | some x =>
    if (s.qe.sqs.any fun p => ownedBy s b p.2.berth && p.2.f = x.f) || (s.qe.cqs.any fun p => ownedBy s b p.2.berth && p.2.f = x.f)
    then signalFence n (BitVec.ofNat 64 m.aux) s else s
  | none => s

/-- INT EVENT (R380). -/
def partnerEvent (b : Nat) (m : BresaMsg) (s : State) : State :=
  let lo := lowerBerth s b
  let n := bits m.aux 11 0
  if n < (getBerth s lo).cardFld 16 2 then ecSense 3 (0x8000 + 4096 * lo + n) s
  else raise (.qyBerth lo) 3 (bump (.qyBerth lo) 0x05C 1 s)

/-- PWR REQUEST (R531). -/
def powerRequestGo (b : Nat) (m : BresaMsg) (s : State) : State :=
  let lo := lowerBerth s b
  raiseGrants (updBerth lo (fun be => { be with asked := Nat.max be.granted (bits m.aux 15 0) }) s)

/-- CREDIT: credits of a class come back, and what waited for them leaves. -/
def creditGo (b : Nat) (m : BresaMsg) (s : State) : State :=
  pumpBresa b (updBerth b (fun be => { be with txCredits := be.txCredits.set m.cls (be.txCredits.getD m.cls 0 + bits m.aux 15 0) }) s)

/-- A snoop of the berth stayed unanswered for QY.SNP_LIMIT. -/
def snoopLate (b : Nat) (s : State) : State := if (getBerth s b).snoops.isEmpty then s else depart b 3 s

/-- An INV stayed unanswered for QY.INV_LIMIT. -/
def invLate (b : Nat) (s : State) : State := if (getBerth s b).invs.isEmpty then s else depart b 4 s

/-- A berth's link goes down: no module of it is up, and its berth departs (R352, R382). -/
def berthLinkDown (b : Nat) (s : State) : State :=
  let st := (getBerth s b).st
  if st = 2 || st = 3 || st = 4 || st = 6 then
    let s := updBerth b (fun be => { be with modules := 0, half := 0 }) s
    if st = 4 then s else depart b 2 s
  else s

/-! ### The commands -/

/-- PARTNER_RESET_RELEASE. -/
def execPartnerResetRelease (b : Nat) (s : State) : Host.Outcome State Fault Refusal := onUnit b 8 (resetRelease b s)
/-- BERTH_LINK_UP. -/
def execBerthLinkUp (b : Nat) (cxl : Bool) (modules half rate : Nat) (s : State) : Host.Outcome State Fault Refusal :=
  onUnit b 8 (linkUpGo b cxl modules half rate s)
/-- TRAIN_LIMIT_EXPIRY. -/
def execTrainLimitExpiry (b : Nat) (s : State) : Host.Outcome State Fault Refusal := onUnit b 8 (trainAgain b s)
/-- CARD: one needs no credit in CARD_WAIT; its header is checked like any other (R359, R361). -/
def execCard (b : Nat) (m : BresaMsg) (s : State) : Host.Outcome State Fault Refusal :=
  onUnit b 8 (
    let be := getBerth s b
    if be.st = 2 && (be.cxl || (!be.carded && m.cls = 5 && m.typ = 1 && !bresaBad be m)) then
      cardGo b m (wakeUp (bump64 (.qyBerth b) 0x064 (msgBytes be m) s))
    else receive b 5 1 m (fun s => s) s)
/-- CARD_TIMEOUT. -/
def execCardTimeout (b : Nat) (s : State) : Host.Outcome State Fault Refusal := onUnit b 8 (cardLate b s)
/-- BERTH_LINK_DOWN. -/
def execBerthLinkDown (b : Nat) (s : State) : Host.Outcome State Fault Refusal :=
  onUnit b 8 (berthLinkDown b s)
/-- BERTH_DEPARTURE_END. -/
def execBerthDepartureEnd (b : Nat) (s : State) : Host.Outcome State Fault Refusal := onUnit b 8 (departFinish b s)
/-- SNOOP_LIMIT. -/
def execSnoopLimit (b : Nat) (s : State) : Host.Outcome State Fault Refusal := onUnit b 8 (snoopLate b s)
/-- INV_LIMIT. -/
def execInvLimit (b : Nat) (s : State) : Host.Outcome State Fault Refusal := onUnit b 8 (invLate b s)
/-- RD. -/
def execRd (b : Nat) (m : BresaMsg) (s : State) : Host.Outcome State Fault Refusal := onUnit b 8 (receive b 0 1 m (bresaStart b m) s)
/-- WR. -/
def execWr (b : Nat) (m : BresaMsg) (s : State) : Host.Outcome State Fault Refusal := onUnit b 8 (receive b 0 2 m (bresaStart b m) s)
/-- BRESA_ATOMIC. -/
def execBresaAtomic (b : Nat) (m : BresaMsg) (s : State) : Host.Outcome State Fault Refusal := onUnit b 8 (receive b 0 3 m (bresaStart b m) s)
/-- PKT_ADD. -/
def execPktAdd (b : Nat) (m : BresaMsg) (s : State) : Host.Outcome State Fault Refusal := onUnit b 8 (receive b 0 4 m (bresaStart b m) s)
/-- CREDIT, of the class the message names. -/
def execCredit (b : Nat) (m : BresaMsg) (s : State) : Host.Outcome State Fault Refusal := onUnit b 8 (receive b m.cls 0 m (creditGo b m) s)
/-- RD_SHARED. -/
def execRdShared (b : Nat) (m : BresaMsg) (s : State) : Host.Outcome State Fault Refusal := onUnit b 8 (receive b 1 1 m (bresaStart b m) s)
/-- RD_OWN. -/
def execRdOwn (b : Nat) (m : BresaMsg) (s : State) : Host.Outcome State Fault Refusal := onUnit b 8 (receive b 1 2 m (bresaStart b m) s)
/-- EVICT_CLEAN. -/
def execEvictClean (b : Nat) (m : BresaMsg) (s : State) : Host.Outcome State Fault Refusal := onUnit b 8 (receive b 1 3 m (evictLine b m false) s)
/-- EVICT_DIRTY. -/
def execEvictDirty (b : Nat) (m : BresaMsg) (s : State) : Host.Outcome State Fault Refusal := onUnit b 8 (receive b 1 4 m (evictLine b m true) s)
/-- SNP_RSP, of a Bresa partner or of a plain CXL partner. -/
def execSnpRsp (b : Nat) (m : BresaMsg) (s : State) : Host.Outcome State Fault Refusal :=
  onUnit b 8 (if (getBerth s b).cxl then (if (getBerth s b).st = 3 then snoopAnswer b m (bump64 (.qyBerth b) 0x064 (64 * m.len) s) else s) else receive b 1 5 m (snoopAnswer b m) s)
/-- INV_ACK. -/
def execInvAck (b : Nat) (m : BresaMsg) (s : State) : Host.Outcome State Fault Refusal := onUnit b 8 (receive b 1 6 m (invAckGo b m) s)
/-- TSK_DOORBELL. -/
def execTskDoorbell (b : Nat) (m : BresaMsg) (s : State) : Host.Outcome State Fault Refusal := onUnit b 8 (receive b 2 1 m (tskDoorbellGo b m) s)
/-- CQ_HEAD. -/
def execCqHead (b : Nat) (m : BresaMsg) (s : State) : Host.Outcome State Fault Refusal := onUnit b 8 (receive b 2 2 m (tskHeadGo b m) s)
/-- FENCE_SIGNAL. -/
def execFenceSignal (b : Nat) (m : BresaMsg) (s : State) : Host.Outcome State Fault Refusal := onUnit b 8 (receive b 2 3 m (tskSignalGo b m) s)
/-- UNBIND_ACK. -/
def execUnbindAck (b : Nat) (m : BresaMsg) (s : State) : Host.Outcome State Fault Refusal :=
  onUnit b 8 (receive b 2 4 m (updBerth (lowerBerth s b) fun be => { be with unbinds := be.unbinds.erase (m.ctx % 4096) }) s)
/-- EVENT. -/
def execEvent (b : Nat) (m : BresaMsg) (s : State) : Host.Outcome State Fault Refusal := onUnit b 8 (receive b 3 1 m (partnerEvent b m) s)
/-- PWR_REQUEST. -/
def execPwrRequest (b : Nat) (m : BresaMsg) (s : State) : Host.Outcome State Fault Refusal := onUnit b 8 (receive b 4 1 m (powerRequestGo b m) s)
/-- PWR_RELEASE. -/
def execPwrRelease (b : Nat) (m : BresaMsg) (s : State) : Host.Outcome State Fault Refusal :=
  onUnit b 8 (receive b 4 2 m (releasePower (lowerBerth s b) (bits m.aux 15 0)) s)
/-- LEAVE. -/
def execLeave (b : Nat) (m : BresaMsg) (s : State) : Host.Outcome State Fault Refusal :=
  onUnit b 8 (receive b 5 2 m (fun s => depart b 1 (sendBresa b (bmsg 5 0x12 0 0 0 0 0 0 [] false) s)) s)
/-- CXL_PARTNER_REQUEST. -/
def execCxlPartnerRequest (b addr : Nat) (data : Option (List Byte)) (own : Bool) (s : State) : Host.Outcome State Fault Refusal :=
  onUnit b 8 (cxlRequest b addr data own s)
/-- BERTH_TIME_TIMER. -/
def execBerthTimeTimer (s : State) : Host.Outcome State Fault Refusal := .next (timeAll s)

end Sys2Proof.Machine
end

