-- ==== Sys2Proof/Machine/Hawser.lean ====
section
/-! DEFINITION. Hawser links and their loss (R392 to R397), the manager (R399 to R405), time across hubs (R406, R407), remote windows
(R408 to R416) and what their answers do at the source. -/

namespace Sys2Proof.Machine

/-! ### Links -/

/-- Link l. -/
def getLink (s : State) (l : Nat) : Link := mgetD s.hl.links l {}

/-- Link l changed by f. -/
def updLink (l : Nat) (f : Link → Link) (s : State) : State :=
  { s with hl := { s.hl with links := mset s.hl.links l (f (getLink s l)) } }

/-- HL.L_CTL.EN. -/
def linkEn (s : State) (l : Nat) : Bool := bit (getReg s (.hlLink l) 0 0x040) 31
/-- HL.L_CTL.MODE: Ethernet. -/
def isEther (s : State) (l : Nat) : Bool := bit (getReg s (.hlLink l) 0 0x040) 30
/-- HL.L_CTL.GPTP. -/
def gptpRole (s : State) (l : Nat) : Nat := bits (getReg s (.hlLink l) 0 0x040) 29 28

/-- Send a Hawser message on a link that carries messages; an Ethernet link carries none (R391). -/
def sendHawser (l : Nat) (name : String) (args : List Nat) (s : State) : State :=
  if ((getLink s l).st = 4 || (getLink s l).st = 5) && !isEther s l then emit (.hawser l name args) s else s

/-- Bytes that a read of a party brought: at the keys from va on, with their poison. -/
def deliver (who : Who) (va : Nat) (bs : List Byte) (poison : Option Nat) (s : State) : State :=
  let ps := (asPBytes va bs).map fun b => { b with poison := poison }
  match who with
  | .mover m => { s with gm := { s.gm with movers := mupd s.gm.movers m fun j =>
      if j.phase = .auxRead then { j with aux := ps ++ j.aux } else { j with buf := ps ++ j.buf } } }
  | .lane l => { s with gm := { s.gm with lanes := mupd s.gm.lanes l fun j => { j with buf := ps ++ j.buf } } }
  | .atomicUnit k | .recipe k | .cmd k => updCmd k (fun c => { c with buf := ps ++ c.buf }) s
  | .churn k => { s with ch := { s.ch with runs := mupd s.ch.runs k fun r => { r with buf := ps ++ r.buf } } }
  | .bresa b id => bresaHostDone b id ps poison.isSome s
  | _ => s

/-- A party's request ended with a status that stops its command at the tile that needs it (R230, R414). -/
def stopParty (who : Who) (status detail addr : Nat) (s : State) : State :=
  match whoCmd s who with
  | some k => updCmd k (fun c => match c.stop with | none => { c with stop := some (status, detail), fault := addr } | some _ => c) s
  | none => s

/-- R360's STATUS for a completion status. -/
def bresaStatus (status : Nat) : Nat :=
  if status = stSuccess then 0 else if status = stRights then 2 else if status = stPoisoned then 3 else if status = stAddress then 4 else 1

/-- The pages of a plan that wait for PLAN tag take its answer: the page at the failing address cannot be used, the others can (R415). -/
def planAnswer (who : Who) (tag : Nat) (bad : Option (Option Nat × Bad)) (s : State) : State :=
  match getPlan s who with
  | none => s
  | some p =>
    let mine (it : Item) (b : Bad) : Bad := if b = .short ⟨false, false, false⟩ then .short it.rights else b
    let one (it : Item) : Item := match it.st with
      | .remoteWait t o => if t ≠ tag then it else match bad with
        | some (at_, b) => if at_ = none || at_ = some (planAddr s o) then { it with st := .bad (mine it b) } else { it with st := .ok o .dpa }
        | none => { it with st := .ok o .dpa }
      | _ => it
    let items := p.items.map one
    planAdvance who (setPlan { p with items := items }
      ((items.zip p.items).foldl (fun s x => if x.1.st = x.2.st then s else noteBad p.f x.1.st s) s))

/-- A PLAN sent ahead is answered: OK it stands for its tile's own; otherwise it is forgotten, and the tile asks again (R117, R415). -/
def aheadAnswer (tag : Nat) (ok : Bool) (s : State) : State :=
  { s with hl := { s.hl with ahead := s.hl.ahead.filterMap fun a => if a.tag ≠ tag then some a else if ok then some { a with ok := true } else none } }

/-- The failure a PLAN answer reports. -/
def planBad (status detail : Nat) : Bad :=
  if status = stRights then .short ⟨bit detail 0, bit detail 1, bit detail 2⟩
  else if status = stLinkGone then .link
  else if status = stFault && detail = 1 then .timeout
  else if status = stPoisoned then .walkPoison
  else .absent

/-- The DETAIL of a peer's RIGHTS: what it names, or, where a tag check failed and it names none, the rights the access needed (R467). -/
def rightsDetail (o : RemOut) (status detail : Nat) : Nat :=
  if status ≠ stRights || detail ≠ 0 || o.kind = 3 then detail
  else if o.kind = 0 then 1 else if o.kind = 1 then 2 else match o.who with | .atomicUnit _ => 4 | _ => 3

/-- What the answer to a request of this hub does at its party (R160, R414, R416). -/
def remoteDone (o : RemOut) (status detail : Nat) (data : List Byte) (poison : Bool) (s : State) : State :=
  let detail := rightsDetail o status detail
  let s := { s with hl := { s.hl with outs := s.hl.outs.filter fun x => x.tag ≠ o.tag } }
  let clear (s : State) : State := { s with qe := { s.qe with
    cmds := s.qe.cmds.map fun p => (p.1, { p.2 with remote := p.2.remote.filter (· ≠ o.tag) }),
    sqs := s.qe.sqs.map fun p => (p.1, { p.2 with trailRemote := p.2.trailRemote.filter (· ≠ o.tag) }) } }
  let mark := if status = stPoisoned || poison then some detail else none
  if o.kind = 3 then
    planAnswer o.who o.tag (if status = stSuccess then none else some (if status = stLinkGone then none else some (leNat data), planBad status detail))
      (aheadAnswer o.tag (status = stSuccess) s)
  else match o.who with
  | .bresa b id => bresaAnswer b id 0 (asPBytes o.va data) (bresaStatus status) s
  | .atomicUnit k =>
    if o.kind = 2 then
      let addr := match getCmd s k with | some c => atAddr c.raw | none => 0
      if status = stSuccess then updCmd k (fun c => { c with old := some (leNat data), done := 1 }) s
      else atEnd k (finish k status detail 0 (if status = stLinkGone then 0 else addr) s)
    else if status = stSuccess || status = stPoisoned then clear (deliver o.who o.va data mark s)
    else clear (stopParty o.who status detail (o.va % 2 ^ 64) s)
  | who =>
    if status = stSuccess || status = stPoisoned then
      let s := if o.kind = 0 then deliver who o.va data mark s else s
      clear (match who with
        | .lane l => (match mget s.gm.lanes l with
            | some j => if o.kind = 2 && status = stPoisoned then noteDst j.k (o.va % 2 ^ 64) 0 s else s
            | none => s)
        | .mover m => (match mget s.gm.movers m with
            | some j => if o.kind = 2 && status = stPoisoned then noteDst j.k (o.va % 2 ^ 64) detail s else s
            | none => s)
        | _ => s)
    else clear (stopParty who status detail (if status = stLinkGone then 0 else o.va % 2 ^ 64) s)

/-- The answer to a request that this hub passed on goes back the way the request came (R401); a lost link carries none. -/
def forwardBack (x : Forwarded) (status detail : Nat) (data : List Byte) (poison : Bool) (s : State) : State :=
  remoteReply x.inLink x.src x.inTag status detail data poison { s with hl := { s.hl with forwards := s.hl.forwards.filter fun y => y.tag ≠ x.tag } }

/-- REMOTE_ACK: the answer to request tag, or to one passed on; a non-idempotent one is acknowledged to its home's journal (R553). -/
def remoteAckGo (tag status detail : Nat) (data : List Byte) (poison : Bool) (s : State) : State :=
  match s.hl.outs.find? fun o => o.tag = tag with
  | none => match s.hl.forwards.find? fun x => x.tag = tag with
    | some x => forwardBack x status detail data poison s
    | none => s
  | some o =>
    let s := if o.kind = 2 then sendHawser o.link "JOURNAL_ACK" [s.hl.hubId, o.seq] s else s
    remoteDone o status detail data poison s

/-- The journal source of requests that arrive on link l from hub src. -/
def peerSource (l src : Nat) : Nat := 4096 * (l + 1) + src

/-- A WINDOW_CREATE ends LINK_GONE and leaves no entry (R396, R405). -/
def createGone (k : Nat) (s : State) : State :=
  match getCmd s k with
  | none => s
  | some c =>
    let s := if fld c.raw 16 1 = 0 then { s with hl := { s.hl with inw := mdel s.hl.inw c.aux } } else s
    adminEnd k stLinkGone 0 0 s

/-- The requests that went up a link without an answer: a WINDOW_CREATE's registration or resolution completes LINK_GONE; an ID is asked for
again by the next way (R396). -/
def dropAsks (l : Nat) (s : State) : State :=
  let mine := (s.hl.winAsks.filter fun a => a.2 = l).map (·.1)
  let s := mine.foldl (fun s k => createGone k s) { s with hl := { s.hl with winAsks := s.hl.winAsks.filter fun a => a.2 ≠ l } }
  if l = s.hl.upstream then { s with hl := { s.hl with idAsks := [], claimed := s.hl.claimed && !s.hl.idAsks.contains none } } else s

/-- A link's traffic ends: what it carried of this hub completes LINK_GONE, what it carried for another hub is answered so, and its journal
entries go (R396, R553). -/
def dropTraffic (l : Nat) (s : State) : State :=
  let mine := s.hl.outs.filter fun o => o.link = l
  let s := mine.foldl (fun s o => remoteDone o stLinkGone 0 [] false s) s
  let s := { s with hl := { s.hl with forwards := s.hl.forwards.filter fun x => x.inLink ≠ l } }
  let s := (s.hl.forwards.filter fun x => x.link = l).foldl (fun s x => forwardBack x stLinkGone 0 [] false s) s
  let s := dropAsks l s
  { s with mem := { s.mem with journal := s.mem.journal.filter fun j => j.src / 4096 ≠ l + 1 } }

/-- What a link knows of its peer is forgotten. -/
def Link.alone (k : Link) : Link := { k with heard := none, peer := none, peerVersion := 0, peerGrade := 0, peerHops := none, peerManager := none }

/-- A link leaves for state st. -/
def linkFalls (l st : Nat) (s : State) : State :=
  let s := updLink l (fun k => { k.alone with st := st, lanes := 0, replays := 0 }) s
  homeDrain (annexTouch (dropTraffic l s))

/-- EN of a link set (R392): the seventeenth of the vehicle profile is refused. -/
def linkOn (o : Origin) (l : Nat) (s : State) : State :=
  let others := ((List.range 48).filter fun i => i ≠ l && linkEn s i).length
  if s.fuses.vehicle && 16 ≤ others then
    capErr .hl 1 o (setReg (.hlLink l) 0 0x040 (getReg s (.hlLink l) 0 0x040 % 2 ^ 31) s)
  else if (getLink s l).st = 0 then annexTouch (updLink l (fun k => { k with st := 1 }) s)
  else s

/-- EN of a link cleared: OFF. -/
def linkOff (l : Nat) (s : State) : State := if (getLink s l).st = 0 then s else linkFalls l 0 s

/-- This hub's words in HELLO: version, grade, ID and whether it is fixed, eligibility, manager, hops (R393). -/
def helloArgs (s : State) : List Nat :=
  let cfg := getReg s .hl 0 0x040
  [hubVersion, hubGrade s, if s.hl.idValid then 1 + s.hl.hubId else 0, b2n (bit cfg 30), b2n (bit cfg 31),
    match s.hl.manager with | some m => 1 + m | none => 0, s.hl.hops]

/-- Whether this hub may become manager (R399). -/
def eligible (s : State) : Bool := bit (getReg s .hl 0 0x040) 31 && bit (getReg s .hl 0 0x040) 30

/-- Lanes lock: HELLO on a Hawser link, UP on an Ethernet link (DEDUCED, log entry 28). -/
def lanesLockedGo (l : Nat) (s : State) : State :=
  if (getLink s l).st ≠ 1 || !linkEn s l then s
  else if isEther s l then raise (.hlLink l) 0 (annexTouch (updLink l (fun k => { k with st := 4, lanes := 15, epoch := k.epoch + 1 }) s))
  else emit (.hawser l "HELLO" (helloArgs s)) (annexTouch (updLink l (fun k => { k with st := 2, lanes := 15 }) s))

/-- This hub's fixed ID is refused: CONFLICT, its Hawser links in HELLO (R400). -/
def idRefused (s : State) : State :=
  let s := (s.hl.links.filter fun p => !isEther s p.1 && (p.2.st = 4 || p.2.st = 5)).foldl (fun s p => linkFalls p.1 2 s) s
  raise .hl 1 (capErr .hl 3 ⟨.peer, s.hl.hubId⟩ { s with hl := { s.hl with
    role := 4, idValid := false, links := s.hl.links.map fun p => (p.1, if p.2.st = 3 then { p.2 with st := 2 } else p.2) } })

/-- HELLO received (R393, R400). Of two neighbours with one fixed ID the one that comes to a system is refused; both, where each is part of one.
The other keeps the link in HELLO (log entry 71). -/
def helloGo (l : Nat) (h : HelloMsg) (s : State) : State :=
  if (getLink s l).st ≠ 2 then s
  else
    let s := updLink l (fun k => { k with
      peer := h.id, peerVersion := h.version, peerGrade := h.grade, peerHops := if h.manager.isSome then some h.hops else none, peerManager := h.manager }) s
    let cfg := getReg s .hl 0 0x040
    let alone := !((List.range 48).any fun i => hawserUp s i)
    if h.version / 2 ^ 24 % 256 ≠ 3 then annexTouch (capErr .hl 2 ⟨.peer, h.id.getD 0⟩ s)
    else if s.hl.role = 4 then annexTouch s
    else if s.hl.idValid && h.id = some s.hl.hubId then annexTouch (if bit cfg 30 && (alone || h.manager.isSome) then idRefused s else s)
    else annexTouch (updLink l (fun k => { k with st := 3 }) s)

/-- The link's SPDM session is up, or its peer's chain failed (R393, R474). -/
def sessionUpGo (l : Nat) (ok : Bool) (s : State) : State :=
  if (getLink s l).st ≠ 3 then s
  else if !ok then capErr .hl 4 ⟨.peer, (getLink s l).peer.getD 0⟩ (capErr .sp 5 ⟨.peer, (getLink s l).peer.getD 0⟩ s)
  else
    let s := updLink l (fun k => { k with st := 4, epoch := k.epoch + 1, keyGen := 1, flits := 0, replays := 0, rekeyAsked := false }) s
    let s := raise (.hlLink l) 0 (annexTouch s)
    let ids := match (getLink s l).peer with | some i => if s.hl.known.contains i then s.hl.known else i :: s.hl.known | none => s.hl.known
    let s := { s with hl := { s.hl with known := ids } }
    if s.hl.role = 0 then raise .hl 0 { s with hl := { s.hl with role := 1 } } else s

/-- The link enters RETRAINING. -/
def retrain (l : Nat) (s : State) : State := raise (.hlLink l) 2 (annexTouch (updLink l (fun k => { k with st := 5, lanes := 0 }) s))

/-- A flit arrives (R395, R424, R475). Corrected and uncorrectable codewords are counted, of a frame on an Ethernet link too, which has its own RS
FEC (R390) and no flits. A bad flit is replayed; one that is bad after its
eighth replay takes the link to RETRAINING. -/
def flitGo (l : Nat) (k : FlitCheck) (s : State) : State :=
  let bad (s : State) : State :=
    if 8 ≤ (getLink s l).replays then retrain l s
    else updLink l (fun k => { k with replays := k.replays + 1 }) (bump (.hlLink l) 0x054 1 s)
  if (getLink s l).st ≠ 4 then s
  else if isEther s l then match k with
    | .good n => if n = 0 then s else bump (.hlLink l) 0x04C n s
    | .uncorrectable => raise (.hlLink l) 3 (bump (.hlLink l) 0x050 1 s)
    | _ => s
  else match k with
  | .good n => updLink l (fun k => { k with flits := k.flits + 1, replays := 0 }) (if n = 0 then s else bump (.hlLink l) 0x04C n s)
  | .keyUpdate => updLink l (fun k => { k with flits := k.flits + 1, replays := 0, rekeyAsked := true }) s
  | .uncorrectable => bad (raise (.hlLink l) 3 (bump (.hlLink l) 0x050 1 s))
  | .badCrc | .badTag => bad s

/-- Lane lock is lost: an UP link retrains; a link that is not yet UP trains again. -/
def lockLost (l : Nat) (s : State) : State :=
  let st := (getLink s l).st
  if st = 4 then retrain l s else if st = 2 || st = 3 then annexTouch (updLink l (fun k => { k.alone with st := 1, lanes := 0 }) s) else s

/-- A retraining link is UP again; its unacknowledged flits are replayed. -/
def retrainDoneGo (l : Nat) (s : State) : State :=
  if (getLink s l).st ≠ 5 then s else annexTouch (updLink l (fun k => { k with st := 4, lanes := 15, replays := 0 }) s)

/-- HL.L_RETRAIN passes: the link is LOST. -/
def linkLostGo (l : Nat) (s : State) : State :=
  if (getLink s l).st ≠ 5 then s else raise (.hlLink l) 1 (linkFalls l 6 s)

/-- KEY_UPDATE of a link's session: once 2^LINK_REKEY flits have passed, or when the peer asks for it (R475). -/
def linkRekeyGo (l : Nat) (s : State) : State :=
  if (getLink s l).st ≠ 4 || isEther s l || !((getLink s l).rekeyAsked || 2 ^ clampN 20 32 (getReg s .sp 0 0x070 % 64) ≤ (getLink s l).flits) then s
  else updLink l (fun k => { k with keyGen := k.keyGen + 1, flits := 0, rekeyAsked := false }) s

/-! ### The manager -/

/-- The upstream link's neighbour takes a message toward the manager. -/
def sendUp (name : String) (args : List Nat) (s : State) : State := sendHawser s.hl.upstream name args s

/-- Ask the manager for an ID, or name a fixed one to it: for this hub, or for the hub that asked on a link (R399, R400). -/
def askId (asker fixed : Option Nat) (s : State) : State :=
  sendUp "ID_REQUEST" fixed.toList { s with hl := { s.hl with idAsks := s.hl.idAsks ++ [asker] } }

/-- REGISTER of an inbound window (R404, R411). -/
def registerArgs (s : State) (n : Nat) (w : InWin) : List Nat := [s.hl.hubId, n, w.tag, w.len, w.rights.code, w.allowId, w.allowMask]

/-- An entry of the window directory; a hub's entry for a window replaces the one before. -/
def dirAdd (e : DirEntry) (s : State) : State :=
  { s with hl := { s.hl with
    dir := e :: s.hl.dir.filter (fun d => !(d.hub = e.hub && d.win = e.win)),
    known := if s.hl.known.contains e.hub then s.hl.known else e.hub :: s.hl.known } }

/-- A manager is known: this hub's windows are registered with it, and an ID is asked for where none is held, or a fixed one named once (R399,
R400, R404, R405). -/
def greetManager (s : State) : State :=
  let s := s.hl.inw.foldl (fun s p =>
    if s.hl.role = 3 then dirAdd ⟨s.hl.hubId, p.1, p.2.tag, p.2.len, p.2.rights, p.2.allowId, p.2.allowMask⟩ s
    else sendUp "REGISTER" (registerArgs s p.1 p.2) s) s
  if s.hl.role = 4 then s
  else if !s.hl.idValid then askId none none s
  else if s.hl.claimed || !bit (getReg s .hl 0 0x040) 30 then s
  else
    let s := { s with hl := { s.hl with claimed := true } }
    if s.hl.role = 3 then s else askId none (some s.hl.hubId) s

/-- Take up a role, raising ROLE when it changes. -/
def takeRole (r : Nat) (m : Option Nat) (s : State) : State :=
  let changed := s.hl.role ≠ r || s.hl.manager ≠ m
  let s := { s with hl := { s.hl with role := r, manager := m } }
  if changed then raise .hl 0 (annexTouch s) else s

/-- The best candidate that UP links announce: candidate, hops, peer, heartbeat and link (R402, R406). -/
def bestHeard (s : State) : Option (Nat × Nat × Nat × Nat × Nat) :=
  s.hl.links.foldl (fun (b : Option (Nat × Nat × Nat × Nat × Nat)) p =>
    match p.2.heard with
    | some (c, h, t) =>
      if !hawserUp s p.1 then b
      else
        let x := (c, h, p.2.peer.getD 4096, t, p.1)
        match b with
        | some y => if c < y.1 || (c = y.1 && (h < y.2.1 || (h = y.2.1 && p.2.peer.getD 4096 < y.2.2.1))) then some x else b
        | none => some x
    | none => b) none

/-- The newest heartbeat announced of a candidate. -/
def newestBeat (s : State) (c : Nat) : Nat :=
  s.hl.links.foldl (fun n p => match p.2.heard with | some (d, _, t) => if d = c then Nat.max n t else n | none => n) 0

/-- Adopt what the announcements say (R402, R404): a lower candidate than the present one, or a way to that one. -/
def adopt (s : State) : State :=
  if s.hl.role = 4 then s
  else match bestHeard s with
  | none => s
  | some (c, h, _, _, l) =>
    if (s.hl.cand.any fun d => d < c) || (eligible s && s.hl.idValid && s.hl.hubId < c) || s.hl.cand = some s.hl.hubId && s.hl.role = 3 && s.hl.hubId ≤ c then s
    else
      let t := newestBeat s c
      let fresh := s.hl.cand ≠ some c
      let s := { s with hl := { s.hl with
        cand := some c, hops := h + 1, upstream := l, beat := if fresh then t else Nat.max s.hl.beat t, dir := if s.hl.role = 3 then [] else s.hl.dir } }
      if 0 < t then
        let new := s.hl.manager ≠ some c
        let s := takeRole 2 (some c) s
        if new then greetManager s
        else if !s.hl.idValid && !s.hl.idAsks.contains none then askId none none s
        else s
      else if s.hl.role = 3 then takeRole 1 none s
      else s

/-- The annex's peer slot follows what the peer announces of the manager it knows: a candidate without a heartbeat is none (R394, R402). -/
def peerKnows (l cand hops beat : Nat) (s : State) : State :=
  let new (k : Link) : Link := { k with peerHops := if 0 < beat then some hops else none, peerManager := if 0 < beat then some cand else none }
  if new (getLink s l) = getLink s l then s else annexTouch (updLink l new s)

/-- ANNOUNCE received on link l; one with no candidate names none (log entry 107). -/
def announceGo (l cand hops beat : Nat) (s : State) : State :=
  if hawserUp s l then adopt (peerKnows l cand hops beat (updLink l (fun k => { k with heard := if cand < 4096 then some (cand, hops, beat) else none }) s)) else s

/-- ANNOUNCE_TIMER: a manager's heartbeat advances, and every UP Hawser link carries an announcement, of no candidate (4,096) where this hub knows
none (R402, log entry 107). -/
def announceTick (s : State) : State :=
  let own := eligible s && s.hl.idValid && s.hl.role ≠ 4
  let s := if s.hl.role = 3 then { s with hl := { s.hl with beat := s.hl.beat + 1 } }
    else if own && s.hl.cand.isNone then { s with hl := { s.hl with cand := some s.hl.hubId, hops := 0, beat := 0 } } else s
  let words := match s.hl.cand with | some c => [c, s.hl.hops, s.hl.beat] | none => [4096, 0, 0]
  (List.range 48).foldl (fun s l => if hawserUp s l then sendHawser l "ANNOUNCE" words s else s) s

/-- ELECT_TIME_EXPIRY: an eligible hub that has heard no lower ID claims the role. -/
def electGo (s : State) : State :=
  if !eligible s || !s.hl.idValid || s.hl.role = 3 || s.hl.role = 4 then s
  else match s.hl.cand with
  | some c =>
    if c < s.hl.hubId then s
    else greetManager (takeRole 3 (some s.hl.hubId) { s with hl := { s.hl with cand := some s.hl.hubId, hops := 0, beat := s.hl.beat + 1, dir := [] } })
  | none => greetManager (takeRole 3 (some s.hl.hubId) { s with hl := { s.hl with cand := some s.hl.hubId, hops := 0, beat := 1, dir := [] } })

/-- MGR_TIMEOUT: the manager is lost; WINDOW_CREATEs that wait for it wait for the next (R405). -/
def managerLost (s : State) : State :=
  if s.hl.role ≠ 2 then s
  else
    let again (c : Cmd) : Cmd := if c.op = 0x8A && c.sq < 64 && c.phase = .running && c.stage = 2 then { c with stage := 1 } else c
    let s := { s with
      hl := { s.hl with
        cand := none, hops := 0, beat := 0, idAsks := [], winAsks := [], links := s.hl.links.map fun p => (p.1, { p.2 with heard := none }) },
      qe := { s.qe with cmds := s.qe.cmds.map fun p => (p.1, again p.2) } }
    takeRole 1 none s

/-- Whether a fixed ID that a hub names on link l is held: by this hub, or, as its manager knows, by another than the one that named it before or
than the neighbour itself (R400, log entry 71). -/
def idHeld (l id : Nat) (s : State) : Bool :=
  (s.hl.idValid && id = s.hl.hubId)
    || (s.hl.role = 3 && s.hl.known.contains id && (getLink s l).peer ≠ some id
        && match mget s.hl.claims id with | some m => m ≠ l && hawserUp s m | none => true)

/-- A hub ID becomes known. -/
def learnId (id : Nat) (s : State) : State := { s with hl := { s.hl with known := if s.hl.known.contains id then s.hl.known else id :: s.hl.known } }

/-- A message about hub IDs: a request or a fixed ID reaches this hub, or the answer to the oldest it has sent on: this hub's own, or one it relays
(R399, R400). -/
def idGo (l : Nat) (m : IdMsg) (s : State) : State :=
  match m with
  | .ask fixed =>
    if fixed.any fun id => idHeld l id s then sendHawser l "ID_REFUSED" fixed.toList s
    else if s.hl.role = 3 then
      let free := match fixed with | some id => some id | none => (List.range 4096).find? fun i => i ≠ s.hl.hubId && !s.hl.known.contains i
      match free with
      | some id =>
        sendHawser l "ID_ASSIGN" [id] (learnId id { s with hl := { s.hl with claims := if fixed.isSome then mset s.hl.claims id l else s.hl.claims } })
      | none => s
    else if s.hl.manager.isSome then askId (some l) fixed s
    else s
  | m =>
    match s.hl.idAsks with
    | [] => s
    | asker :: rest =>
      let s := { s with hl := { s.hl with idAsks := rest } }
      match asker, m with
      | some l, .assign id => sendHawser l "ID_ASSIGN" [id] (learnId id s)
      | some l, _ => sendHawser l "ID_REFUSED" [] s
      | none, .assign id => if s.hl.idValid || bit (getReg s .hl 0 0x040) 30 || s.hl.role = 4 then s else holdId id s
      | none, _ => if s.hl.idValid && bit (getReg s .hl 0 0x040) 30 && s.hl.role ≠ 4 then idRefused s else s

/-! ### Windows -/

/-- Rights of a code of R410. -/
def codeRights (n : Nat) : Rights := ⟨bit n 0, bit n 1, bit n 2⟩

/-- The manager's answer to WINDOW_CREATE k has come. One that meets a core in reset or crashed is lost with it, and the restarted core asks again
(R91, R498). -/
def answered (k : Nat) (end_ : Cmd → State → State) (s : State) : State :=
  let s := { s with hl := { s.hl with winAsks := s.hl.winAsks.filter fun a => a.1 ≠ k } }
  match getCmd s k with
  | some c => if adminCoreUp s c.f then end_ c s else toStage k 1 s
  | none => s

/-- WINDOW_CREATE's inbound entry is accepted: the window opens (R411). -/
def windowOpen (k : Nat) (s : State) : State :=
  match getCmd s k with
  | some c => adminEnd k stSuccess 0 c.aux { s with hl := { s.hl with inw := mupd s.hl.inw c.aux fun w => { w with open_ := true } } }
  | none => s

/-- The manager's answer to an outbound WINDOW_CREATE. -/
def windowResolve (k : Nat) (a : Option (Nat × Nat × Nat)) (s : State) : State :=
  match getCmd s k with
  | none => s
  | some c =>
    let len := fld c.raw 40 8
    match a with
    | none => adminEnd k stNotPermitted 0 0 s
    | some (win, inLen, rights) =>
      if inLen < len then adminEnd k stNotPermitted 0 0 s
      else match placeIn s.hl.outw 0 4096 (fld c.raw 18 2) s with
        | (.error st, s) => adminEnd k st 0 0 s
        | (.ok n, s) =>
          let w : OutWin := { f := namedFn c 30, target := fld c.raw 26 2, win := win, len := if len = 0 then inLen else len,
                              rights := (codeRights (fld c.raw 24 1)).meet (codeRights rights) }
          adminEnd k stSuccess 0 n { s with hl := { s.hl with outw := mset s.hl.outw n w } }

/-- What the directory answers to RESOLVE (R411). -/
def dirLook (s : State) (src target tag : Nat) : Option (Nat × Nat × Nat) :=
  match s.hl.dir.find? fun d => d.hub = target && d.tag = tag with
  | some d => if (Nat.xor src d.allowId) &&& d.allowMask = 0 then some (d.win, d.len, d.rights.code) else none
  | none => none

/-- A WINDOW_CREATE's question to the manager goes up, and is remembered until its answer or the loss of the link (R396). -/
def createAsk (k : Nat) (name : String) (args : List Nat) (s : State) : State :=
  sendUp name args (toStage k 2 { s with hl := { s.hl with winAsks := (k, s.hl.upstream) :: s.hl.winAsks.filter fun a => a.1 ≠ k } })

/-- A WINDOW_CREATE that waits for the manager goes on when one is known, on a running admin core (R91). -/
def windowAsk (k : Nat) (s : State) : State :=
  match getCmd s k with
  | none => s
  | some c =>
    if s.hl.manager.isNone || !s.hl.idValid || !adminCoreUp s c.f then s
    else if fld c.raw 16 1 = 0 then
      match mget s.hl.inw c.aux with
      | none => s
      | some w =>
        if s.hl.role = 3 then windowOpen k (dirAdd ⟨s.hl.hubId, c.aux, w.tag, w.len, w.rights, w.allowId, w.allowMask⟩ s)
        else createAsk k "REGISTER" (registerArgs s c.aux w) s
    else
      let target := fld c.raw 26 2; let tag := fld c.raw 20 4
      if s.hl.role = 3 then windowResolve k (dirLook s s.hl.hubId target tag) s
      else createAsk k "RESOLVE" [s.hl.hubId, target, tag] s

/-- A manager is known: the WINDOW_CREATEs that wait for one proceed (R405). -/
def windowsProceed (s : State) : State :=
  ((s.qe.cmds.filter fun p => p.2.op = 0x8A && p.2.sq < 64 && p.2.phase = .running && p.2.stage = 1).map (·.1)).foldl (fun s k => windowAsk k s) s

/-- WINDOW_CREATE. -/
def windowCreateGo (k : Nat) (s : State) : State :=
  match adminAt s k 0x8A with
  | some c =>
    let raw := c.raw
    let f := namedFn c 30
    if c.f ≠ 0 && f ≠ c.f then adminEnd k stNotPermitted 0 0 s
    else if fld raw 16 1 = 0 then
      match placeIn s.hl.inw 0 4096 (fld raw 18 2) s with
      | (.error st, s) => adminEnd k st 0 0 s
      | (.ok n, s) =>
        let w : InWin := { f := f, base := fld raw 32 8, len := fld raw 40 8, rights := codeRights (fld raw 24 1), tag := fld raw 20 4,
                           allowId := fld raw 26 2, allowMask := fld raw 28 2, open_ := false }
        windowAsk k (updCmd k (fun c => { c with aux := n }) (toStage k 1 { s with hl := { s.hl with inw := mset s.hl.inw n w } }))
    else if fld raw 18 2 ≠ 0xFFFF && mhas s.hl.outw (fld raw 18 2) then adminEnd k stBusy 0 0 s
    else windowAsk k (toStage k 1 s)
  | none => match adminIn s k 0x8A with
    | some c => if c.stage = 1 then windowAsk k s else s
    | none => s

/-- HL.WIN_WAIT passes without a manager: the command leaves no entry (R405). -/
def winWaitGo (k : Nat) (s : State) : State :=
  match adminIn s k 0x8A with
  | some c =>
    if s.hl.manager.isSome then s
    else createGone k s
  | none => s

/-- WINDOW_DESTROY (R412): of a window of the function FUNCTION names, which is another than the issuer's only for the PF (R410). -/
def windowDestroyGo (k : Nat) (s : State) : State :=
  match adminAt s k 0x8B with
  | some c =>
    let n := fld c.raw 18 2
    let fn := if fld c.raw 16 1 = 0 then (mget s.hl.inw n).map (·.f) else (mget s.hl.outw n).map (·.f)
    match fn with
    | none => adminEnd k stField 18 0 s
    | some f =>
      if f ≠ namedFn c 30 || (c.f ≠ 0 && f ≠ c.f) then adminEnd k stNotPermitted 0 0 s
      else if fld c.raw 16 1 = 0 then toStage k 1 { s with hl := { s.hl with inw := mupd s.hl.inw n fun w => { w with open_ := false } } }
      else invStart (.window k) f none true 2 (0x800000000000 + n * 2 ^ 35) (2 ^ 35) (toStage k 1 s)
  | none => match adminIn s k 0x8B with
    | none => s
    | some c =>
      let n := fld c.raw 18 2
      if fld c.raw 16 1 = 0 then
        if (s.hl.ins.any fun i => i.req.win = n) || s.hl.manager.isNone then s
        else
          let s := { s with hl := { s.hl with inw := mdel s.hl.inw n, dir := s.hl.dir.filter fun d => !(d.hub = s.hl.hubId && d.win = n) } }
          adminEnd k stSuccess 0 n (if s.hl.role = 3 then s else sendUp "DEREGISTER" [s.hl.hubId, n] s)
      else if (s.tu.invs.any fun v => v.src = .window k) || (s.hl.outs.any fun o => o.win = n || o.wins.contains n) then s
      else adminEnd k stSuccess 0 n { s with hl := { s.hl with outw := mdel s.hl.outw n } }

/-- The WINDOW_CREATE that waits for an answer, which is no longer awaited. -/
def waitingCreate (s : State) (p : Cmd → Bool) : Option Nat :=
  (s.qe.cmds.find? fun q => q.2.op = 0x8A && q.2.sq < 64 && q.2.phase = .running && q.2.stage = 2 && p q.2).map (·.1)

/-- A message about an inbound window of a hub: its registration or deregistration at the manager or relayed toward it, the acceptance at the hub
that asked or relayed toward it (R404, R411, R412). -/
def registerGo (hub win tag : Nat) (m : RegMsg) (rights allowId allowMask : Nat) (s : State) : State :=
  match m with
  | .register len =>
    if s.hl.role = 3 then
      let s := dirAdd ⟨hub, win, tag, len, codeRights rights, allowId, allowMask⟩ s
      match route s hub with
      | some l => sendHawser l "REGISTERED" [hub, win] s
      | none => s
    else sendUp "REGISTER" [hub, win, tag, len, rights, allowId, allowMask] s
  | .accepted =>
    if s.hl.idValid && hub = s.hl.hubId then
      match waitingCreate s fun c => fld c.raw 16 1 = 0 && c.aux = win with
      | some k => answered k (fun _ s => windowOpen k s) s
      | none => s
    else match route s hub with
      | some l => sendHawser l "REGISTERED" [hub, win] s
      | none => s
  | .deregister =>
    if s.hl.role = 3 then { s with hl := { s.hl with dir := s.hl.dir.filter fun d => !(d.hub = hub && d.win = win) } }
    else sendUp "DEREGISTER" [hub, win] s

/-- RESOLVE at the manager or on its way, and its answer at the hub that asked (R411). -/
def resolveGo (src target tag : Nat) (a : ResolveAnswer) (s : State) : State :=
  let back (args : List Nat) (s : State) : State := match route s src with | some l => sendHawser l "RESOLVED" ([src, target, tag] ++ args) s | none => s
  let mine (r : Option (Nat × Nat × Nat)) (s : State) : State :=
    match waitingCreate s fun c => fld c.raw 16 1 = 1 && fld c.raw 26 2 = target && fld c.raw 20 4 = tag with
    | some k => answered k (fun _ s => windowResolve k r s) s
    | none => s
  match a with
  | .ask => if s.hl.role = 3 then back (match dirLook s src target tag with | some (w, n, r) => [1, w, n, r] | none => [0]) s
    else sendUp "RESOLVE" [src, target, tag] s
  | .ok w n r => if s.hl.idValid && src = s.hl.hubId then mine (some (w, n, r)) s else back [1, w, n, r] s
  | .refused => if s.hl.idValid && src = s.hl.hubId then mine none s else back [0] s

/-! ### Inbound requests -/

/-- The rights an inbound request needs, and the bytes it touches from its offset on. -/
def remNeeds (op : RemOp) : Rights × Nat :=
  match op with
  | .plan _ => ({}, 0)
  | .nonIdem _ (.accumulate _ df _ _ es _) => (⟨true, true, false⟩, if es.any fun e => 64 < e.1 + fmtWidth df / 8 then 128 else 64)
  | .read n => (⟨true, false, false⟩, n)
  | .write d _ => (⟨false, true, false⟩, d.length)
  | .nonIdem _ (.atomic _ n _ _) => (⟨false, false, true⟩, n)
  | .nonIdem _ _ => (⟨true, true, false⟩, 64)

/-- The window check of R414 for one range: a failure, or the window. -/
def winCheck (s : State) (src win off n : Nat) (need : Rights) : Except (Nat × Nat) InWin :=
  match mget s.hl.inw win with
  | none => .error (stFault, 0)
  | some w =>
    if (Nat.xor src w.allowId) &&& w.allowMask ≠ 0 || !w.open_ || w.len < off + n then .error (stFault, 0)
    else if (need.lacks w.rights).any then .error (stRights, (need.lacks w.rights).code)
    else .ok w

/-- Status and DETAIL of a page an inbound request cannot use (R414); a failed tag check carries no DETAIL (R467). -/
def remBad : Bad → Nat × Nat
  | .timeout => (stFault, 1)
  | .short r => (stRights, r.code)
  | .tag _ => (stRights, 0)
  | .walkPoison | .recall => (stPoisoned, 0)
  | .reserved => (stAddress, 0)
  | .refused st d => (st, d)
  | _ => (stFault, 0)

/-- Perform a translated inbound request at its homes. -/
def remPerform (i : RemIn) (items : List Item) (s : State) : State :=
  let r := i.req
  let w : Who := .remote r.link r.src r.tag
  let (_, n) := remNeeds r.op
  let ps := (pieces 64 i.dva n).filterMap fun p => (outOf items 1 p.1).map fun o => (p.1, p.2, o.1)
  let wr := match r.op with | .read _ => false | _ => true
  let o : Origin := ⟨.peer, r.src⟩
  let s := { s with hl := { s.hl with ins := s.hl.ins.map fun x =>
    if x.req.link = r.link && x.req.src = r.src && x.req.tag = r.tag then { x with issued := true } else x } }
  let s := ps.foldl (fun s p => acCount p.2.2 9 1 wr s) s
  if ps.isEmpty then remoteReply r.link r.src r.tag stSuccess 0 [] false s
  else
    let lo := (ps.head?.map fun p => p.2.2).getD 0
    -- a non-idempotent request is one action, at its first line
    let at_ := match r.op with | .nonIdem .. => ps.take 1 | _ => ps
    let next := match ps[1]? with | some p => p.2.2 / 64 * 64 | none => lo / 64 * 64 + 64
    let g : Gather := { who := w, want := if wr then [] else ps.map fun p => (p.2.2, p.2.1), left := at_.length, bytes := [], status := 0 }
    let s := { s with mem := { s.mem with gathers := g :: s.mem.gathers.filter fun g => g.who ≠ w } }
    let req := s.mem.nextOp
    let whole (l : Nat) : Bool := wr && (((ps.filter fun q => q.2.2 / 256 = l / 256).map (·.2.1)).sum = 256)
    at_.foldl (fun s p =>
      let line := p.2.2 / 64 * 64
      let act : HomeAct := match r.op with
        | .read _ => .read
        | .write d bad =>
          .write (((d.drop (p.1 - i.dva)).take p.2.1).zipIdx.map fun b => { at_ := p.2.2 + b.2, val := b.1, poison := if bad then some 0 else none })
        | .nonIdem _ (.atomic op m a b) => .atomic op m a b (lo % 64)
        | .nonIdem _ (.packet v bad) => .packet v bad
        | .plan _ => .read
        | .nonIdem _ (.accumulate sf df rm sat es bad) => .accumulate sf df rm sat es bad next
      let jid := match r.op with | .nonIdem q _ => some (peerSource r.link r.src, q) | _ => none
      issueOf req (whole line) line i.f false o (arcClass 17 p.2.2 s) act w jid s) s

/-- Take an inbound request, or a PLAN, as far as its translation goes (R414, R415). -/
def remGo (who : Who) (s : State) : State :=
  match who with
  | .remote link src tag =>
    match s.hl.ins.find? fun i => i.req.link = link && i.req.src = src && i.req.tag = tag with
    | none => dropPlan who s
    | some i =>
      if i.issued then s
      else match planAt s who with
      | .waiting => s
      | .failed _ b =>
        let (st, d) := remBad b
        remoteReply link src tag st d [] false (dropPlan who s)
      | .ready items => remPerform i items (dropPlan who s)
  | .planReq link src tag =>
    match planAt s who with
    | .waiting => s
    | .failed it b =>
      let (st, d) := remBad b
      remoteReply link src tag st d (leBytes 8 it.first) false (dropPlan who s)
    | .ready _ => remoteReply link src tag stSuccess 0 [] false (dropPlan who s)
  | _ => s

/-- PLAN at the receiving hub: each page is checked against its window and translated through its owner's map; the first that fails, in the
order asked, is answered by its window and offset (R415). -/
def planGo (link src tag : Nat) (pages : List PlanPage) (s : State) : State :=
  if !hawserUp s link then s
  else
    let s := wakeUp s
    let items := pages.map fun p =>
      let it : Item := { space := 1, page := 0, first := p.win * 2 ^ 35 + p.off, rights := codeRights p.rights }
      match winCheck s src p.win p.off 1 (codeRights p.rights) with
      | .error (st, d) => { it with st := .bad (.refused st d) }
      | .ok w => { it with page := (w.base + p.off) / 4096 * 4096, own := some w.f }
    let f := (items.findSome? (·.own)).getD 0
    let who : Who := .planReq link src tag
    remGo who (planStart { who := who, f := f, pasid := none, tenant := f, report := true, cls := bits (getReg s .ms 0 0x090) 26 24, items := items } s)

/-- REMOTE_REQUEST at its target (R414). -/
def remoteGo (r : RemReq) (s : State) : State :=
  if !hawserUp s r.link || !s.hl.idValid || r.dst ≠ s.hl.hubId then s
  else match r.op with
  | .plan pages => planGo r.link r.src r.tag pages s
  | op =>
    let s := wakeUp s
    let (need, n) := remNeeds op
    match winCheck s r.src r.win r.off n need with
    | .error (st, d) => remoteReply r.link r.src r.tag st d [] false s
    | .ok w =>
      let who : Who := .remote r.link r.src r.tag
      let dva := w.base + r.off
      remGo who (planStart { who := who, f := w.f, pasid := none, tenant := w.f, report := true, cls := bits (getReg s .ms 0 0x090) 26 24,
                             items := touch 1 dva n need [] } { s with hl := { s.hl with ins := { req := r, f := w.f, dva := dva } :: s.hl.ins } })

/-- FORWARD: a request or a PLAN for another hub goes on by route, under a tag of this hub's, until its answer comes back or the link is lost (R396,
R401). -/
def forwardGo (r : RemReq) (s : State) : State :=
  if !hawserUp s r.link || (s.hl.idValid && r.dst = s.hl.hubId) then s
  else if r.hops ≤ 1 then
    remoteReply r.link r.src r.tag stLinkGone 0 [] false (capErr .hl 5 ⟨.peer, r.src⟩ s)
  else match route s r.dst with
    | some l =>
      let tag := s.hl.nextTag
      emit (.remote l { r with link := l, tag := tag, hops := r.hops - 1 }) { s with hl := { s.hl with
        nextTag := tag + 1, forwards := ⟨tag, l, r.link, r.src, r.tag⟩ :: s.hl.forwards } }
    | none => remoteReply r.link r.src r.tag stLinkGone 0 [] false s

/-- Take every partner's and peer's request on whose translation may have moved. -/
def settleParties (s : State) : State :=
  (s.tu.plans.map (·.who)).foldl (fun s w => match w with
    | .bresa b id => bresaGo b id s
    | .cxl b id => cxlGo b id s
    | .remote .. | .planReq .. => remGo w s
    | _ => s) s

/-! ### Time -/

/-- The slew is set; its start, end or change of direction is announced to the berths (R379, R406). -/
def setSlew (dir : Int) (left : Nat) (s : State) : State :=
  let was : Int := if s.hl.slewLeft = 0 then 0 else s.hl.slew
  let now : Int := if left = 0 then 0 else dir
  let s := { s with hl := { s.hl with slew := dir, slewLeft := left } }
  if was = now then s else timeAll s

/-- TIME_SYNC_EXCHANGE on link l: a worker steps or slews toward its upstream neighbour (R406). -/
def timeSync (l : Nat) (behind : Bool) (offset : Nat) (s : State) : State :=
  if s.hl.role ≠ 2 || l ≠ s.hl.upstream || !hawserUp s l then s
  else
    let s := { s with hl := { s.hl with offset := if behind then (offset : Int) else -(offset : Int) } }
    if behind && 1000 < offset then
      let s := timeStep offset { s with hl := { s.hl with slewLeft := 0 } }
      timeAll (bump .hl 0x060 1 s)
    else setSlew (if behind then 1 else -1) offset s

/-- HL.GPTP_EPOCH. -/
def gptpEpoch (s : State) : Nat := getReg s .hl 0 0x06C + 2 ^ 32 * getReg s .hl 0 0x070

/-- An 802.1AS frame (R391, R407). -/
def gptpGo (l gtime : Nat) (s : State) : State :=
  if !isEther s l || (getLink s l).st ≠ 4 then s
  else match gptpRole s l with
  | 0 => bump (.hlLink l) 0x058 1 s
  | 2 => updLink l (fun k => { k with gptpOfs := BitVec.ofNat 64 gtime - s.time }) s
  | _ => s

/-- Sync on a MASTER link (R407). -/
def gptpSyncGo (l : Nat) (s : State) : State :=
  if isEther s l && (getLink s l).st = 4 && gptpRole s l = 1 then emit (.gptp l ((s.time.toNat + gptpEpoch s) % 2 ^ 64)) s else s

/-- A frame of another kind on an Ethernet link (R391). -/
def frameDrop (l : Nat) (s : State) : State :=
  if isEther s l && (getLink s l).st = 4 then bump (.hlLink l) 0x058 1 s else s

/-! ### The commands -/

/-- LANES_LOCKED. -/
def execLanesLocked (l : Nat) (s : State) : Host.Outcome State Fault Refusal := onUnit l 48 (lanesLockedGo l s)
/-- HELLO. -/
def execHello (l : Nat) (h : HelloMsg) (s : State) : Host.Outcome State Fault Refusal := onUnit l 48 (helloGo l h s)
/-- SESSION_UP. -/
def execSessionUp (l : Nat) (ok : Bool) (s : State) : Host.Outcome State Fault Refusal := onUnit l 48 (sessionUpGo l ok s)
/-- FLIT_RECEIVE. -/
def execFlitReceive (l : Nat) (k : FlitCheck) (s : State) : Host.Outcome State Fault Refusal := onUnit l 48 (flitGo l k s)
/-- LANE_LOCK_LOST. -/
def execLaneLockLost (l : Nat) (s : State) : Host.Outcome State Fault Refusal := onUnit l 48 (lockLost l s)
/-- RETRAIN_DONE. -/
def execRetrainDone (l : Nat) (s : State) : Host.Outcome State Fault Refusal := onUnit l 48 (retrainDoneGo l s)
/-- LINK_RETRAIN_EXPIRY. -/
def execLinkRetrainExpiry (l : Nat) (s : State) : Host.Outcome State Fault Refusal := onUnit l 48 (linkLostGo l s)
/-- LINK_REKEY. -/
def execLinkRekey (l : Nat) (s : State) : Host.Outcome State Fault Refusal := onUnit l 48 (linkRekeyGo l s)
/-- ANNOUNCE_TIMER. -/
def execAnnounceTimer (s : State) : Host.Outcome State Fault Refusal := .next (announceTick s)
/-- ANNOUNCE. -/
def execAnnounce (l cand hops beat : Nat) (s : State) : Host.Outcome State Fault Refusal := onUnit l 48 (windowsProceed (announceGo l cand hops beat s))
/-- ELECT_TIME_EXPIRY. -/
def execElectTimeExpiry (s : State) : Host.Outcome State Fault Refusal := .next (windowsProceed (electGo s))
/-- MGR_TIMEOUT. -/
def execMgrTimeout (s : State) : Host.Outcome State Fault Refusal := .next (managerLost s)
/-- WIN_WAIT_EXPIRY. -/
def execWinWaitExpiry (k : Nat) (s : State) : Host.Outcome State Fault Refusal := .next (winWaitGo k s)
/-- ID_REQUEST. -/
def execIdRequest (l : Nat) (m : IdMsg) (s : State) : Host.Outcome State Fault Refusal := onUnit l 48 (windowsProceed (idGo l m s))
/-- WINDOW_REGISTER. -/
def execWindowRegister (hub win tag : Nat) (m : RegMsg) (rights allowId allowMask : Nat) (s : State) : Host.Outcome State Fault Refusal :=
  .next (registerGo hub win tag m rights allowId allowMask s)
/-- RESOLVE. -/
def execResolve (src target tag : Nat) (a : ResolveAnswer) (s : State) : Host.Outcome State Fault Refusal := .next (resolveGo src target tag a s)
/-- REMOTE_REQUEST. -/
def execRemoteRequest (r : RemReq) (s : State) : Host.Outcome State Fault Refusal := onUnit r.link 48 (remoteGo r s)
/-- PLAN. Its hop limit matters to the hubs on its way only. -/
def execPlan (link src tag hops : Nat) (pages : List PlanPage) (s : State) : Host.Outcome State Fault Refusal :=
  onUnit link 48 (let _ := hops; planGo link src tag pages s)
/-- REMOTE_ACK. -/
def execRemoteAck (tag status detail : Nat) (data : List Byte) (poison : Bool) (s : State) : Host.Outcome State Fault Refusal :=
  .next (remoteAckGo tag status detail data poison s)
/-- FORWARD. -/
def execForward (r : RemReq) (s : State) : Host.Outcome State Fault Refusal := onUnit r.link 48 (forwardGo r s)
/-- TIME_SYNC_EXCHANGE. -/
def execTimeSyncExchange (l : Nat) (behind : Bool) (offset : Nat) (s : State) : Host.Outcome State Fault Refusal :=
  onUnit l 48 (timeSync l behind offset s)
/-- GPTP_FRAME. -/
def execGptpFrame (l gtime : Nat) (s : State) : Host.Outcome State Fault Refusal := onUnit l 48 (gptpGo l gtime s)
/-- FRAME_DROPPED. -/
def execFrameDropped (l : Nat) (s : State) : Host.Outcome State Fault Refusal := onUnit l 48 (frameDrop l s)
/-- GPTP_SYNC. -/
def execGptpSync (l : Nat) (s : State) : Host.Outcome State Fault Refusal := onUnit l 48 (gptpSyncGo l s)
/-- WINDOW_CREATE. -/
def execWindowCreate (k : Nat) (s : State) : Host.Outcome State Fault Refusal := .next (windowCreateGo k s)
/-- WINDOW_DESTROY. -/
def execWindowDestroy (k : Nat) (s : State) : Host.Outcome State Fault Refusal := .next (windowDestroyGo k s)

end Sys2Proof.Machine
end

