-- ==== Sys2Proof/Machine/Streams.lean ====
section
/-! DEFINITION. The stream engine: channels, AVTP frames, slots and descriptors (R417 to R422). -/

namespace Sys2Proof.Machine

/-- Channel c changed by f. -/
def updChan (c : Nat) (f : Chan → Chan) (s : State) : State := { s with st := { s.st with chans := mupd s.st.chans c f } }

/-- Bytes of a written sample, R420. -/
def Chan.sampleBytes (c : Chan) : Nat := if c.sample = 0 then 1 else 2
/-- Bits of a sample on the wire. -/
def Chan.sampleBits (c : Chan) : Nat := if c.sample = 0 then 8 else if c.sample = 1 then 10 else 12
/-- Bytes of a record. -/
def Chan.recBytes (c : Chan) : Nat := 16 * c.sample
/-- Bytes of a ring slot. -/
def Chan.slotBytes (c : Chan) : Nat := if c.kind = 0 then c.pitch * c.height else c.height * c.recBytes

/-- STREAM_CREATE (R417). -/
def streamCreateGo (k : Nat) (s : State) : State :=
  match adminAt s k 0x90 with
  | none => s
  | some c =>
    let raw := c.raw
    let kind := fld raw 18 1
    let sample := fld raw 19 1
    let width := fld raw 28 2
    let b := if sample = 0 then 1 else 2
    let pitch := if fld raw 40 2 = 0 then cdiv (width * b) 64 * 64 else fld raw 40 2
    let ch : Chan := { link := fld raw 17 1, kind := kind, sample := sample, streamId := fld raw 20 8, width := width, height := fld raw 30 2,
                       ring := fld raw 32 8, pitch := pitch, slots := fld raw 42 1, cls := bits (fld raw 43 1) 2 0, deadline := fld raw 44 4,
                       desc := fld raw 48 8, descLog2 := fld raw 56 1, vector := fld raw 58 2 }
    if !isEther s ch.link then adminEnd k stField 17 0 s
    else if 0x1FE000000 < ch.ring + ch.slotBytes * ch.slots then adminEnd k stField 32 0 s
    else if 0x1FE000000 < ch.desc + 32 * 2 ^ ch.descLog2 then adminEnd k stField 48 0 s
    else match placeIn s.st.chans 0 16 (if fld raw 16 1 = 0xFF then 0xFFFF else fld raw 16 1) s with
      | (.error st, s) => adminEnd k st 0 0 s
      | (.ok n, s) => adminEnd k stSuccess 0 n { s with st := { s.st with chans := mset s.st.chans n ch } }

/-- STREAM_DESTROY: the channel stops at the next frame boundary of the engine, and the command ends once its last write has been
performed. -/
def streamDestroyGo (k : Nat) (s : State) : State :=
  match adminAt s k 0x91 with
  | some c =>
    let n := fld c.raw 16 1
    if mhas s.st.chans n then toStage k 1 (updChan n (fun c => { c with ending := true }) s) else adminEnd k stField 16 0 s
  | none => match adminIn s k 0x91 with
    | some c =>
      let n := fld c.raw 16 1
      if mhas s.st.chans n || (s.mem.queue.any fun o => o.who = .stream n) then s else adminEnd k stSuccess 0 n s
    | none => s

/-- The gPTP offset of a link: what hub global time lacks to its gPTP time (R407). -/
def gptpOffset (s : State) (l : Nat) : BitVec 64 := if gptpRole s l = 1 then BitVec.ofNat 64 (gptpEpoch s) else (getLink s l).gptpOfs

/-- PRESENT of a packet: its timestamp extended to the gPTP time nearest arrival, as hub global time (R422). -/
def presentOf (s : State) (l stamp : Nat) : Nat :=
  if gptpRole s l = 0 then 0
  else
    let g := (s.time + gptpOffset s l).toNat
    let d := sext 32 ((stamp + 2 ^ 32 - g % 2 ^ 32) % 2 ^ 32)
    (BitVec.ofInt 64 ((g : Int) + d) - gptpOffset s l).toNat

/-- The channel a frame belongs to (R418). -/
def chanOf (s : State) (l : Nat) (f : Avtp) : Option (Nat × Chan) :=
  s.st.chans.find? fun p => p.2.link = l && p.2.kind = f.kind && p.2.streamId = f.stream

/-- Count a drop of a channel. -/
def chanDrop (c : Nat) (s : State) : State := raise (.stChan c) 2 (bump (.stChan c) 0x054 1 s)

/-- The bytes of the Ethernet frame that carries an AVTP payload: the header of 14, the stream header of 32 for RVF or 24 for TSCF, and the check
sequence of 4 (PRESUMED, log entry 100). -/
def avtpBytes (f : Avtp) : Nat := f.payload.length + (if f.kind = 0 then 50 else 42)

/-- An AVTP frame on link l (R391, R418, R540). -/
def avtpGo (l : Nat) (f : Avtp) (s : State) : State :=
  if !isEther s l || (getLink s l).st ≠ 4 then s
  else if 9216 < avtpBytes f then bump (.hlLink l) 0x058 1 s
  else match chanOf s l f with
  | none => bump (.hlLink l) 0x058 1 s
  | some (n, c) =>
    if s.tg.ckpt then chanDrop n s
    else
      let held := (c.input.map fun p => p.frame.payload.length - p.taken).sum
      let gap := match c.lastAvtp with | some q => (q + 1) % 256 ≠ f.seq % 256 | none => false
      let s := updChan n (fun c => { c with lastAvtp := some f.seq }) s
      if 32768 < held + f.payload.length then chanDrop n (updChan n (fun c => { c with gap := true }) s)
      else
        let p : Packet := { frame := f, arrival := s.time.toNat, present := presentOf s l f.stamp, gap := gap }
        updChan n (fun c => { c with input := c.input ++ [p] }) s

/-- The slot the next frame goes to: the next that is neither the current one nor held (R421). -/
def nextSlot (s : State) (n : Nat) (c : Chan) : Option Nat :=
  let hold := bits (getReg s (.stChan n) 0 0x044) 15 0
  let start := match c.lastSlot with | some x => x + 1 | none => 0
  ((List.range c.slots).map fun i => (start + i) % c.slots).find? fun i => (some i ≠ c.lastSlot || c.lastFree) && !bit hold i

/-- A frame begins with a packet: it takes a slot, or is dropped. -/
def frameBegin (n : Nat) (c : Chan) (p : Packet) (s : State) : State :=
  match nextSlot s n c with
  | some i => updChan n (fun c => { c with cur := some i, lastSlot := some i, lastFree := false, first := p.arrival, present := p.present, bytes := 0, lines := [], dead := false }) s
  | none => chanDrop n (updChan n (fun c => { c with cur := some 0, dead := true, bytes := 0, lines := [], dropped := true }) s)

/-- Sample i of a packed payload: samples follow each other as one bit stream, the most significant bit first (PRESUMED, log
entry 29). -/
def sampleAt (w : Nat) (payload : List Byte) (i : Nat) : Nat :=
  (List.range w).foldl (fun v j =>
    let k := i * w + j
    2 * v + b2n (bit ((payload.getD (k / 8) 0).toNat) (7 - k % 8))) 0

/-- The bytes RVF payload bytes lo to hi − 1 of a packet place in a slot (R420). -/
def rvfBytes (c : Chan) (slot : Nat) (f : Avtp) (lo hi : Nat) : List PByte :=
  let w := c.sampleBits; let b := c.sampleBytes
  if c.height ≤ f.lineNo then []
  else (List.range' (8 * lo / w) (8 * hi / w - 8 * lo / w)).flatMap fun i =>
    if f.pixel + i < c.width then asPBytes (c.ring + slot * c.slotBytes + f.lineNo * c.pitch + (f.pixel + i) * b) (leBytes b (sampleAt w f.payload i))
    else []

/-- Cut bytes into runs of rising addresses within one line. -/
def lineRuns (bs : List PByte) : List (List PByte) :=
  bs.foldr (fun b acc => match acc with
    | (c :: r) :: t => if c.at_ = b.at_ + 1 && c.at_ % 64 ≠ 0 then (b :: c :: r) :: t else [b] :: (c :: r) :: t
    | acc => [b] :: acc) []

/-- Write a channel's bytes to hub SRAM. -/
def streamWrite (n cls : Nat) (bs : List PByte) (s : State) : State :=
  (lineRuns bs).foldl (fun s r => match r with
    | b :: _ => issue (b.at_ / 64 * 64) 0 false ⟨.hostPf, 0⟩ cls (.write r) (.stream n) none s
    | [] => s) s

/-- The 32 bytes of a descriptor (R421). -/
def descBytes (c : Chan) (slot now : Nat) (late phase : Bool) : List Byte :=
  leBytes 8 c.first ++ leBytes 8 now ++ leBytes 4 c.seq ++ [BitVec.ofNat 8 slot]
    ++ [BitVec.ofNat 8 (b2n phase * 128 + b2n late + 2 * b2n c.gap + 4 * b2n c.dropped)]
    ++ leBytes 2 (if c.kind = 0 then c.lines.length else c.bytes / zero1 c.recBytes) ++ leBytes 8 c.present

/-- A completed slot whose writes are all performed: its descriptor, its interrupt (R421, R422). A discarded descriptor leaves the note of dropped
frames to the next. -/
def slotClose (n : Nat) (s : State) : State :=
  match mget s.st.chans n with
  | none => s
  | some c =>
    match c.cur with
    | none => s
    | some slot =>
      if !c.closing || (s.mem.queue.any fun o => o.who = .stream n) then s
      else
        let now := c.done
        let due := (if gptpRole s c.link = 0 then c.first else c.present) + c.deadline
        let late := decide (due < now)
        let s := if late then raise (.stChan n) 1 (bump (.stChan n) 0x058 1 s) else s
        let s := if c.gap then bump (.stChan n) 0x05C 1 s else s
        let c := { c with seq := (c.seq + 1) % 2 ^ 32 }
        let size := 2 ^ c.descLog2
        let head := getReg s (.stChan n) 0 0x04C % size
        let tail := getReg s (.stChan n) 0 0x050 % size
        let full := decide ((tail + 1) % size = head)
        let ended (full : Bool) (c : Chan) : Chan :=
          { c with cur := none, closing := false, seq := (c.seq + 1) % 2 ^ 32, gap := false, dropped := full && c.dropped, written := c.written + b2n (!full),
                   lastFree := full }
        if full then chanDrop n (updChan n (ended true) s)
        else
          let s := streamWrite n c.cls (asPBytes (c.desc + 32 * tail) (descBytes c slot now late (phaseOf c.written c.descLog2))) s
          let s := setReg (.stChan n) 0 0x048 c.seq (setReg (.stChan n) 0 0x050 ((tail + 1) % size) (updChan n (ended false) s))
          if head = tail then raise (.stChan n) 0 (msixOf none 0 c.vector s) else s

/-- Take up to `budget` payload bytes of channel n into its slot; the rest of the budget goes to the next packet (R419, R420). -/
def takeBytes : Nat → Nat → Nat → State → State
  | 0, _, _, s => s
  | fuel + 1, n, budget, s =>
    match mget s.st.chans n with
    | none => s
    | some c =>
      match c.input with
      | [] => s
      | p :: rest =>
        if budget = 0 || c.closing then s
        else match c.cur with
        | none => takeBytes fuel n budget (frameBegin n c p s)
        | some slot =>
          let room := if c.kind = 1 then c.height * c.recBytes - c.bytes else budget
          let k := Nat.min (Nat.min budget room) (p.frame.payload.length - p.taken)
          let bs := if c.dead then [] else if c.kind = 1 then asPBytes (c.ring + slot * c.slotBytes + c.bytes) ((p.frame.payload.drop p.taken).take k)
            else rvfBytes c slot p.frame p.taken (p.taken + k)
          let s := streamWrite n c.cls bs s
          let whole := p.taken + k = p.frame.payload.length
          let ends := if c.kind = 1 then c.bytes + k = c.height * c.recBytes else whole && p.frame.eof
          let next (c : Chan) : Chan := { c with
            input := if whole then rest else { p with taken := p.taken + k } :: rest,
            bytes := if c.kind = 1 then c.bytes + k else c.bytes, gap := c.gap || (p.gap && p.taken = 0),
            lines := if c.kind = 0 && p.frame.lineNo < c.height && !c.lines.contains p.frame.lineNo then p.frame.lineNo :: c.lines else c.lines }
          let s := updChan n next s
          let s := if !ends then s
            else if c.dead then updChan n (fun c => { c with cur := none, dead := false, gap := false }) s
            else slotClose n (updChan n (fun c => { c with closing := true, done := s.time.toNat }) s)
          takeBytes fuel n (budget - k) s

/-- The frame boundary of the engine: the slot table takes effect, and channels that end go (R417, R419). -/
def engineFrame (s : State) : State :=
  let gone := (s.st.chans.filter fun p => p.2.ending).map (·.1)
  let s := { s with st := { s.st with slot := 0, map := (List.range 16).map fun n => getReg s .st 0 (0x080 + 4 * n),
                                      chans := s.st.chans.filter fun p => !p.2.ending } }
  gone.foldl (fun s n => [0x048, 0x050].foldl (fun s off => setReg (.stChan n) 0 off 0 s) s) s

/-- STREAM_SLOT: one slot of the stream engine. -/
def streamSlotGo (s : State) : State :=
  let s := if s.st.slot = 0 then engineFrame s else s
  let e := bits (s.st.map.getD (s.st.slot / 4) 0) (8 * (s.st.slot % 4) + 7) (8 * (s.st.slot % 4))
  let n := bits e 3 0
  let s := if bit e 7 then slotClose n s else s
  let fuel := match mget s.st.chans n with | some c => 3 * c.input.length + 3 | none => 0
  let s := if bit e 7 then takeBytes fuel n 256 s else s
  { s with st := { s.st with slot := (s.st.slot + 1) % 64 } }

/-! ### The commands -/

/-- STREAM_CREATE. -/
def execStreamCreate (k : Nat) (s : State) : Host.Outcome State Fault Refusal := .next (streamCreateGo k s)
/-- STREAM_DESTROY. -/
def execStreamDestroy (k : Nat) (s : State) : Host.Outcome State Fault Refusal := .next (streamDestroyGo k s)
/-- AVTP_FRAME. -/
def execAvtpFrame (l : Nat) (f : Avtp) (s : State) : Host.Outcome State Fault Refusal := onUnit l 48 (avtpGo l f s)
/-- STREAM_SLOT. -/
def execStreamSlot (s : State) : Host.Outcome State Fault Refusal := .next (streamSlotGo s)

end Sys2Proof.Machine
end

