-- ==== Sys2Proof/Machine/TransRows.lean ====
section
/-! DEFINITION. The commands of translation: answers of the host and of walks, time limits, invalidations (R111 to R155), each
followed by what it lets partners' and peers' requests do. -/

namespace Sys2Proof.Machine

/-- An ATS Invalidate Request: on link 0 only; answered at once where the hub holds no translation (R138, R139, R432, R447). R143
has the port accept up to 32 at a time; one beyond them is accepted alike (DESIGN CHOICE, log entry 113). -/
def atsInvalidate (link f : Nat) (pasid : Option Nat) (addr sizeLog2 itag : Nat) (s : State) : State :=
  if link ≠ 0 then emit (.unsupported link) s
  else if !linkUp s 0 then s
  else if 2 ≤ s.sl.h then emit (.invalidateCompletion 0 itag) (bump .tu 0x074 1 s)
  else settleParties (invStart (.ats 0 itag) f pasid false 0 addr (2 ^ sizeLog2) (wakeUp s))

/-! ### The commands -/

/-- ATS_TRANSLATION_COMPLETION. -/
def execAtsTranslationCompletion (id : Nat) (a : AtsAnswer) (s : State) : Host.Outcome State Fault Refusal :=
  .next (settleParties (atsDone id a s))
/-- DEVICE_MAP_WALK_DONE. -/
def execDeviceMapWalkDone (id : Nat) (s : State) : Host.Outcome State Fault Refusal := .next (settleParties (walkDone id s))
/-- PAGE_REQUEST_RESPONSE. -/
def execPageRequestResponse (f grp : Nat) (c : PrgCode) (s : State) : Host.Outcome State Fault Refusal :=
  .next (settleParties (prgDone f grp c s))
/-- PAGE_REQUEST_TIMEOUT. -/
def execPageRequestTimeout (grp : Nat) (s : State) : Host.Outcome State Fault Refusal := .next (settleParties (prgTimeout grp s))
/-- HOLD_WAIT_TIMEOUT. -/
def execHoldWaitTimeout (id : Nat) (s : State) : Host.Outcome State Fault Refusal := .next (settleParties (holdTimeout id s))
/-- ATS_INVALIDATE_REQUEST. -/
def execAtsInvalidateRequest (link f : Nat) (pasid : Option Nat) (addr sizeLog2 itag : Nat) (s : State) : Host.Outcome State Fault Refusal :=
  onUnit link 4 (atsInvalidate link f pasid addr sizeLog2 itag s)
/-- INVALIDATE_COMPLETION. -/
def execInvalidateCompletion (id : Nat) (s : State) : Host.Outcome State Fault Refusal := .next (settleParties (invFinish id s))
/-- AC_DECAY. -/
def execAcDecay (s : State) : Host.Outcome State Fault Refusal := .next (acHalve s)
/-- FLUSH_READ_RETURN. -/
def execFlushReadReturn (id : Nat) (s : State) : Host.Outcome State Fault Refusal := .next (settleParties (flushDone id s))

end Sys2Proof.Machine
end

