-- ==== Sys2Proof/Machine/Separator.lean ====
section
/-! DEFINITION. The Separator: key slots and sessions (R458 to R465), retags (R466, R469), SPDM on the DOE mailbox (R477), the part of
a Function Level Reset that ends a function's work (R435), and tenant teardown (R481, R482). -/

namespace Sys2Proof.Machine

/-! ### Key slots -/

/-- Bounce slots in quarantine that no dispatched command names become FREE (R461). -/
def releaseSlots (s : State) : State :=
  let named (x : Slot) : Bool := x.st = 2 && x.bounce && !(s.qe.cmds.any fun p => p.2.f = x.f && p.2.ctx = x.ctx)
    && !(s.sp.teardowns.any fun t => t.f = x.f)
  { s with sp := { s.sp with slots := s.sp.slots.filter fun p => !named p.2 } }

/-- The random source fails its health tests (R459). -/
def trngFail (o : Origin) (s : State) : State := raise .sp 3 (capErr .sp 1 o s)

/-- Whether the random source passes its health tests at this draw (R459): a free value, but that a source that failed at boot stays failed. -/
def trngTest (s : State) : Bool × State := let (n, s) := draw s; (s.sp.trngOk && (Config.freeWord n).getLsbD 0, s)

/-- Allot a slot with a key. A key stands for its number: memory keys even, bounce keys odd by session and context (log entry 11). -/
def slotOpen (k : Nat) (x : Slot) (s : State) : State :=
  match pickFree (freeNums s.sp.slots 0 128) s with
  | (none, s) => adminEnd k stNoResource 0 0 s
  | (some n, s) =>
    let s := { s with sp := { s.sp with slots := mset s.sp.slots n x, nextKey := s.sp.nextKey + 1 } }
    adminEnd k stSuccess 0 n (if 124 < s.sp.slots.length then raise .sp 4 s else s)

/-- KEY_SESSION_OPEN (R462): the checks of body and context, the session or scrub, the ACTIVE slot, the free slot and the random source. -/
def keyOpenGo (k : Nat) (s : State) : State :=
  match adminAt s k 0x8E with
  | none => s
  | some c =>
    let s := releaseSlots s
    let raw := c.raw
    let f := fld raw 17 1
    let cx := fld raw 18 2
    let held (p : Nat × Slot) : Bool := p.2.st = 1 && (if fld raw 16 1 = 1 then p.2.bounce && p.2.ctx = cx else !p.2.bounce && p.2.f = f)
    match least (sessionBad s raw) with
    | some d => adminEnd k stField d 0 s
    | none =>
      if fld raw 16 1 = 1 then
        match s.sp.sessions.find? fun x => x.1 = fld raw 20 4 with
        | none => adminEnd k stNotPermitted 0 0 s
        | some x =>
          if s.sp.slots.any held then adminEnd k stBusy 0 0 s
          else slotOpen k { st := 1, bounce := true, f := f, ctx := cx, key := 2 * (4096 * x.2 + cx) + 1, bufBase := fld raw 24 8,
                            bufLen := fld raw 32 8, tagBase := fld raw 40 8 } s
      else if s.sp.teardowns.any fun t => t.f = f then adminEnd k stNotPermitted 0 0 s
      else if s.sp.slots.any held then adminEnd k stBusy 0 0 s
      else if (freeNums s.sp.slots 0 128).isEmpty then adminEnd k stNoResource 0 0 s
      else match trngTest s with
      | (false, s) => adminEnd k stNoResource 0 0 (trngFail (fnOrigin c.f) s)
      | (true, s) => slotOpen k { st := 1, bounce := false, f := f, ctx := 0, key := 2 * (s.sp.nextKey + 1) } s

/-- A key is zeroed and its slot goes to QUARANTINE. -/
def Slot.retire (x : Slot) : Slot := { x with st := 2, key := 0 }

/-! ### Teardown -/

/-- The DPA of a physical place (the inverse of R323). -/
def dpaAt (s : State) (ph : Nat) : Nat :=
  if 0x10000000000 ≤ ph then
    let o := ph - 0x10000000000
    let g := bits o 34 30; let st := o / 2 ^ 35; let x := bits o 29 0
    0x10000000000 + g * 2 ^ 35 + (if bit s.mem.modesLpddr g then st * 2 ^ 30 + x else x / 4096 * 2 ^ 17 + st * 4096 + x % 4096)
  else if 0x4000000000 ≤ ph then
    let o := ph - 0x4000000000
    let g := bits o 35 30; let st := o / 2 ^ 36; let x := bits o 29 0
    0x4000000000 + g * 2 ^ 32 + (if bit s.mem.modesHbm g then st * 2 ^ 30 + x else x / 4096 * 2 ^ 14 + st * 4096 + x % 4096)
  else ph

/-- A table entry of a device map as the scrub's firmware reads it: none where the table cannot be read. -/
def tableWord (s : State) (a : Nat) : Option Nat :=
  if (region s a = 0 || region s a = 1) && lookAt s (a / 64 * 64) 0 = .good then some (leNat (Memory.readN s.mem.bytes (place s a) 8)) else none

/-- The leaves of a device map from a table of level n on: base and length. -/
def mapLeaves (s : State) : Nat → Nat → List (Nat × Nat)
  | n, table => (List.range 512).flatMap fun i => match tableWord s (table + 8 * i) with
    | none => []
    | some e =>
      let low := bits e 47 12 * 4096
      if !bit e 0 then [] else if bit e 4 then [(low, 2 ^ (12 + 9 * n))]
      else match n with
        | 0 => []
        | m + 1 => mapLeaves s m low

/-- The external ranges a function reaches: the leaves of its map, its HDM decoders, and their replicas (R482). -/
def scrubRanges (s : State) (f : Nat) : List (Nat × Nat) :=
  let root := getReg s (.tuFn f) 0 0x040 / 4096 * 4096 + 2 ^ 32 * (getReg s (.tuFn f) 0 0x044 % 2 ^ 16)
  let leaves := if mapLive s f then mapLeaves s 3 root else []
  let rs := (leaves ++ (s.gw.hdm.filter fun p => p.2.tenant = f).map fun p => (p.2.dpa, p.2.size)).filter fun r => region s r.1 = 1 || region s r.1 = 2
  rs ++ (List.range 16).flatMap fun n =>
    let cfg := getReg s .ms n 0x06C
    if !bit cfg 31 then []
    else rs.flatMap fun r => (List.range' 1 (if bit cfg 16 then 2 else 1)).filterMap fun c =>
      let b0 := getReg s .ms n 0x074 * 65536
      let lo := Nat.max r.1 b0
      let hi := Nat.min (r.1 + r.2) (b0 + getReg s .ms n 0x070 * 65536)
      if lo < hi then some (getReg s .ms n (0x074 + 4 * c) * 65536 + (lo - b0), hi - lo) else none

/-- Whether a DPA is among ranges. -/
def inRanges (rs : List (Nat × Nat)) (a : Nat) : Bool := rs.any fun r => r.1 ≤ a && a < r.1 + r.2

/-- Whether a DPA is one that a teardown of f scrubs: a hub-SRAM page tagged f, or a byte of its external ranges. -/
def Teardown.covers (t : Teardown) (s : State) (a : Nat) : Bool :=
  if a < 0x200000000 then pageTag s (a / 4096) = t.f else inRanges t.exts a

/-- Idle movers take the scrub while there is work: eight at most, within the limit of FW_CLASS (R482). -/
def scrubMovers (s : State) : State :=
  if !(s.sp.teardowns.any fun t => t.left ≠ 0) || rampHolds s then s
  else
    let others := classBusy s (fwClass s) - s.gm.scrubbing.length
    let idle := (List.range 64).filter fun m => !mhas s.gm.movers m && !s.gm.scrubbing.contains m
    { s with gm := { s.gm with scrubbing := (s.gm.scrubbing ++ idle).take (Nat.min 8 (classLimit s (fwClass s) - others)) } }

/-- A clock edge of the scrub: each of its movers writes up to 24 units of 128 bytes, counted in M_WR (R237, R482). -/
def scrubTick (s : State) : State :=
  match s.sp.teardowns.find? fun t => t.left ≠ 0 with
  | none => s
  | some t =>
    let s := scrubMovers s
    if rampHolds s then s
    else
      let part (i : Nat) : Nat := Nat.min 3072 (t.left - 3072 * i)
      let n := s.gm.scrubbing.length
      let left := t.left - 3072 * n
      let s := (List.range n).foldl (fun s i => bump64 (.gmMover (s.gm.scrubbing.getD i 0)) 0x058 (part i) s) s
      { s with sp := { s.sp with teardowns := s.sp.teardowns.map fun x => if x.f = t.f then { x with left := left } else x } }

/-- The inbound windows of f leave the directory. -/
def dropWindows (f : Nat) (s : State) : State :=
  let mine := (s.hl.inw.filter fun p => p.2.f = f).map (·.1)
  let s := { s with hl := { s.hl with
    inw := s.hl.inw.filter fun p => p.2.f ≠ f, outw := s.hl.outw.filter fun p => p.2.f ≠ f,
    dir := s.hl.dir.filter fun d => !(d.hub = s.hl.hubId && mine.contains d.win) } }
  if s.hl.role = 3 then s else mine.foldl (fun s n => sendUp "DEREGISTER" [s.hl.hubId, n] s) s

/-- The invalidation of every translation of function f that its teardown or FLR brings (R138). -/
def forgetFn (f : Nat) (s : State) : State := invStart (.teardown f) f none true 3 0 (2 ^ 64) s

/-- What an FLR destroys of f at its end: contexts, windows, recipes; its QE and TU function pages return to reset (R435). -/
def flrEnd (f : Nat) (s : State) : State :=
  let s := dropWindows f s
  let s := { s with qe := { s.qe with ctxs := s.qe.ctxs.filter (fun p => p.2.f ≠ f), recipes := s.qe.recipes.filter fun p => p.2.f ≠ f } }
  forgetFn f (resetPage (.tuFn f) (resetPage (.qeFn f) s))

/-- The keys of f are zeroed and their slots go to QUARANTINE. -/
def retireKeys (f : Nat) (s : State) : State :=
  { s with sp := { s.sp with slots := s.sp.slots.map fun p => (p.1, if p.2.f = f && p.2.st = 1 then p.2.retire else p.2) } }

/-- Step 4 of R481 and the start of step 5: the keys of f are zeroed, and what is to scrub is known (with what an earlier teardown of f has
not scrubbed yet). -/
def zeroKeys (f : Nat) (s : State) : State :=
  let s := retireKeys f s
  let exts := (s.sp.teardowns.filter fun x => x.f = f).flatMap (·.exts) ++ scrubRanges s f
  let pages := (s.mem.tags.filter fun p => p.2 = f).length
  let t : Teardown := { f := f, step := 5, exts := exts, left := 4096 * pages + (exts.map (·.2)).sum }
  scrubMovers { s with sp := { s.sp with teardowns := (s.sp.teardowns.filter fun x => x.f ≠ f) ++ [t] } }

/-- KEY_SESSION_CLOSE (R465). -/
def keyCloseGo (k : Nat) (s : State) : State :=
  match adminAt s k 0x8F with
  | none => s
  | some c =>
    let n := fld c.raw 16 2
    match mget s.sp.slots n with
    | none => adminEnd k stNotPermitted 0 0 s
    | some x =>
      if n = 0 || x.st ≠ 1 then adminEnd k stNotPermitted 0 0 s
      else if x.bounce then
        if s.qe.cmds.any fun p => 64 ≤ p.2.sq && p.2.ctx = x.ctx && p.2.phase ≠ .finished then adminEnd k stBusy 0 0 s
        else adminEnd k stSuccess 0 n { s with sp := { s.sp with slots := mupd s.sp.slots n Slot.retire } }
      else if (s.qe.ctxs.any fun p => p.2.f = x.f) || (s.gw.hdm.any fun p => p.2.tenant = x.f) then adminEnd k stBusy 0 0 s
      else
        -- an FLR of f that is before its step 4 goes on, with the scrub after it (R435)
        adminEnd k stSuccess 0 n (if s.sp.teardowns.any fun t => t.f = x.f && t.step < 4 then retireKeys x.f s else zeroKeys x.f s)

/-- f's work stops: its queues, admin commands, waiting commands and fence blocks go; its berth grants are revoked; its inbound windows
refuse (R435, R481 step 1). Commands already at work stay until they end. -/
def flrStop (f : Nat) (s : State) : State :=
  let gone (c : Cmd) : Bool := c.f = f && (c.sq < 64 || c.phase = .fence || c.phase = .finished)
  let s := ((s.qe.cmds.filter fun p => gone p.2).map (·.1)).foldl (fun s k => dropPlan (.recipe k) (dropPlan (.result k) s)) s
  let s := { s with qe := { s.qe with
    cmds := s.qe.cmds.filter (fun p => !gone p.2), sqs := s.qe.sqs.filter (fun p => p.2.f ≠ f), cqs := s.qe.cqs.filter fun p => p.2.f ≠ f } }
  let s := ((s.qe.blocks.filter fun p => p.2.f = f).map (·.1)).foldl (fun s b => freeBlock b s) s
  let s := ((s.qe.ctxs.filter fun p => p.2.f = f).map (·.1)).foldl (fun s n => (List.range 8).foldl (fun s b => revokeGrant b n s) s) s
  let shut (w : InWin) : InWin := if w.f = f then { w with open_ := false } else w
  { s with hl := { s.hl with inw := s.hl.inw.map fun p => (p.1, shut p.2) } }

/-- The commands of f stop at their next tile or window (R481 step 3). -/
def abortFn (f : Nat) (s : State) : State :=
  let cut (c : Cmd) : Cmd := if c.f = f && c.phase ≠ .finished then c.abort else c
  { s with qe := { s.qe with cmds := s.qe.cmds.map fun p => (p.1, cut p.2) } }

/-- An FLR of one function begins: for f from 1 on, with teardown (R435, R481). -/
def flrOne (f : Nat) (s : State) : State :=
  let s := flrStop f s
  if f = 0 then flrEnd 0 (abortFn 0 s)
  else match s.sp.teardowns.find? fun t => t.f = f with
  | some t =>
    -- an FLR during the scrub of an earlier one begins again, and what that one has left is scrubbed with it
    let again (x : Teardown) : Teardown := if x.f = f then { x with step := 2 } else x
    if t.step < 4 then s else { s with sp := { s.sp with teardowns := s.sp.teardowns.map again } }
  | none => { s with sp := { s.sp with teardowns := s.sp.teardowns ++ [{ f := f, step := 2 }] } }

/-- An FLR: of function 0, of every function, and every stream channel goes (R435). -/
def flrGo (f : Nat) (s : State) : State :=
  if f ≠ 0 then flrOne f s
  else
    let s := (List.range 64).foldl (fun s f => flrOne f s) s
    let gone := s.st.chans.map (·.1)
    let s := { s with st := { s.st with chans := [] } }
    ltrTell (gone.foldl (fun s n => [0x048, 0x050].foldl (fun s off => setReg (.stChan n) 0 off 0 s) s) s)

/-- SP.TEARDOWN_LIMIT passes. -/
def teardownLimit (f : Nat) (s : State) : State :=
  if s.sp.teardowns.any fun t => t.f = f && t.step = 2 then
    let third (t : Teardown) : Teardown := if t.f = f then { t with step := 3 } else t
    abortFn f { s with sp := { s.sp with teardowns := s.sp.teardowns.map third } }
  else s

/-- Step 4: f's commands have ended. -/
def teardownZero (f : Nat) (s : State) : State :=
  if !(s.sp.teardowns.any fun t => t.f = f && t.step < 4) then s
  else if s.qe.cmds.any fun p => p.2.f = f && p.2.phase ≠ .finished then s
  else ltrTell (flrEnd f (zeroKeys f { s with qe := { s.qe with cmds := s.qe.cmds.filter fun p => p.2.f ≠ f } }))

/-- Zeros over everything a teardown scrubs; external blocks then fail their MAC; its pages are tenant 0's (R482). -/
def scrub (t : Teardown) (s : State) : State :=
  let hit (ph : Nat) : Bool := t.covers s (dpaAt s ph)
  { s with mem := { s.mem with
    bytes := s.mem.bytes.filter (fun c => !hit c.1), poison := s.mem.poison.filter (fun c => !hit c.1),
    correctable := s.mem.correctable.filter (fun a => !hit a), uncorrectable := s.mem.uncorrectable.filter (fun a => !hit a),
    blocks := s.mem.blocks.filter (fun c => !hit (256 * c.1)), tags := s.mem.tags.filterMap fun p => if p.2 ≠ t.f then some p else if p.1 < 0x1FC000 then none else some (p.1, 0) } }

/-- TEARDOWN_DONE, when the movers have written all: the scrub has taken back every line a partner or the host holds, and no request names the slots (R461, R481 step 6). -/
def teardownEnd (f : Nat) (s : State) : State :=
  match s.sp.teardowns.find? fun t => t.f = f && t.step = 5 with
  | none => s
  | some t =>
    if t.left ≠ 0 then s
    else
      let held := (s.qy.filter.map (·.line)).filter (t.covers s)
      let cached := s.mem.hostCopies.filter (t.covers s)
      if !held.isEmpty || !cached.isEmpty then
        cached.foldl (fun s l => backInvalidate l s)
          (held.foldl (fun s l => match sfEntry s l with | some e => e.holders.foldl (fun s b => snoop l b s) s | none => s) s)
      else if (s.mem.queue.any fun o => o.tenant = f && !o.firmware) || (s.hl.ins.any fun i => i.f = f) then s
      else
        let s := scrub t s
        let s := { s with sp := { s.sp with
          slots := s.sp.slots.filter (fun p => !(p.2.f = f && p.2.st = 2)), teardowns := s.sp.teardowns.filter fun x => x.f ≠ f } }
        let s := if s.sp.teardowns.any fun t => t.left ≠ 0 then s else { s with gm := { s.gm with scrubbing := [] } }
        raise .sp 0 s

/-! ### Retags -/

/-- The pages from lo to hi − 1 that are tagged FW (R466). -/
def fwPages (s : State) (lo hi : Nat) : Nat :=
  let mine := s.mem.tags.filter fun p => lo ≤ p.1 && p.1 < hi
  let isKeeper (p : Nat) : Bool := 0x1FC000 ≤ p && p < 0x200000
  let default_ := if 1 ≤ s.hm.stage then Nat.min hi 0x200000 - Nat.max lo 0x1FC000 else 0
  (mine.filter fun p => 64 ≤ p.2).length + (default_ - (if 1 ≤ s.hm.stage then (mine.filter fun p => isKeeper p.1).length else 0))

/-- The pages from lo to hi − 1 take a tag. -/
def tagPages (lo hi tag : Nat) (s : State) : State :=
  let new := if tag = 0 && hi ≤ 0x1FC000 then [] else (List.range' lo (hi - lo)).map fun p => (p, tag)
  { s with mem := { s.mem with tags := (s.mem.tags.filter fun p => p.1 < lo) ++ new ++ s.mem.tags.filter fun p => hi ≤ p.1 } }

/-- A write of SP.TAG_CTL with GO (R469): the control register holds v's TAG already. -/
def retagGo (o : Origin) (v : Nat) (s : State) : State :=
  if s.sp.retag.isSome then s
  else
    let first := getReg s .sp 0 0x04C % 2 ^ 21
    let n := zero1 (getReg s .sp 0 0x050 % 2 ^ 22)
    let last := Nat.min (first + n) (2 ^ 21)
    let tag := v % 128
    if !isFw o && (64 ≤ tag || fwPages s first last ≠ 0) then setReg .sp 0 0x054 tag (capErr .sp 4 o s)
    else setReg .sp 0 0x054 (2 ^ 31 + 2 ^ 8 + tag) { s with sp := { s.sp with retag := some (first, last, tag) } }

/-- A retag goes on by at most n pages in ascending order, up to the first page with an access outstanding; after the last page BUSY and GO
are cleared (R469). -/
def retagRun (n : Nat) (s : State) : State :=
  match s.sp.retag with
  | none => s
  | some (lo, hi, tag) =>
    let busy (o : HomeOp) : Option Nat := let g := o.line / 4096; if lo ≤ g && g < hi then some g else none
    let stop := (s.mem.queue.filterMap busy).foldl Nat.min (Nat.min hi (lo + n))
    let s := if lo < stop then tagPages lo stop tag s else s
    if stop < hi then { s with sp := { s.sp with retag := some (stop, hi, tag) } }
    else setReg .sp 0 0x054 (getReg s .sp 0 0x054 % 128) { s with sp := { s.sp with retag := none } }

/-- RETAG_DONE: the retag has had the time for every page of its range. -/
def retagEnd (s : State) : State := retagRun (2 ^ 21) s

/-! ### SPDM on the DOE mailbox (R477) -/

/-- Answer of the SPDM responder. -/
def spdmSay (name : String) (args : List Nat) (s : State) : State := emit (.spdm name args) s

/-- An SPDM request reaches the responder only through an attached host and a booted hub; before the negotiation has come to a stage a
request is unexpected (PRESUMED, log entry 30). -/
def spdmAt (stage : Nat) (go : State → State) (s : State) : State :=
  if s.hm.stage = 0 || s.gw.detached || !linkUp s 0 then s
  else if s.sp.negotiated < stage then spdmSay "ERROR" [4, 0] s
  else go s

/-- The negotiation comes to a stage. -/
def spdmStage (n : Nat) (s : State) : State := { s with sp := { s.sp with negotiated := n } }

/-- KEY_EXCHANGE: a handshake of one of at most 16 sessions. -/
def spdmExchange (reqId : Nat) (s : State) : State :=
  if 16 ≤ s.sp.sessions.length + s.sp.handshakes.length then spdmSay "ERROR" [10, 0] s
  else
    let n := s.sp.nextSession
    let id := reqId % 2 ^ 16 + 2 ^ 16 * (n % 2 ^ 16)
    spdmSay "KEY_EXCHANGE_RSP" [id] { s with sp := { s.sp with nextSession := n + 1, handshakes := (id, n) :: s.sp.handshakes } }

/-- FINISH: the session opens when its handshake verifies. -/
def spdmFinishGo (session : Nat) (ok : Bool) (s : State) : State :=
  match s.sp.handshakes.find? fun x => x.1 = session with
  | none => spdmSay "ERROR" [2, 0] s
  | some x =>
    let s := { s with sp := { s.sp with handshakes := s.sp.handshakes.filter fun y => y.1 ≠ session } }
    if ok then spdmSay "FINISH_RSP" [session] { s with sp := { s.sp with sessions := x :: s.sp.sessions } } else spdmSay "ERROR" [6, 0] s

/-- A request inside an open session. -/
def spdmIn (session : Nat) (go : State → State) (s : State) : State :=
  if s.sp.sessions.any fun x => x.1 = session then go s else spdmSay "ERROR" [2, 0] s

/-! ### The commands -/

/-- KEY_SESSION_OPEN. -/
def execKeySessionOpen (k : Nat) (s : State) : Host.Outcome State Fault Refusal := .next (keyOpenGo k s)
/-- KEY_SESSION_CLOSE. -/
def execKeySessionClose (k : Nat) (s : State) : Host.Outcome State Fault Refusal := .next (keyCloseGo k s)
/-- TEARDOWN_LIMIT_EXPIRY. -/
def execTeardownLimitExpiry (f : Nat) (s : State) : Host.Outcome State Fault Refusal := onUnit f 64 (teardownLimit f s)
/-- TEARDOWN_KEY_ZERO. -/
def execTeardownKeyZero (f : Nat) (s : State) : Host.Outcome State Fault Refusal := onUnit f 64 (teardownZero f s)
/-- TEARDOWN_DONE. -/
def execTeardownDone (f : Nat) (s : State) : Host.Outcome State Fault Refusal := onUnit f 64 (teardownEnd f s)
/-- RETAG_DONE. -/
def execRetagDone (s : State) : Host.Outcome State Fault Refusal := .next (retagEnd s)
/-- GET_VERSION. -/
def execSpdmGetVersion (s : State) : Host.Outcome State Fault Refusal :=
  .next (spdmAt 0 (fun s => spdmSay "VERSION" [0x13] (spdmStage 1 s)) s)
/-- GET_CAPABILITIES. -/
def execSpdmGetCapabilities (s : State) : Host.Outcome State Fault Refusal :=
  .next (spdmAt 1 (fun s => spdmSay "CAPABILITIES" [] (spdmStage 2 s)) s)
/-- NEGOTIATE_ALGORITHMS: ECDSA P-384, SHA-384, ECDHE P-384, AES-256-GCM. -/
def execSpdmNegotiateAlgorithms (s : State) : Host.Outcome State Fault Refusal :=
  .next (spdmAt 2 (fun s => spdmSay "ALGORITHMS" [] (spdmStage 3 s)) s)
/-- The extensions of the alias certificate and its key, as numbers (R479). -/
def AliasCert.fields (c : AliasCert) : List Nat :=
  [c.key.toNat, c.svn, c.version, c.grade, c.debug, c.config.toNat] ++ c.images.map BitVec.toNat

/-- The chain of slot 0 (R478): the device identity certificate, fixed per die, and the alias certificate of this boot. -/
def certChain (s : State) : List Nat := Config.identityCert.map BitVec.toNat ++ s.sp.alias_.fields

/-- GET_DIGESTS: the digest of the chain in slot 0. -/
def execSpdmGetDigests (s : State) : Host.Outcome State Fault Refusal :=
  .next (spdmAt 3 (fun s => spdmSay "DIGESTS" [0, (Config.chainDigest (certChain s)).toNat] s) s)
/-- GET_CERTIFICATE: the chain stands in slot 0 alone (R478); the answer names the part asked for and what the chain holds. -/
def execSpdmGetCertificate (slot off len : Nat) (s : State) : Host.Outcome State Fault Refusal :=
  .next (spdmAt 3 (fun s => if slot = 0 then spdmSay "CERTIFICATE" ([off, len] ++ certChain s) s else spdmSay "ERROR" [1, 0] s) s)
/-- CHALLENGE, signed by the alias key (R479). -/
def execSpdmChallenge (nonce : Nat) (s : State) : Host.Outcome State Fault Refusal := .next (spdmAt 3 (fun s => spdmSay "CHALLENGE_AUTH" [nonce, s.sp.alias_.key.toNat] s) s)
/-- KEY_EXCHANGE. -/
def execSpdmKeyExchange (reqId : Nat) (s : State) : Host.Outcome State Fault Refusal := .next (spdmAt 3 (spdmExchange reqId) s)
/-- FINISH. -/
def execSpdmFinish (session : Nat) (ok : Bool) (s : State) : Host.Outcome State Fault Refusal := .next (spdmAt 3 (spdmFinishGo session ok) s)
/-- KEY_UPDATE. -/
def execSpdmKeyUpdate (session : Nat) (s : State) : Host.Outcome State Fault Refusal :=
  .next (spdmAt 3 (spdmIn session (spdmSay "KEY_UPDATE_ACK" [session])) s)
/-- HEARTBEAT. -/
def execSpdmHeartbeat (session : Nat) (s : State) : Host.Outcome State Fault Refusal :=
  .next (spdmAt 3 (spdmIn session (spdmSay "HEARTBEAT_ACK" [session])) s)
/-- END_SESSION. -/
def execSpdmEndSession (session : Nat) (s : State) : Host.Outcome State Fault Refusal :=
  .next (spdmAt 3 (spdmIn session (fun s => spdmSay "END_SESSION_ACK" [session]
    { s with sp := { s.sp with sessions := s.sp.sessions.filter fun x => x.1 ≠ session } })) s)
/-- GET_MEASUREMENTS and every other request: ERROR UnsupportedRequest. -/
def execSpdmUnsupportedRequest (code : Nat) (s : State) : Host.Outcome State Fault Refusal :=
  .next (spdmAt 0 (spdmSay "ERROR" [7, code]) s)

end Sys2Proof.Machine
end

