-- ==== Sys2Proof/Machine/Steps.lean ====
section
/-! DEFINITION. The recipe steps on an engine: registers, counters and loops (R252, R264), the lane operators (R253 to R260), the region
steps (R261 to R263), the exchange steps (R266). A step that must wait (for a translation, a snoop, a partner) leaves the engine where
it stands; the step is offered again. -/

namespace Sys2Proof.Machine

/-- What a step works on: the engine, its command, run, window and step word. -/
structure Ctx6 where
  e : Nat
  x : Eng
  k : Nat
  c : Cmd
  r : Run
  win : Win
  w : Word
  deriving DecidableEq, Repr

/-- The step of operator op that engine e stands at, if it does; a ramp withholds it (R530). -/
def atStep (op e : Nat) (s : State) : Option Ctx6 :=
  let x := getEng s e
  match x.win with
  | none => none
  | some n =>
    if x.atBar || rampHolds s || (getCluster s (e / 64)).run ≠ some x.k then none
    else match getCmd s x.k, getRun s x.k with
      | some c, some r =>
        match r.wins.find? fun y => y.w = n, r.steps[x.step]? with
        | some win, some w => if stOp w = op then some ⟨e, x, x.k, c, r, win, w⟩ else none
        | _, _ => none
      | _, _ => none

/-- The engine goes on to step n of its recipe; past the last step its window ends. -/
def goStep (q : Ctx6) (x : Eng) (n : Nat) (s : State) : State :=
  let s := bump64 .ch 0x050 1 (setEng q.e { x with step := n } s)
  if q.r.steps.length ≤ n then windowEnd q.e true s else s

/-- The engine goes on to the next step. -/
def nextStep (q : Ctx6) (x : Eng) (s : State) : State := goStep q x (q.x.step + 1) s

/-- Run step operator op on engine e. -/
def onStep (op e : Nat) (f : Ctx6 → State → State) (s : State) : State :=
  match atStep op e s with
  | some q => f q s
  | none => s

/-! ### Registers -/

/-- Vector register i. -/
def Eng.reg (x : Eng) (i : Nat) : Vec := mgetD x.v i 0

/-- Whether vector register i is poisoned. -/
def Eng.bad (x : Eng) (i : Nat) : Bool := x.vp.contains i

/-- Vector register i set, with its poison bit. -/
def Eng.put (x : Eng) (i : Nat) (v : Vec) (p : Bool) : Eng :=
  { x with v := mset x.v i v, vp := if p then i :: x.vp.filter (· ≠ i) else x.vp.filter (· ≠ i) }

/-- Accumulator i. -/
def Eng.accu (x : Eng) (i : Nat) : Acc := mgetD x.acc i {}

/-- Accumulator i set. -/
def Eng.putAcc (x : Eng) (i : Nat) (a : Acc) : Eng := { x with acc := mset x.acc i a }

/-- Whether any of the g registers from a on is poisoned. -/
def Eng.anyBad (x : Eng) (a g : Nat) : Bool := (List.range g).any fun i => x.bad (a + i)

/-- Broadcast line i and whether it is poisoned; lines beyond BCAST_LINES are zero (R264). -/
def Ctx6.line (q : Ctx6) (i : Nat) : Vec × Bool := q.r.bcast.getD i (0, false)

/-- Note the poisoned broadcast lines a step read (R274). -/
def Ctx6.noteLines (q : Ctx6) (a g : Nat) (s : State) : State :=
  match (List.range g).find? fun i => (q.line (a + i)).2 with
  | some i => notePoison q.k (fld q.c.raw 32 8 + 64 * (a + i)) 0 s
  | none => s

/-- Lines of a window, the modulus of its counters (R263). -/
def Ctx6.lines (q : Ctx6) : Nat := chWin q.c.raw / 64

/-- The line counter i names. -/
def Ctx6.counter (q : Ctx6) (i : Nat) : Nat := (mgetD q.x.g i (0, 0)).1 % q.lines

/-- Counter i advanced by n. -/
def Ctx6.advance (q : Ctx6) (x : Eng) (i n : Nat) : Eng :=
  { x with g := mset x.g i ((q.counter i + n) % q.lines, (mgetD x.g i (0, 0)).2) }

/-- Element j of a register group read as one row of w-bit elements from register a on. -/
def Eng.elem (x : Eng) (a w j : Nat) : Nat := (x.reg (a + j / (512 / w))).toNat / 2 ^ (w * (j % (512 / w))) % 2 ^ w

/-- The generator coordinates of a step's result at position i (R258, R295). -/
def Ctx6.rnd (q : Ctx6) (mode i : Nat) : Rnd := mkRnd mode (chSeed q.c.raw) [i, q.x.step, q.x.iter, q.win.w, 0]

/-! ### Slice access -/

/-- How an access to a window's translated page stands (R273). -/
inductive Reach where
  | ok | waits (page : Nat) | died (b : Bad) (addr : Nat)
  deriving DecidableEq, Repr

/-- Check the translation of byte off of window w. -/
def winReach (q : Ctx6) (w : Win) (off : Nat) (s : State) : Reach :=
  let page := winAddr q.c.raw w.w (off / 4096 * 4096)
  match getPlan s (.churn q.k) with
  | none => .waits page
  | some p =>
    match p.items.find? fun it => it.space = chData q.c.raw && it.page = page with
    | none => .waits page
    | some it => match it.st with
      | .ok o .dpa => if o = w.dpa + off / 4096 * 4096 then .ok else .died .absent page
      | .bad b => .died b page
      | _ => .waits page

/-- The first of several accesses that is not plain. -/
def reachAll (q : Ctx6) (l : List (Win × Nat)) (s : State) : Reach :=
  (l.findSome? fun p => match winReach q p.1 p.2 s with | .ok => none | r => some r).getD .ok

/-- The failed look-up of a page is spent: another engine's next access looks the page up again. -/
def spendLook (q : Ctx6) (a : Nat) (s : State) : State :=
  match getPlan s (.churn q.k) with
  | none => s
  | some p =>
    let spent (it : Item) : Item := match it.st with
      | .bad _ => if it.space = chData q.c.raw && it.page = a then { it with st := .need } else it
      | _ => it
    setPlan { p with items := p.items.map spent } s

/-- R273: no further windows start, and this window is abandoned at the access. -/
def dieAt (q : Ctx6) (b : Bad) (a : Nat) (s : State) : State :=
  let stop (r : Run) : Run := { r with stop := match r.stop with | some x => some x | none => some (b, a) }
  windowEnd q.e false (updRun q.k stop (spendLook q a s))

/-- Whether an engine may read these lines now, or act on them at their slice when wr; the snoops that needs are sent. -/
def engReady (lines : List Nat) (wr : Bool) (s : State) : Bool × State :=
  let act : HomeAct := if wr then .write [] else .read
  let need := lines.filter fun l =>
    (s.mem.queue.any fun o => o.lines.contains l) || lineHeld s l act .none || groupBusy s l || s.mem.hostCopies.contains l
  (need.isEmpty, need.foldl (fun s l => backInvalidate l ((holdersFor s l act .none).foldl (fun s b => snoop l b s) s)) s)

/-- Run f once every access is reachable and every line may be read or acted on. -/
def withLines (q : Ctx6) (acc : List (Win × Nat)) (wr : Bool) (f : State → State) (s : State) : State :=
  match reachAll q acc s with
  | .waits a => lookPage (.churn q.k) (chData q.c.raw) a s
  | .died b a => dieAt q b a s
  | .ok =>
    match engReady ((acc.map fun p => (p.1.dpa + p.2) / 64 * 64).dedup) wr s with
    | (true, s) => f s
    | (false, s) => s

/-- Read one line of a window at its slice (R274, R467). -/
def readSlice (q : Ctx6) (w : Win) (off : Nat) (s : State) : (Vec × Bool) × State :=
  let a := w.dpa + off
  if !tagPasses s a q.c.tenant false then ((0, false), denyCmd q.k .read (tagDeny (fnOrigin q.c.f) s))
  else
    let ((bs, p), s) := readLine a q.c.tenant (fnOrigin q.c.f) s
    let s := countBytes a q.c.cls 64 false s
    ((vecOf bs, p.isSome), if p.isSome then notePoison q.k (winAddr q.c.raw w.w off) 0 s else s)

/-- Write one line of a window at its slice. -/
def writeSlice (q : Ctx6) (w : Win) (off : Nat) (v : Vec) (p : Bool) (s : State) : State :=
  let a := w.dpa + off
  issue a q.c.tenant false (fnOrigin q.c.f) q.c.cls
    (.write ((asPBytes a (vecBytes v)).map fun b => { b with poison := if p then some 0 else none })) (.cmd q.k) none s

/-! ### Control steps -/

/-- NOP. -/
def stepNop (q : Ctx6) (s : State) : State := nextStep q q.x s

/-- The index of the recipe's LOOPB or LOOPE. -/
def loopIdx (r : Run) (op : Nat) : Nat := (r.steps.findIdx? fun w => stOp w = op).getD 0

/-- LOOPB: with ITER 0 the body is not run. -/
def stepLoopb (q : Ctx6) (s : State) : State :=
  if chIter q.c.raw = 0 then goStep q q.x (loopIdx q.r 0x02 + 1) s else nextStep q { q.x with iter := 0 } s

/-- Every counter adds its adjustment. -/
def adjust (q : Ctx6) (x : Eng) : Eng :=
  let adj (p : Nat × (Nat × Nat)) : Nat × (Nat × Nat) := (p.1, (((p.2.1 : Int) + sext 8 p.2.2) % (q.lines : Int)).toNat, p.2.2)
  { x with g := x.g.map adj }

/-- LOOPE (R264). -/
def stepLoope (q : Ctx6) (s : State) : State :=
  let x := adjust q q.x
  if x.iter + 1 < chIter q.c.raw then goStep q { x with iter := x.iter + 1 } (loopIdx q.r 0x01 + 1) s
  else nextStep q { x with iter := 0 } s

/-- SETG. -/
def stepSetg (q : Ctx6) (s : State) : State :=
  let i := stD q.w % 4
  let param := bit q.w.toNat 20
  let p : Int := if param then (lane (q.line 63).1 i).toInt else 0
  let v := (((bits q.w.toNat 19 8 : Nat) : Int) + p) % (q.lines : Int)
  let s := if param then q.noteLines 63 1 s else s
  nextStep q { q.x with g := mset q.x.g i (v.toNat, stX q.w) } s

/-! ### Memory steps -/

/-- The window and byte offsets of g lines from counter i on. -/
def Ctx6.counterAcc (q : Ctx6) (i g : Nat) : List (Win × Nat) := (List.range g).map fun j => (q.win, (q.counter i + j) % q.lines * 64)

/-- LD. -/
def stepLd (q : Ctx6) (s : State) : State :=
  let i := stA q.w % 4
  let g := stF q.w + 1
  let acc := q.counterAcc i g
  withLines q acc false (fun s =>
    let r := acc.zipIdx.foldl (fun (a : Eng × State) p =>
      let ((v, bad), s) := readSlice q p.1.1 p.1.2 a.2
      (a.1.put (stD q.w + p.2) v bad, s)) (q.x, s)
    nextStep q (q.advance r.1 i g) r.2) s

/-- ST. -/
def stepSt (q : Ctx6) (s : State) : State :=
  let i := stD q.w % 4
  let g := stF q.w + 1
  let acc := q.counterAcc i g
  match reachAll q acc s with
  | .waits a => lookPage (.churn q.k) (chData q.c.raw) a s
  | .died b a => dieAt q b a s
  | .ok =>
    let s := acc.zipIdx.foldl (fun s p => writeSlice q p.1.1 p.1.2 (q.x.reg (stA q.w + p.2)) (q.x.bad (stA q.w + p.2)) s) s
    nextStep q (q.advance q.x i g) s

/-- LDB. -/
def stepLdb (q : Ctx6) (s : State) : State :=
  let g := stF q.w + 1
  let x := (List.range g).foldl (fun (x : Eng) i => x.put (stD q.w + i) (q.line (stX q.w + i)).1 (q.line (stX q.w + i)).2) q.x
  nextStep q x (q.noteLines (stX q.w) g s)

/-! ### Compute steps -/

/-- Put a lane-by-lane result of VA and VB (and Vd when it reads it) in Vd. -/
def lanes2 (q : Ctx6) (useB useD : Bool) (f : Word → Word → Word → Word) (s : State) : State :=
  let a := q.x.reg (stA q.w); let b := q.x.reg (stB q.w); let d := q.x.reg (stD q.w)
  let p := q.x.bad (stA q.w) || (useB && q.x.bad (stB q.w)) || (useD && q.x.bad (stD q.w))
  nextStep q (q.x.put (stD q.w) (ofLanes fun i => f (lane a i) (lane b i) (lane d i)) p) s

/-- Whether a step is on INT32 lanes. -/
def Ctx6.int (q : Ctx6) : Bool := stF q.w = 7

/-- FMA. -/
def stepFma (q : Ctx6) (s : State) : State := lanes2 q true true (fun a b d => if q.int then a * b + d else ffma32 a b d) s
/-- MUL. -/
def stepMul (q : Ctx6) (s : State) : State := lanes2 q true false (fun a b _ => if q.int then a * b else fmul32 a b) s
/-- ADD. -/
def stepAdd (q : Ctx6) (s : State) : State := lanes2 q true false (fun a b _ => if q.int then a + b else fadd32 a b) s
/-- MAX. -/
def stepMax (q : Ctx6) (s : State) : State := lanes2 q true false (fun a b _ => if q.int then (if a.slt b then b else a) else fmax32 a b) s
/-- MIN. -/
def stepMin (q : Ctx6) (s : State) : State := lanes2 q true false (fun a b _ => if q.int then (if b.slt a then b else a) else fmin32 a b) s
/-- EXP. -/
def stepExp (q : Ctx6) (s : State) : State := lanes2 q false false (fun a _ _ => exp32 a) s
/-- RCP. -/
def stepRcp (q : Ctx6) (s : State) : State := lanes2 q false false (fun a _ _ => rcp32 a) s

/-- SCALE: operands are read before results are written. -/
def stepScale (q : Ctx6) (s : State) : State :=
  let g := stX q.w / 16 + 1
  let m := lane (q.x.reg (stB q.w)) (stX q.w % 16)
  let x := (List.range g).foldl (fun (x : Eng) i =>
    let a := q.x.reg (stA q.w + i)
    x.put (stD q.w + i) (ofLanes fun j => fmul32 (lane a j) m) (q.x.bad (stA q.w + i) || q.x.bad (stB q.w))) q.x
  nextStep q x s

/-- WFMA (R255). -/
def stepWfma (q : Ctx6) (s : State) : State :=
  let g := stX q.w / 16 + 1
  let n := stepElems (stF q.w)
  let f := stepFmt (stF q.w)
  let m := lane (q.x.reg (stB q.w)) (stX q.w % 16)
  let wide (j : Nat) : Word := to32 (exactValue (fmtOf f) (q.x.elem (stA q.w) (fmtWidth f) j))
  let x := (List.range (g * n / 16)).foldl (fun (x : Eng) i =>
    let d := q.x.reg (stD q.w + i)
    let p := q.x.bad (stD q.w + i) || q.x.bad (stA q.w + 16 * i / n) || q.x.bad (stB q.w)
    x.put (stD q.w + i) (ofLanes fun j => ffma32 (wide (16 * i + j)) m (lane d j)) p) q.x
  nextStep q x s

/-- One level of the tree of R297. -/
def treeLevel : List Word → List Word
  | a :: b :: t => fadd32 a b :: treeLevel t
  | l => l

/-- dotb_tree of R297: n levels fold 2^n products. -/
def dotTree : Nat → List Word → Word
  | 0, l => l.headD 0
  | n + 1, l => dotTree n (treeLevel l)

/-- The sum DOTB takes, R296 to R298 and R254. -/
def dotSum (q : Ctx6) : Word :=
  let f := stF q.w
  let lg := stX q.w / 64
  let g := 2 ^ lg
  let n := stepElems f
  let code := stepFmt f
  let wd := fmtWidth code
  let ln := stX q.w % 64
  let a (i : Nat) : Nat := q.x.elem (stA q.w) wd i
  let b (i : Nat) : Nat := (q.line (ln + i / n)).1.toNat / 2 ^ (wd * (i % n)) % 2 ^ wd
  let prod (i : Nat) : Num := Num.mul (exactValue (fmtOf code) (a i)) (exactValue (fmtOf code) (b i))
  if f = 5 then
    BitVec.ofInt 32 (((List.range (g * n)).map fun i => sext 8 (a i) * sext 8 (b i)).sum)
  else if f = 6 then
    let sa (k : Nat) : Nat := (q.x.reg (stA q.w + g)).toNat / 2 ^ (8 * k) % 256
    let sb (k : Nat) : Nat := (q.line (ln + g)).1.toNat / 2 ^ (8 * k) % 256
    let block (k : Nat) : Word :=
      if sa k = 255 || sb k = 255 then qnan32
      else
        let sum := (List.range' 1 31).foldl (fun acc i => Num.add false acc (prod (32 * k + i))) (prod (32 * k))
        to32 (Num.scale ((sa k + sb k : Nat) - 254 : Int) sum)
    dotTree (lg + 2) ((List.range (4 * g)).map block)
  else dotTree (lg + Nat.log2 n) ((List.range (g * n)).map fun i => to32 (prod i))

/-- DOTB (R254). -/
def stepDotb (q : Ctx6) (s : State) : State :=
  let g := 2 ^ (stX q.w / 64) + (if stF q.w = 6 then 1 else 0)
  let init := bit (stB q.w) 4
  let i := stB q.w % 16
  let d := q.x.reg (stD q.w)
  let sum := dotSum q
  let v := if init then sum else if stF q.w = 5 then lane d i + sum else fadd32 (lane d i) sum
  let p := q.x.bad (stD q.w) || q.x.anyBad (stA q.w) g || (List.range g).any fun j => (q.line (stX q.w % 64 + j)).2
  nextStep q (q.x.put (stD q.w) (setLane d i v) p) (q.noteLines (stX q.w % 64) g s)

/-- Negation of an FP32 word. -/
def fneg32 (x : Word) : Word := x ^^^ 0x80000000

/-- SMAX (R256). -/
def stepSmax (q : Ctx6) (s : State) : State :=
  let d := q.x.reg (stD q.w); let a := q.x.reg (stA q.w)
  let n := stX q.w % 32
  let start := bit (stB q.w) 4 || lane d 3 = 0
  let ninf : Word := 0xFF800000
  let m0 := if start then ninf else lane d 0
  let l0 := if start then 0 else lane d 1
  let xs := (List.range n).map fun i => lane a i
  let mn := xs.foldl fmax32 m0
  let bad := isNan32 m0 || xs.any isNan32
  let c := if bad then qnan32 else if mn = ninf then 0x3F800000 else exp32 (fadd32 m0 (fneg32 mn))
  let ps := xs.map fun x => if bad then qnan32 else if mn = ninf then 0 else exp32 (fadd32 x (fneg32 mn))
  let l := if bad then qnan32 else ps.foldl fadd32 (fmul32 l0 c)
  let cnt := lane d 3 + BitVec.ofNat 32 n
  let d' := setLane (setLane (setLane (setLane d 0 (if bad then qnan32 else mn)) 1 l) 2 c) 3 cnt
  let a' := ps.zipIdx.foldl (fun v p => setLane v p.2 p.1) a
  let p := q.x.bad (stD q.w) || q.x.bad (stA q.w)
  nextStep q ((q.x.put (stD q.w) d' p).put (stA q.w) a' p) s

/-- POLY (R257). -/
def stepPoly (q : Ctx6) (s : State) : State :=
  let deg := stB q.w % 8 + 1
  let (cs, bad) := q.line (stX q.w)
  let a := q.x.reg (stA q.w)
  let y (x : Word) : Word := (List.range deg).reverse.foldl (fun y j => ffma32 y x (lane cs j)) (lane cs deg)
  nextStep q (q.x.put (stD q.w) (ofLanes fun i => y (lane a i)) (q.x.bad (stA q.w) || bad)) (q.noteLines (stX q.w) 1 s)

/-- CVT (R258). -/
def stepCvt (q : Ctx6) (s : State) : State :=
  let src := stepFmt (stF q.w)
  let n := stepElems (stF q.w)
  let dst := stX q.w % 16
  let w := fmtWidth dst
  let out (i : Nat) : Nat :=
    roundTo (fmtOf dst) (exactValue (fmtOf src) (q.x.elem (stA q.w) (fmtWidth src) i)) (q.rnd (bits (stX q.w) 6 4) i) (bit (stX q.w) 7)
  let per := 512 / w
  let x := (List.range (cdiv (n * w) 512)).foldl (fun (x : Eng) r =>
    let v := ((List.range (Nat.min per (n - per * r))).map fun j => out (per * r + j) * 2 ^ (w * j)).sum
    x.put (stD q.w + r) (BitVec.ofNat 512 v) (q.x.bad (stA q.w))) q.x
  nextStep q x s

/-- SUMX (R300). -/
def stepSumx (q : Ctx6) (s : State) : State :=
  let f := stepFmt (stF q.w)
  let i := stD q.w % 8
  let a := (List.range (stepElems (stF q.w))).foldl (fun a j => accAdd a (exactValue (fmtOf f) (q.x.elem (stA q.w) (fmtWidth f) j))) (q.x.accu i)
  nextStep q (q.x.putAcc i { a with poison := a.poison || q.x.bad (stA q.w) }) s

/-- ACCRND (R304). -/
def stepAccrnd (q : Ctx6) (s : State) : State :=
  let i := stX q.w % 16
  let (v, p) := accRound (q.x.accu (stA q.w % 8)) 1 (q.rnd (bits (stX q.w) 6 4) i) false
  nextStep q (q.x.put (stD q.w) (setLane (q.x.reg (stD q.w)) i (BitVec.ofNat 32 v)) (p || q.x.bad (stD q.w))) s

/-- ACCST (R301). -/
def stepAccst (q : Ctx6) (s : State) : State :=
  let i := stD q.w % 4
  let a := q.x.accu (stA q.w % 8)
  let acc := q.counterAcc i 1
  match reachAll q acc s with
  | .waits a => lookPage (.churn q.k) (chData q.c.raw) a s
  | .died b ad => dieAt q b ad s
  | .ok => nextStep q (q.advance q.x i 1) (writeSlice q q.win (q.counter i * 64) (packetOf a) a.poison s)

/-- ACCADD (R302). -/
def stepAccadd (q : Ctx6) (s : State) : State :=
  let i := stD q.w % 8
  nextStep q (q.x.putAcc i (accMerge (q.x.accu i) (accOfPacket (q.x.reg (stA q.w)) (q.x.bad (stA q.w)) false))) s

/-- ACCCLR (R299). -/
def stepAccclr (q : Ctx6) (s : State) : State := nextStep q (q.x.putAcc (stD q.w % 8) {}) s

/-- Whether one TOPK entry (value, index) ranks before another, R260. -/
def topBefore (int : Bool) (a b : Word × Word) : Bool :=
  let lt (x y : Word) : Bool :=
    if int then x.slt y
    else if isNan32 x then !isNan32 y
    else if isNan32 y then false else Num.lt (f32 x) (f32 y)
  if lt b.1 a.1 then true else if lt a.1 b.1 then false else a.2.slt b.2

/-- TOPK (R260). -/
def stepTopk (q : Ctx6) (s : State) : State :=
  let k := stX q.w % 32
  let init := bit (stB q.w) 4
  let base := 16 * (stB q.w % 16) + (if bit (stX q.w) 5 then 256 * q.x.iter else 0)
  let d := q.x.reg (stD q.w); let di := q.x.reg (stD q.w + 1); let a := q.x.reg (stA q.w)
  let held := if init then [] else (List.range k).map fun i => (lane d i, lane di i)
  let cand := (List.range 16).map fun i => (lane a i, BitVec.ofNat 32 (base + i))
  let best := ((held ++ cand).insertionSort fun x y => topBefore q.int x y || !topBefore q.int y x).take k
  let fill : Word := if q.int then 0x80000000 else 0xFF800000
  -- no NaN keeps its payload (R289)
  let v := ofLanes fun i => match best[i]? with | some x => if !q.int && isNan32 x.1 then qnan32 else x.1 | none => fill
  let ix := ofLanes fun i => match best[i]? with | some x => x.2 | none => 0xFFFFFFFF
  let p := q.x.bad (stA q.w) || (!init && (q.x.bad (stD q.w) || q.x.bad (stD q.w + 1)))
  nextStep q ((q.x.put (stD q.w) v p).put (stD q.w + 1) ix p) s

/-! ### Region steps -/

/-- The command's windows placed in the executing engine's region, in ascending number (R261). -/
def regionWins (q : Ctx6) : List Win := q.r.wins.filter fun w => w.engine / 2048 = q.e / 2048

/-- The window and byte offset that a region index of units of u bytes names; none for a null index. -/
def regionAt (q : Ctx6) (u : Nat) (i : Word) : Option (Win × Nat) :=
  let n := chWin q.c.raw / u
  if i = 0xFFFFFFFF then none else ((regionWins q)[i.toNat / n]?).map fun w => (w, i.toNat % n * u)

/-- Count null index lanes (R261). -/
def nullLanes (q : Ctx6) (n : Nat) (s : State) : State :=
  if n = 0 then s else raise (.chCluster (q.e / 64)) 3 (bump (.chCluster (q.e / 64)) 0x060 n s)

/-- GATH. -/
def stepGath (q : Ctx6) (s : State) : State :=
  let pa := q.x.bad (stA q.w)
  match regionAt q 64 (lane (q.x.reg (stA q.w)) (stX q.w % 16)) with
  | none => nextStep q (q.x.put (stD q.w) 0 pa) (nullLanes q 1 s)
  | some (w, off) =>
    withLines q [(w, off)] false (fun s =>
      let ((v, bad), s) := readSlice q w off s
      nextStep q (q.x.put (stD q.w) v (bad || pa)) s) s

/-- SCAT. -/
def stepScat (q : Ctx6) (s : State) : State :=
  match regionAt q 64 (lane (q.x.reg (stA q.w)) (stX q.w % 16)) with
  | none => nextStep q q.x (nullLanes q 1 s)
  | some (w, off) =>
    match reachAll q [(w, off)] s with
    | .waits a => lookPage (.churn q.k) (chData q.c.raw) a s
    | .died b a => dieAt q b a s
    | .ok => nextStep q q.x (writeSlice q w off (q.x.reg (stB q.w)) (q.x.bad (stB q.w) || q.x.bad (stA q.w)) s)

/-- One FADD lane at its word (R262, R552, R567): the old value and whether it is poisoned. -/
def faddWord (q : Ctx6) (w : Win) (off : Nat) (x : Word) (s : State) : (Word × Bool) × State :=
  let a := w.dpa + off
  let line := a / 64 * 64
  if !tagPasses s line q.c.tenant false then ((0, false), denyCmd q.k (.atomic .add 4 0 0 0) (tagDeny (fnOrigin q.c.f) s))
  else
    let ((src, n), s) := journalId (72 + q.e / 2048) s
    let op : HomeOp := { id := s.mem.nextOp, line := line, tenant := q.c.tenant, firmware := false, origin := fnOrigin q.c.f, cls := q.c.cls,
                         act := .atomic .add 4 x.toNat 0 (a % 64), who := .engine q.e, jid := some (src, n) }
    let s := perform op s
    match journalled s op with
    | some j => ((BitVec.ofNat 32 j.old, j.poison.isSome),
        if j.poison.isSome then notePoison q.k (winAddr q.c.raw w.w (off / 64 * 64)) 0 s else s)
    | none => ((0, false), s)

/-- FADD. A poisoned index or addend register poisons Vd and adds nothing (log entry 24). -/
def stepFadd (q : Ctx6) (s : State) : State :=
  let n := stX q.w % 32
  let va := q.x.reg (stA q.w); let vb := q.x.reg (stB q.w); let vd := q.x.reg (stD q.w)
  if q.x.bad (stA q.w) || q.x.bad (stB q.w) then
    nextStep q (q.x.put (stD q.w) ((List.range n).foldl (fun v i => setLane v i 0) vd) true) s
  else
    let ts := (List.range n).map fun i => (i, regionAt q 4 (lane va i))
    let acc := ts.filterMap (·.2)
    let room := acc.all fun p =>
      (s.mem.journal.filter fun j => j.home = homeOf s ((p.1.dpa + p.2) / 64 * 64)).length + n ≤ 4096
    if !room then s
    else withLines q acc true (fun s =>
      let r := ts.foldl (fun (r : (Vec × Bool) × State) t =>
        match t.2 with
        | none => ((setLane r.1.1 t.1 0xFFFFFFFF, r.1.2), r.2)
        | some (w, off) =>
          let ((o, bad), s) := faddWord q w off (lane vb t.1) r.2
          ((setLane r.1.1 t.1 o, r.1.2 || bad), s)) ((vd, q.x.bad (stD q.w)), s)
      nextStep q (q.x.put (stD q.w) r.1.1 r.1.2) (nullLanes q (n - acc.length) r.2)) s

/-! ### Exchange -/

/-- What an exchange step finds at the partner (R266, R282). -/
inductive Met where
  | waits | absent | lost | found (x : Shown)
  deriving DecidableEq, Repr

/-- The partner engine of an exchange step. -/
def Ctx6.partner (q : Ctx6) : Nat := q.e / 64 * 64 + ((q.e % 64) ^^^ stX q.w)

/-- Show this engine's register or accumulator to its partners, once. -/
def showOnce (q : Ctx6) (vec : Vec) (poison : Bool) (a : Acc) (s : State) : State :=
  let mine (y : Shown) : Bool := y.k = q.k && y.round = q.x.round && y.engine = q.e && y.step = q.x.step && y.iter = q.x.iter
  if s.ch.shown.any mine then s
  else
    let y : Shown := { k := q.k, round := q.x.round, engine := q.e, step := q.x.step, iter := q.x.iter, vec := vec, poison := poison, acc := a }
    { s with ch := { s.ch with shown := y :: s.ch.shown } }

/-- What stands at the partner for this step of this round. -/
def meet (q : Ctx6) (s : State) : Met :=
  match s.ch.shown.find? fun y => y.k = q.k && y.round = q.x.round && y.engine = q.partner && y.step = q.x.step && y.iter = q.x.iter with
  | some y => .found y
  | none => match roundWin q.r q.partner q.x.round with
    | none => .absent
    | some w => if w.ended && w.started then .lost else if winOver s q.k q.r w then .absent else .waits

/-- XCH. -/
def stepXch (q : Ctx6) (s : State) : State :=
  let s := showOnce q (q.x.reg (stA q.w)) (q.x.bad (stA q.w)) {} s
  match meet q s with
  | .waits => s
  | .absent => nextStep q (q.x.put (stD q.w) 0 false) s
  | .lost => nextStep q (q.x.put (stD q.w) 0 true) s
  | .found y => nextStep q (q.x.put (stD q.w) y.vec y.poison) s

/-- ACCX. -/
def stepAccx (q : Ctx6) (s : State) : State :=
  let i := stD q.w % 8
  let s := showOnce q 0 false (q.x.accu i) s
  match meet q s with
  | .waits => s
  | .absent => nextStep q q.x s
  | .lost => nextStep q (q.x.putAcc i { q.x.accu i with poison := true }) s
  | .found y => nextStep q (q.x.putAcc i (accMerge (q.x.accu i) y.acc)) s

/-- BAR: the engine waits at the cluster's barrier (R265). -/
def stepBar (q : Ctx6) (s : State) : State := bump64 .ch 0x050 1 (setEng q.e { q.x with atBar := true } s)

/-! ### The commands -/

/-- Step NOP on engine e. -/
def execRecipeNop (e : Nat) (s : State) : Host.Outcome State Fault Refusal := onUnit e 32768 (onStep 0x00 e stepNop s)
/-- Step LOOPB on engine e. -/
def execLoopb (e : Nat) (s : State) : Host.Outcome State Fault Refusal := onUnit e 32768 (onStep 0x01 e stepLoopb s)
/-- Step LOOPE on engine e. -/
def execLoope (e : Nat) (s : State) : Host.Outcome State Fault Refusal := onUnit e 32768 (onStep 0x02 e stepLoope s)
/-- Step SETG on engine e. -/
def execSetg (e : Nat) (s : State) : Host.Outcome State Fault Refusal := onUnit e 32768 (onStep 0x03 e stepSetg s)
/-- Step LD on engine e. -/
def execLd (e : Nat) (s : State) : Host.Outcome State Fault Refusal := onUnit e 32768 (onStep 0x04 e stepLd s)
/-- Step ST on engine e. -/
def execSt (e : Nat) (s : State) : Host.Outcome State Fault Refusal := onUnit e 32768 (onStep 0x05 e stepSt s)
/-- Step LDB on engine e. -/
def execLdb (e : Nat) (s : State) : Host.Outcome State Fault Refusal := onUnit e 32768 (onStep 0x06 e stepLdb s)
/-- Step DOTB on engine e. -/
def execDotb (e : Nat) (s : State) : Host.Outcome State Fault Refusal := onUnit e 32768 (onStep 0x07 e stepDotb s)
/-- Step FMA on engine e. -/
def execFma (e : Nat) (s : State) : Host.Outcome State Fault Refusal := onUnit e 32768 (onStep 0x08 e stepFma s)
/-- Step MUL on engine e. -/
def execMul (e : Nat) (s : State) : Host.Outcome State Fault Refusal := onUnit e 32768 (onStep 0x09 e stepMul s)
/-- Step ADD on engine e. -/
def execAdd (e : Nat) (s : State) : Host.Outcome State Fault Refusal := onUnit e 32768 (onStep 0x0A e stepAdd s)
/-- Step MAX on engine e. -/
def execMax (e : Nat) (s : State) : Host.Outcome State Fault Refusal := onUnit e 32768 (onStep 0x0B e stepMax s)
/-- Step MIN on engine e. -/
def execMin (e : Nat) (s : State) : Host.Outcome State Fault Refusal := onUnit e 32768 (onStep 0x0C e stepMin s)
/-- Step SCALE on engine e. -/
def execScale (e : Nat) (s : State) : Host.Outcome State Fault Refusal := onUnit e 32768 (onStep 0x0D e stepScale s)
/-- Step WFMA on engine e. -/
def execWfma (e : Nat) (s : State) : Host.Outcome State Fault Refusal := onUnit e 32768 (onStep 0x0E e stepWfma s)
/-- Step SMAX on engine e. -/
def execSmax (e : Nat) (s : State) : Host.Outcome State Fault Refusal := onUnit e 32768 (onStep 0x0F e stepSmax s)
/-- Step EXP on engine e. -/
def execExp (e : Nat) (s : State) : Host.Outcome State Fault Refusal := onUnit e 32768 (onStep 0x10 e stepExp s)
/-- Step RCP on engine e. -/
def execRcp (e : Nat) (s : State) : Host.Outcome State Fault Refusal := onUnit e 32768 (onStep 0x11 e stepRcp s)
/-- Step POLY on engine e. -/
def execPoly (e : Nat) (s : State) : Host.Outcome State Fault Refusal := onUnit e 32768 (onStep 0x12 e stepPoly s)
/-- Step CVT on engine e. -/
def execCvt (e : Nat) (s : State) : Host.Outcome State Fault Refusal := onUnit e 32768 (onStep 0x13 e stepCvt s)
/-- Step SUMX on engine e. -/
def execSumx (e : Nat) (s : State) : Host.Outcome State Fault Refusal := onUnit e 32768 (onStep 0x14 e stepSumx s)
/-- Step ACCRND on engine e. -/
def execAccrnd (e : Nat) (s : State) : Host.Outcome State Fault Refusal := onUnit e 32768 (onStep 0x15 e stepAccrnd s)
/-- Step ACCST on engine e. -/
def execAccst (e : Nat) (s : State) : Host.Outcome State Fault Refusal := onUnit e 32768 (onStep 0x16 e stepAccst s)
/-- Step ACCADD on engine e. -/
def execAccadd (e : Nat) (s : State) : Host.Outcome State Fault Refusal := onUnit e 32768 (onStep 0x17 e stepAccadd s)
/-- Step ACCCLR on engine e. -/
def execAccclr (e : Nat) (s : State) : Host.Outcome State Fault Refusal := onUnit e 32768 (onStep 0x18 e stepAccclr s)
/-- Step TOPK on engine e. -/
def execTopk (e : Nat) (s : State) : Host.Outcome State Fault Refusal := onUnit e 32768 (onStep 0x19 e stepTopk s)
/-- Step GATH on engine e. -/
def execGath (e : Nat) (s : State) : Host.Outcome State Fault Refusal := onUnit e 32768 (onStep 0x1A e stepGath s)
/-- Step SCAT on engine e. -/
def execScat (e : Nat) (s : State) : Host.Outcome State Fault Refusal := onUnit e 32768 (onStep 0x1B e stepScat s)
/-- Step FADD on engine e. -/
def execFadd (e : Nat) (s : State) : Host.Outcome State Fault Refusal := onUnit e 32768 (onStep 0x1C e stepFadd s)
/-- Step XCH on engine e. -/
def execXch (e : Nat) (s : State) : Host.Outcome State Fault Refusal := onUnit e 32768 (onStep 0x1D e stepXch s)
/-- Step ACCX on engine e. -/
def execAccx (e : Nat) (s : State) : Host.Outcome State Fault Refusal := onUnit e 32768 (onStep 0x1E e stepAccx s)
/-- Step BAR on engine e. -/
def execBar (e : Nat) (s : State) : Host.Outcome State Fault Refusal := onUnit e 32768 (onStep 0x1F e stepBar s)

end Sys2Proof.Machine
end

