-- ==== Sys2Proof/Machine/Gangway.lean ====
section
/-! DEFINITION. The Gangway: answers of the host to the hub's requests (R142, R160, R168, R176, R441), host accesses to device memory
(R21, R440 to R443), host loss and re-attach (R451 to R453), functions and their configuration (R431 to R436), D-states (R448, R449). -/

namespace Sys2Proof.Machine

/-! ### Functions and links -/

/-- Whether function f is presented: the PF from the end of boot or from recovery on, a VF of a booted hub while VF Enable covers it
(R431, R490, R491). -/
def fnPresented (s : State) (f : Nat) : Bool :=
  (f = 0 && 1 ≤ s.hm.stage) || (0 < f && s.hm.stage = 2 && s.gw.vfEnable && f ≤ s.gw.numVfs && f < 64)

/-- A value that the hub sets in a capability (R434, R437). -/
inductive CapValue where
  | pmeD3hot | pmeD3cold | vectors (n : Nat) | endpoint | maxPayload (bytes : Nat) | flr | tagBits (n : Nat) | atomicCompleter (bits : Nat)
  | casCompleter (bits : Nat) | timeoutRange (name : String) | poisonAdvisory | ats (a : Advertised) | pasidBits (n : Nat) | pageRequests (n : Nat) | totalVfs (n : Nat) | protocol (name : String)
  | d0Ready (ms : Nat) | cacheCapable | memCapable | rangeBytes (n : Nat) | registers (page : Page)
  deriving DecidableEq, Repr

/-- A capability of configuration space (R437): its offset, whether VFs present it, whether only a link that runs CXL has it, and the values
the hub sets in it for a function. What it does not list is not supported (D1 and D2, Execute and Privileged). -/
structure Capability where
  offset : Nat
  name : String
  vf : Bool
  cxl : Bool := false
  values : List CapValue := []
  deriving DecidableEq, Repr

/-- The D3hot-to-D0 time that Readiness Time Reporting gives, in ms (R448). -/
def d0ReadyMs (s : State) : Nat := if bit (getReg s .gw 0 0x04C) 0 then 200 else 10

/-- The capabilities of R437, as function f presents them. -/
def capabilities (s : State) (f : Nat) : List Capability := [
  ⟨0x040, "Power Management", true, false, if f = 0 then [.pmeD3hot, .pmeD3cold] else []⟩,
  ⟨0x050, "MSI-X", true, false, [.vectors (if f = 0 then 2048 else 128)]⟩,
  ⟨0x070, "PCI Express", true, false, [.endpoint, .maxPayload 512, .flr, .tagBits 14, .atomicCompleter 32, .atomicCompleter 64, .casCompleter 128,
    .timeoutRange "A", .timeoutRange "B"]⟩,
  ⟨0x100, "Advanced Error Reporting", true, false, [.poisonAdvisory]⟩,
  ⟨0x148, "ATS", true, false, [.ats advertised]⟩, ⟨0x150, "PASID", true, false, [.pasidBits advertised.pasidWidth]⟩,
  ⟨0x158, "Page Request", true, false, [.pageRequests advertised.pageRequests]⟩,
  ⟨0x168, "SR-IOV", false, false, [.totalVfs 63]⟩, ⟨0x1A8, "Latency Tolerance Reporting", false, false, []⟩,
  ⟨0x1B0, "Data Object Exchange", false, false, [.protocol "SPDM", .protocol "secured SPDM"]⟩,
  ⟨0x1D0, "Readiness Time Reporting", false, false, [.d0Ready (d0ReadyMs s)]⟩,
  ⟨0x200, "DVSEC for CXL Devices", false, true, [.cacheCapable, .memCapable, .rangeBytes (1240 * 2 ^ 30)]⟩,
  ⟨0x240, "DVSEC Register Locator", false, true, [.registers .gwCxl]⟩]

/-- The capabilities function f presents on link l (R437). -/
def presented (s : State) (l f : Nat) : List Capability :=
  if fnPresented s f then (capabilities s f).filter fun c => (f = 0 || c.vf) && (!c.cxl || linkCxl s l) else []

/-- The Device ID of function f (R437). -/
def deviceId (f : Nat) : Nat := if f = 0 then 0x0960 else 0x0961

/-- The Revision ID of every function (R437). -/
def revisionId : Nat := 0xB0

/-- The number of a BAR, the lowest of its writable bits, and the bits it reads below its size; VF BAR2 is not implemented (R438). -/
def barSpec : Bar → Nat × Option Nat × Nat
  | .bar0 => (0, some 28, 4) | .bar2 => (1, some 33, 0xC) | .bar4 => (2, some 25, 4)
  | .vfBar0 => (3, some 22, 4) | .vfBar2 => (4, none, 0) | .vfBar4 => (5, some 25, 4)

/-- What BAR b of link l reads. -/
def barRead (s : State) (l : Nat) (b : Bar) : Nat := (mgetD s.gw.bars (8 * l + (barSpec b).1) 0).toNat + (barSpec b).2.2

/-- A write of BAR b on link l: the bits below its size are not writable (R438). -/
def barWrite (l : Nat) (b : Bar) (v : Nat) (s : State) : State :=
  match (barSpec b).2.1 with
  | none => s
  | some k => { s with gw := { s.gw with bars := mput 0 s.gw.bars (8 * l + (barSpec b).1) (BitVec.ofNat 64 (v / 2 ^ k * 2 ^ k)) } }

/-- Whether a host access to function 0's BARs over link l is taken: the link is up and the PF is in D0. -/
def hostReaches (s : State) (l : Nat) : Bool := linkUp s l && fnPresented s 0 && !s.gw.d3.contains (64 * l)

/-- Whether the latched topology creates link l (R428, R429). -/
def linkExists (s : State) (l : Nat) : Bool :=
  let cfg := getReg s .gw 0 0x040
  l = 0 || (l = 1 && bit cfg 0) || (l = 2 && bits cfg 5 4 ≠ 2) || (l = 3 && bits cfg 5 4 = 1)

/-- The widest code of link l: ×16, or ×8 on a split port. -/
def linkWidest (s : State) (l : Nat) : Nat := if (l < 2 && linkExists s 1) || (2 ≤ l && linkExists s 3) then 4 else 5

/-- PERST# is deasserted: WAKE# is released (R450). -/
def perstUp (s : State) : State :=
  let s := if s.gw.wakePin then emit (.pin "WAKE_N" 0 true) s else s
  { s with gw := { s.gw with perst := false, cold := false, wakePin := false } }

/-- A host link finishes training (R428, R430, R450, R454). -/
def hostLinkGo (l : Nat) (cxl : Bool) (width rate : Nat) (s : State) : State :=
  if !linkExists s l || linkUp s l || s.sl.power ≠ 6 || width = 0 || linkWidest s l < width || rate = 0 || 7 < rate then s
  else
    let s := { s with gw := { s.gw with links := mset s.gw.links l { up := true, cxl := cxl, width := width, rate := rate } } }
    raise .gw 1 (if l = 0 then perstUp s else s)

/-! ### Answers of the host -/

/-- A host read leaves the table of reads. -/
def closeRead (id : Nat) (s : State) : State := { s with gw := { s.gw with reads := s.gw.reads.filter fun r => r.id ≠ id } }

/-- A party's host read failed: its command stops FAULT with DETAIL 0, a partner's request is answered FAULT. -/
def readFailed (r : HostRead) (s : State) : State :=
  match r.who with
  | .bresa b id => bresaReply b id 1 0 [] s
  | w => stopParty w stFault 0 (r.va % 2 ^ 64) s

/-- A completion for a host read (R441). One that brings less than was asked for is unsuccessful. -/
def hostReadDone (id : Nat) (data : List Byte) (poison : Bool) (s : State) : State :=
  match s.gw.reads.find? fun r => r.id = id with
  | none => s
  | some r =>
    let s := closeRead id s
    if data.length < r.len then readFailed r s
    else deliver r.who r.va (data.take r.len) (if poison then some 0 else none) s

/-- A host read that is lost or late: its lines are poisoned (R142, R441). -/
def hostReadLate (id : Nat) (s : State) : State :=
  match s.gw.reads.find? fun r => r.id = id with
  | none => s
  | some r =>
    let (bs, s) := freeBytes r.len (closeRead id s)
    deliver r.who r.va bs (some 0) s

/-- The global observation of a CXL.cache write (R160, R168). -/
def observed (id : Nat) (s : State) : State :=
  let cut (l : List Nat) : List Nat := l.filter fun x => x ≠ id
  let cmds := s.qe.cmds.map fun p => (p.1, { p.2 with observing := cut p.2.observing })
  let sqs := s.qe.sqs.map fun p => (p.1, { p.2 with trailObs := cut p.2.trailObs })
  { s with gw := { s.gw with observes := s.gw.observes.filter fun o => o.id ≠ id }, qe := { s.qe with cmds := cmds, sqs := sqs } }

/-- The committed decoder that a DPA of device memory lies in. -/
def hdmOf (s : State) (a : Nat) : Option Hdm := (s.gw.hdm.find? fun d => d.2.dpa ≤ a && a < d.2.dpa + d.2.size).map (·.2)

/-- The host's own origin. -/
def hostOrigin : Origin := ⟨.hostPf, 0⟩

/-- A number for a host access's answer. -/
def nextTag (s : State) : Nat × State := (s.gw.nextId, { s with gw := { s.gw with nextId := s.gw.nextId + 1 } })

/-- The host answers a back-invalidate: a dirty line is written at its home under its decoder's tenant, and what waited proceeds (R159). -/
def backInvalidated (line : Nat) (dirty : Option (List Byte)) (s : State) : State :=
  if !s.mem.biOpen.contains line then s
  else
    let s := { s with mem := { s.mem with biOpen := s.mem.biOpen.erase line, hostCopies := s.mem.hostCopies.erase line } }
    let s := match dirty with
      | some d =>
        let t := match hdmOf s line with | some h => h.tenant | none => 0
        acCount line 0 1 true (giveBack line t hostOrigin (arcClass 16 line s) (asPBytes line (fitBytes 64 d)) s)
      | none => s
    homeDrain s

/-! ### Host accesses -/

/-- A poisoned request was received (R441, R455). -/
def poisonReceived (s : State) : State := raise .gw 3 (capErr .gw 1 hostOrigin s)

/-- The lines a host access touches: line, first byte, bytes of it. -/
def accLines (a n : Nat) : List (Nat × Nat × Nat) := (pieces 64 a n).map fun p => (p.1 / 64 * 64, p.1, p.2)

/-- Perform a host write of one line's bytes. -/
def hostStore (a tenant : Nat) (who : Who) (bs : List Byte) (poison : Bool) (s : State) : State :=
  let req := s.mem.nextOp
  (accLines a bs.length).foldl (fun s p =>
    let part := (asPBytes p.2.1 ((bs.drop (p.2.1 - a)).take p.2.2)).map fun b => { b with poison := if poison then some 0 else none }
    issueOf req (fillsBlock (asPBytes a bs) p.1) p.1 tenant false hostOrigin (arcClass 16 p.1 s) (.write part) who none (acCount p.1 0 1 true s)) s

/-- Perform a host read of n bytes from DPA a on over link l for answer number id: the lines of `refused` read as zero. -/
def hostLoad (who : Who) (l id a n tenant : Nat) (refused : Nat → Bool) (s : State) : State :=
  let zeros := ((accLines a n).filter fun p => refused p.1).flatMap fun p => asPBytes p.2.1 (List.replicate p.2.2 0)
  let ls := (accLines a n).filter fun p => !refused p.1
  if ls.isEmpty then emit (.hostData l id (List.replicate n 0) false) s
  else
    let g : Gather := { who := who, want := [(a, n)], left := ls.length, bytes := zeros, status := 0 }
    let s := { s with mem := { s.mem with gathers := g :: s.mem.gathers } }
    let req := s.mem.nextOp
    ls.foldl (fun s p => issueOf req false p.1 tenant false hostOrigin (arcClass 16 p.1 s) .read who none (acCount p.1 0 1 false s)) s

/-- Whether a line lies in the Logbook carve-out. -/
def inCarveOut (line : Nat) : Bool := 0x1FE000000 ≤ line

/-- BAR2_ACCESS (R21, R440, R441, R446): tenant 0's access to hub SRAM; lines of the Logbook carve-out are refused. -/
def bar2Go (a : HostAcc) (s : State) : State :=
  let n := match a.data with | some d => d.length | none => a.len
  if !linkUp s a.link || s.hm.stage = 0 || n = 0 || 0x200000000 < a.addr + n then s
  else if !hostReaches s a.link then emit (.unsupported a.link) s
  else
    let s := wakeUp s
    let s := if (accLines a.addr n).any fun p => inCarveOut p.1 then raise .lb 1 { s with lb := { s.lb with denied := true } } else s
    match a.data with
    | none =>
      let (id, s) := nextTag s
      hostLoad (.host a.link id) a.link id a.addr n 0 inCarveOut s
    | some d =>
      let s := if a.poison then poisonReceived s else s
      let keep := if a.addr < 0x1FE000000 then d.take (0x1FE000000 - a.addr) else []
      hostStore a.addr 0 (.host a.link 0) keep a.poison s

/-- CXL_MEM_ACCESS (R128, R325, R441 to R443): the host address is decoded, and the access made with the decoder's tenant. A line that is
reserved or a later copy is not accessed (R19, R321, R338). The host may keep a copy of each line from the moment its access is performed. -/
def cxlMemGo (a : HostAcc) (s : State) : State :=
  let n := match a.data with | some d => d.length | none => a.len
  if !linkCxl s a.link || s.hm.stage = 0 || n = 0 then s
  else match (s.gw.hdm.find? fun d => d.2.base ≤ a.addr && a.addr + n ≤ d.2.base + d.2.size).map (·.2) with
    | none => emit (.unsupported a.link) s
    | some d =>
      let dpa := d.dpa + (a.addr - d.base)
      let s := wakeUp s
      if !(accLines dpa n).all fun p => reachable s p.1 then emit (.unsupported a.link) (captureReserved (.hostMem a.link 0) 0 dpa s)
      else
        let (id, s) := nextTag s
        match a.data with
        | none => hostLoad (.hostMem a.link id) a.link id dpa n d.tenant (fun _ => false) s
        | some bs => hostStore dpa d.tenant (.hostMem a.link id) bs a.poison (if a.poison then poisonReceived s else s)

/-- The hub DPA of a CXL DPA, R442. -/
def cxlDpa (x : Nat) : Nat := if x < 248 * 2 ^ 30 then 0x4000000000 + x else 0x10000000000 + (x - 248 * 2 ^ 30)

/-- Why a commit fails (R443). -/
def hdmBad (size x ways : Nat) : Bool :=
  ways ≠ 1 || size = 0 || size % 2 ^ 28 ≠ 0 || (x < 248 * 2 ^ 30 && 248 * 2 ^ 30 < x + size) || 1240 * 2 ^ 30 < x + size

/-- Decoder d is programmed and its commit asked for: base, size, CXL DPA and interleave ways (R443). -/
def hdmCommit (d : Nat) (g : HdmRegs) (s : State) : State :=
  if mhas s.gw.hdm d then s
  else
    let others := s.gw.hdmErr.filter (· ≠ d)
    let s := { s with gw := { s.gw with hdmRegs := mset s.gw.hdmRegs d g } }
    if hdmBad g.size g.dpa g.ways then capErr .gw 2 hostOrigin { s with gw := { s.gw with hdmErr := d :: others } }
    else
      let h : Hdm := { base := g.base, size := g.size, dpa := cxlDpa g.dpa, tenant := getReg s .gw 0 (0x180 + 4 * d) % 64 }
      { s with gw := { s.gw with hdm := mset s.gw.hdm d h, hdmErr := others } }

/-- A snoop of a host line is a miss, except while the hub writes the line (R443). -/
def hostSnoopGo (addr : Nat) (s : State) : State :=
  let line := addr / 64 * 64
  if !anyCxl s || (s.gw.observes.any fun o => o.addr < line + 64 && line < o.addr + o.len) then s else emit (.snoopMiss line) s

/-! ### Units of a command -/

/-- What works for command k lets go of it. -/
def freeUnits (k : Nat) (s : State) : State :=
  let ms := (s.gm.movers.filter fun p => p.2.k = k).map (·.1)
  let ls := (s.gm.lanes.filter fun p => p.2.k = k).map (·.1)
  let s := ls.foldl (fun s l => freeLane l s) (ms.foldl (fun s m => freeMover m s) s)
  atEnd k (if (getRun s k).isSome then churnDrop k s else s)

/-- The lane of a comparison that ends with committed tiles writes its record (R313). -/
def recordOf (k : Nat) (s : State) : State :=
  (s.gm.lanes.filter fun p => p.2.k = k).foldl (fun s p => match getCmd s k with
    | some c => if c.op = 0x34 && p.2.tile ≠ 0 then writeRecord p.1 p.2 c s else s
    | none => s) s

/-! ### Detach -/

/-- What a command has committed: tiles, or windows. -/
def committed (s : State) (k : Nat) (c : Cmd) : Nat := match getRun s k with | some r => prefixDone r | none => c.done

/-- Step 3 of R451: every SVA translation is dead, and page requests and ATS requests in flight are forgotten. -/
def svaDead (s : State) : State :=
  let keep (l : List Xl) : List Xl := l.filter fun x => x.space ≠ 0
  let fix (it : Item) : Item := if it.space = 0 then (match it.st with | .bad _ => it | _ => { it with st := .need, asked := false }) else it
  let plan (p : Plan) : Plan := { p with items := p.items.map fix }
  { s with tu := { s.tu with
    central := keep s.tu.central, region := s.tu.region.map (fun p => (p.1, keep p.2)), ahead := s.tu.ahead.map (fun p => (p.1, keep p.2)),
    ats := [], prgs := [], plans := s.tu.plans.map plan } }

/-- An SQ's fetches in flight are lost: it reads again from the entry checked next. -/
def Sq.refetchAll (q : Sq) : Sq := { q with issued := [], arrived := [], backoff := false, fetchNext := q.checkNext }

/-- Fetches of host-owned rings in flight end (R451 step 2). -/
def stopFetch (s : State) : State :=
  let stop (q : Sq) : Sq := if q.berth.isNone && !q.device then q.refetchAll else q
  { s with qe := { s.qe with sqs := s.qe.sqs.map fun p => (p.1, stop p.2) } }

/-- PERST#, a hot reset or DL_Down resets the configuration space of link l's functions (R436); PME_En is sticky (PRESUMED, log entry 77). -/
def cfgReset (l : Nat) (s : State) : State :=
  let sticky (p : Nat × FnCfg) : Option (Nat × FnCfg) :=
    if p.1 / 64 ≠ l then some p
    else if p.1 = 0 then some (0, ⟨false, false, false, 0, false, false, false, false, p.2.pmeEn, 128, 512, 0⟩) else none
  let s := { s with gw := { s.gw with
    fns := s.gw.fns.filterMap sticky, bars := s.gw.bars.filter fun p => p.1 / 8 ≠ l, d3 := s.gw.d3.filter fun d => d / 64 ≠ l } }
  if l = 0 then { s with gw := { s.gw with vfEnable := false, numVfs := 0, ltrTold := false } } else s

/-- Note what each unfinished command had committed at detection. -/
def markDetach (s : State) : State :=
  let mark (p : Nat × Cmd) : Nat × Cmd :=
    (p.1, if p.2.phase = .finished || p.2.atDetach.isSome then p.2 else { p.2 with atDetach := some (committed s p.1 p.2) })
  { s with qe := { s.qe with cmds := s.qe.cmds.map mark } }

/-- DETACH of cause 1 DL_Down, 2 PERST#, 3 hot reset (R451). -/
def detachGo (cause : Nat) (s : State) : State :=
  if cause = 0 || 3 < cause || (cause ≠ 2 && !linkUp s 0) || (cause = 2 && s.gw.perst) then s
  else
    let s := setReg .gw 0 0x054 cause (annexTouch (bump .gw 0x050 1 s))
    let s := setReg .gw 0 0x05C (s.time.toNat / 2 ^ 32) (setReg .gw 0 0x058 (s.time.toNat % 2 ^ 32) s)
    let cold := s.gw.cold || (cause = 2 && s.gw.d3.contains 0)
    let vfs := if s.gw.detached then s.gw.vfsAtDetach else if s.gw.vfEnable then s.gw.numVfs else 0
    let s := { s with gw := { s.gw with
      links := mdel s.gw.links 0, detached := true, vfsAtDetach := vfs, perst := s.gw.perst || cause = 2, cold := cold } }
    let s := markDetach (svaDead (stopFetch (cfgReset 0 (raise .gw 0 s))))
    let s := (s.gw.reads.map (·.id)).foldl (fun s id => hostReadLate id s) s
    let s := ((s.gw.flushes.filter fun g => g.link = 0).map (·.id)).foldl (fun s id => flushDone id s) s
    settleParties (((s.gw.observes.filter fun o => o.link = 0).map (·.id)).foldl (fun s id => observed id s) s)

/-- A record that a full or absent CQ held for command k is discarded; the command retires. -/
def dropHeld (s : State) (r : Rec) : State :=
  match r.k with
  | some k => match getCmd s k with
    | some c => let s := retire k c (applySignal c s); if c.sq < 64 then freeAdmin c.sq s else s
    | none => s
  | none => s

/-- DETACH_HOLD_EXPIRY: step 6 of R451. GW.DETACH_HOLD 0 holds without limit. -/
def detachHoldGo (s : State) : State :=
  if !s.gw.detached || s.gw.heldOver || getReg s .gw 0 0x068 = 0 then s
  else
    let s := { s with gw := { s.gw with heldOver := true } }
    let waiting := (s.qe.cmds.filter fun p => p.2.waitsHost && p.2.phase ≠ .finished).map (·.1)
    let s := waiting.foldl (fun s k => freeUnits k (recordOf k (endDetached k s))) s
    let qs := (s.qe.cqs.filter fun p => !p.2.device).map (·.1)
    qs.foldl (fun s q => match mget s.qe.cqs q with
      | some c => updCq q (fun c => { c with held := [] }) (c.held.foldl dropHeld s)
      | none => s) s

/-- What waited for the host is sent: held records and their interrupts, and MSI-X messages (R449, R453). -/
def serveHost (s : State) : State :=
  let s := (s.qe.cqs.map (·.1)).foldl (fun s q => match mget s.qe.cqs q with
    | some c =>
      let s := serveHeld (c.held.length + 1) q s
      if (mget s.qe.cqs q).any (·.irqWaits) then signalCq q s else s
    | none => s) s
  let ms := s.gw.heldMsi
  ms.foldl (fun s m => msixOf none m.1 m.2 s) { s with gw := { s.gw with heldMsi := [] } }

/-- The hub is attached again: nothing waits for the host any more. -/
def attachedAgain (s : State) : State :=
  let free (c : Cmd) : Cmd := { c with waitsHost := false, atDetach := none }
  { s with gw := { s.gw with detached := false, heldOver := false }, qe := { s.qe with cmds := s.qe.cmds.map fun p => (p.1, free p.2) } }

/-- RESUME (R453): VFs beyond a lower NumVFs go, held commands are translated anew, held records leave. -/
def resumeGo (s : State) : State :=
  let now := if s.gw.vfEnable then s.gw.numVfs else 0
  let s := (List.range' (now + 1) (s.gw.vfsAtDetach - now)).foldl (fun s f => flrOne f s) s
  settleParties (serveHost (retryPlans (attachedAgain s)))

/-- RESET (R453): R435 for every function; held commands go without completion records. -/
def resetGo (s : State) : State :=
  let held := (s.qe.cmds.filter fun p => p.2.waitsHost).map (·.1)
  let s := held.foldl (fun s k => let s := freeUnits k s; { s with qe := { s.qe with cmds := mdel s.qe.cmds k } }) s
  settleParties (attachedAgain (flrGo 0 { s with gw := { s.gw with heldMsi := [] } }))

/-- A write of GW.REATTACH that comes to v (R453). A decision for another epoch is ignored; one without a detach, or before link 0 is
back, decides nothing. -/
def reattachWrite (o : Origin) (v : Nat) (s : State) : State :=
  let mode := bits v 31 30
  if mode = 0 then setReg .gw 0 0x06C v s
  else if bits v 29 0 ≠ getReg s .gw 0 0x050 % 2 ^ 30 then capErr .gw 4 o s
  else
    let s := setReg .gw 0 0x06C (bits v 29 0) s
    if !s.gw.detached || !linkUp s 0 then s
    else if mode = 1 then resumeGo s else if mode = 2 then resetGo s else s

/-! ### Loss of another link -/

/-- A command whose request was lost with a link completes HOST_DETACHED (R452). -/
def lostHost (k : Nat) (s : State) : State :=
  updCmd k (fun c =>
    if c.held then c
    else if c.phase = .finished then { c with status := stDetached, detail := 0, fault := 0 }
    else match c.stop with | none => { c with stop := some (stDetached, 0), fault := 0 } | some _ => c) s

/-- A host read lost with its link. -/
def readLost (r : HostRead) (s : State) : State :=
  let s := closeRead r.id s
  match r.who with
  | .bresa b id => bresaReply b id 1 0 [] s
  | w => match whoCmd s w with | some k => lostHost k s | none => s

/-- Atomics in flight to host memory over link l. -/
def atomicsOver (s : State) (l : Nat) : List Nat :=
  (s.qe.cmds.filter fun p => (aopOf p.2.op).isSome && p.2.phase = .running && p.2.aux = 1 && p.2.old.isNone && (match getPlan s (.atomicUnit p.1) with
    | some pl => (match outOf pl.items (atSpace p.2.raw) (atAddr p.2.raw) with | some (o, .host) => steer s o = l | _ => false)
    | none => false)).map (·.1)

/-- LINK_LOST of link 1 to 3 (R436, R452). During a detach it goes down alike, and what was in flight on it is lost with it, but no LINK_LOST
is raised (log entry 111). -/
def hostLinkLost (l : Nat) (s : State) : State :=
  if l = 0 || !linkUp s l then s
  else
    let atomics := atomicsOver s l
    let crosses (q : Sq) : Bool := !q.device && q.issued.any fun n => steer s (q.base + n % 2 ^ q.log2 * 128) = l
    let again (p : Nat × Sq) : Nat × Sq := (p.1, if crosses p.2 then p.2.refetchAll else p.2)
    let s : State := { s with qe := { s.qe with sqs := s.qe.sqs.map again } }
    let s := (s.gw.reads.filter fun (r : HostRead) => r.link = l).foldl (fun s r => readLost r s) s
    let s := (s.gw.flushes.filter fun (g : Flush) => g.link = l).foldl (fun s g =>
      flushDone g.id (match g.k with | some k => lostHost k s | none => s)) s
    let s := (s.gw.observes.filter fun (o : Observe) => o.link = l).foldl (fun s o =>
      observed o.id (match o.k with | some k => lostHost k s | none => s)) s
    let s := atomics.foldl (fun s k => atEnd k (finish k stDetached 0 0 0 s)) s
    let s := cfgReset l { s with gw := { s.gw with links := mdel s.gw.links l } }
    settleParties (if s.gw.detached then s else raise .gw 2 (capErr .gw 3 hostOrigin s))

/-! ### Configuration -/

/-- FLR of function f (R435): f's work ends, and its own configuration enables return to reset (PRESUMED, log entry 77). -/
def flrHost (f : Nat) (s : State) : State :=
  if !((List.range 4).any (linkUp s)) || !fnPresented s f then s
  else
    let s := flrGo f s
    if f = 0 then { s with gw := { s.gw with fns := [], bars := [], d3 := [], vfEnable := false, numVfs := 0, ltrTold := false } }
    else { s with gw := { s.gw with fns := s.gw.fns.filter (fun p => p.1 % 64 ≠ f), d3 := s.gw.d3.filter fun d => d % 64 ≠ f } }

/-- Function f's SVA translations are forgotten when ATS is disabled. -/
def forgetSva (f : Nat) (s : State) : State :=
  let keep (l : List Xl) : List Xl := l.filter fun x => !(x.f = f && x.space = 0)
  { s with tu := { s.tu with central := keep s.tu.central, region := s.tu.region.map (fun p => (p.1, keep p.2)),
                             ahead := s.tu.ahead.map (fun p => (p.1, keep p.2)) } }

/-- One function's enables on link l (R105, R106, R132, R432, R445). Enabling PRI again ends a stop that a Response Failure brought. -/
def cfgFn (l f : Nat) (c : FnCfg) (s : State) : State :=
  if !fnPresented s f then s
  else
    let was := linkFnCfg s l f
    let s := { s with gw := { s.gw with fns := mset s.gw.fns (64 * l + f) c } }
    if l ≠ 0 then s
    else
      let s := if was.ats && !c.ats then forgetSva f s else s
      let s := if !was.pri && c.pri then { s with tu := { s.tu with priStopped := s.tu.priStopped.filter (· ≠ f) } } else s
      let s := if f ≠ 0 then s else if c.ltr then ltrTell s else { s with gw := { s.gw with ltrTold := false } }
      settleParties (retryPlans s)

/-- D3hot or D0 of function f on link l, power apart (R448, R449): fetch stops or goes on, and what waited for the host is sent. -/
def dstateGo (l f : Nat) (d3hot : Bool) (s : State) : State :=
  let n := 64 * l + f
  if !fnPresented s f || s.gw.d3.contains n = d3hot then s
  else
    let s := raise .gw 4 { s with gw := { s.gw with d3 := if d3hot then n :: s.gw.d3 else s.gw.d3.filter (· ≠ n) } }
    if d3hot then s else settleParties (serveHost s)

/-! ### The commands -/

/-- HOST_LINK_UP. -/
def execHostLinkUp (l : Nat) (cxl : Bool) (width rate : Nat) (s : State) : Host.Outcome State Fault Refusal :=
  onUnit l 4 (hostLinkGo l cxl width rate s)
/-- HOST_READ_COMPLETION. -/
def execHostReadCompletion (id : Nat) (data : List Byte) (poison : Bool) (s : State) : Host.Outcome State Fault Refusal :=
  .next (settleParties (hostReadDone id data poison s))
/-- HOST_READ_TIMEOUT: of a read that has been out for the completion timeout. -/
def execHostReadTimeout (id : Nat) (s : State) : Host.Outcome State Fault Refusal :=
  .next (if s.gw.reads.any fun r => r.id = id && r.sent + hostTimeout s ≤ dieNs s then settleParties (hostReadLate id s) else s)
/-- HOST_ATOMIC_COMPLETION, for a command or for a partner's request. -/
def execHostAtomicCompletion (k : Nat) (a : AtomicAnswer) (s : State) : Host.Outcome State Fault Refusal :=
  .next (if 2 ^ 62 ≤ k then partnerAtomicDone k a s else hostAtomicDone k a s)
/-- HOST_ATOMIC_TIMEOUT. -/
def execHostAtomicTimeout (k : Nat) (s : State) : Host.Outcome State Fault Refusal :=
  .next (if 2 ^ 62 ≤ k then partnerAtomicLate k s else hostAtomicLate k s)
/-- GLOBAL_OBSERVATION_RESPONSE. -/
def execGlobalObservationResponse (id : Nat) (s : State) : Host.Outcome State Fault Refusal := .next (observed id s)
/-- BAR2_ACCESS. -/
def execBar2Access (a : HostAcc) (s : State) : Host.Outcome State Fault Refusal := onUnit a.link 4 (bar2Go a s)
/-- CXL_MEM_ACCESS. -/
def execCxlMemAccess (a : HostAcc) (s : State) : Host.Outcome State Fault Refusal := onUnit a.link 4 (cxlMemGo a s)
/-- HOST_SNOOP. -/
def execHostSnoop (addr : Nat) (s : State) : Host.Outcome State Fault Refusal := .next (hostSnoopGo addr s)
/-- DETACH. -/
def execDetach (cause : Nat) (s : State) : Host.Outcome State Fault Refusal := .next (detachGo cause s)
/-- DETACH_HOLD_EXPIRY. -/
def execDetachHoldExpiry (s : State) : Host.Outcome State Fault Refusal := .next (detachHoldGo s)
/-- LINK_LOST. -/
def execLinkLost (l : Nat) (s : State) : Host.Outcome State Fault Refusal := onUnit l 4 (hostLinkLost l s)
/-- FLR. -/
def execFlr (f : Nat) (s : State) : Host.Outcome State Fault Refusal := onUnit f 64 (flrHost f s)

end Sys2Proof.Machine
end

