-- ==== Sys2Proof/Machine/Harbour.lean ====
section
/-! DEFINITION. The Harbourmaster: whole-die reset (R15, R499, R530), boot (R460, R487 to R491, R546), flash and anti-rollback (R492,
R496), core crashes (R78, R91, R272, R497 to R499), partner trace (R508), and the event controller (R500 to R507). -/

namespace Sys2Proof.Machine

/-! ### Whole-die reset -/

/-- The pins a reset lets go of: the supplies and resets of berths, and of memory. -/
def pinsDown (s : State) : State :=
  let bs := (List.range 8).filter fun b => (getBerth s b).powered
  let s := bs.foldl (fun s b => emit (.pin "BRST_N" b false) (emit (.pin "BPWR_EN" b false) s)) s
  let low (name : String) (v : Nat) (s : State) : State :=
    ((List.range 4).filter fun i => bit v i).foldl (fun s i => emit (.pin name i false) s) s
  low "LPWR_EN" s.sl.lpwr (low "MPWR_EN" s.sl.mpwr s)

/-- What a whole-die reset leaves: fuses, Tidegauge, the flash and the fused counter. What the model itself numbers goes on. -/
def bare (s : State) : State :=
  { fuses := s.fuses, tg := { s.tg with ckpt := false, wake := none },
    hm := { flash := s.hm.flash, fusedSvn := s.hm.fusedSvn }, sp := { nextKey := s.sp.nextKey, nextSession := s.sp.nextSession },
    sl := { railEn := s.sl.railEn }, out := s.out, fresh := s.fresh, pending := s.pending }

/-- The whole-die reset, with the cause Tidegauge holds (R499, R542). -/
def dieReset (cause : Nat) (s : State) : State :=
  let s := bare (pinsDown s)
  { s with tg := { s.tg with cause := cause } }

/-! ### Boot -/

/-- n bytes of the boot flash. An erased byte reads 0xFF (PRESUMED, log entry 40). -/
def flashBytes (s : State) (a n : Nat) : List Byte := (List.range n).map fun i => mgetD s.hm.flash ((a + i) % 2 ^ 26) 0xFF

/-- The flash with bytes from address a on. -/
def flashPut (a : Nat) (bs : List Byte) (s : State) : State :=
  { s with hm := { s.hm with flash := bs.zipIdx.foldl (fun m p => mput 0xFF m ((a + p.2) % 2 ^ 26) p.1) s.hm.flash } }

/-- SIZE of the slot at flash offset a. -/
def slotSize (s : State) (a : Nat) : Nat := leNat (flashBytes s (a + 12) 4)
/-- SVN of the slot at flash offset a. -/
def slotSvn (s : State) (a : Nat) : Nat := leNat (flashBytes s (a + 8) 1)
/-- The bytes of the slot at flash offset a: header and image. -/
def slotImage (s : State) (a : Nat) : List Byte := flashBytes s a (4096 + slotSize s a)

/-- Whether a slot's header lets it be read at all: its MAGIC, and a SIZE of at most 16 MiB. -/
def slotReads (s : State) (a : Nat) : Bool := leNat (flashBytes s a 4) = 0x4B45454C && slotSize s a ≤ 2 ^ 24

/-- Whether the Keeper accepts the slot at flash offset a (R489). -/
def slotOk (s : State) (a : Nat) : Bool :=
  slotReads s a && s.hm.fusedSvn ≤ slotSvn s a && slotSvn s a ≤ 63
    && Config.slotSigned (slotImage s a)

/-- The DPA from which the Keeper keeps an image: a page of the island's lower half that leaves the largest image room (R466, R490, R523). -/
def imageBase : Nat := 0x1FC000000 + 4096 * (Config.imagePlace % 4095)

/-- Step 2 or 3 of R490: the slot at flash offset a is read into FW-tagged hub SRAM. Of a slot whose header does not say how much to read nothing is
read (DESIGN CHOICE, log entry 110). -/
def loadSlot (a : Nat) (s : State) : State :=
  if !slotReads s a then s
  else { s with mem := { s.mem with bytes := (slotImage s a).zipIdx.foldl (fun m b => Memory.write m (imageBase + b.2) b.1) s.mem.bytes } }

/-- A register of a bank that the Keeper writes at boot, with its Logbook entry (R38). -/
def keeperWriteAt (p : Page) (i off v : Nat) (s : State) : State :=
  setReg p i off v (logAppend ⟨.keeper, 0⟩ 0 (some p) off (getReg s p i off) v s)

/-- A register that the Keeper writes at boot. -/
def keeperWrite (p : Page) (off v : Nat) (s : State) : State := keeperWriteAt p 0 off v s

/-- Load rule i of the Tidegauge table (R546); reserved codes leave the field (R12). -/
def loadRule (i : Nat) (r : Word × Word × Word) (s : State) : State :=
  let cfg := (fixCodes .tg 0x054 (getReg s .tg i 0x054) (r.1.toNat &&& 0xBFFFFF1F)).1
  keeperWriteAt .tg i 0x05C (r.2.2.toNat &&& 0x3FF) (keeperWriteAt .tg i 0x058 (r.2.1.toNat &&& 0x0FFF0FFF) (keeperWriteAt .tg i 0x054 cfg s))

/-- Load the whole rule table; every rule is re-armed. -/
def loadRules (rs : List (Word × Word × Word)) (s : State) : State :=
  (List.range 32).foldl (fun s i => loadRule i (rs.getD i (0, 0, 0)) s) { s with tg := { s.tg with rules := [], throttles := [] } }

/-- Memory training: a tier that fails is out of service (R321). -/
def trainMemory (hbm lpddr : Bool) (s : State) : State :=
  let s := { s with mem := { s.mem with hbmAbsent := !hbm, lpddrAbsent := !lpddr } }
  if hbm && lpddr then s else capErr .ms 5 ⟨.keeper, 0⟩ s

/-- The supply enables of R520 are asserted from time t on at the earliest: the time of the next, which follows the one before by SL.STAGGER. -/
def nextStagger (s : State) : Nat := match s.qy.staggerLast with | some t => Nat.max (dieNs s) (t + stagger s) | none => dieNs s

/-- The memory enables of R520 that are still down go up before training, in order, each SL.STAGGER after the one before: within the time that
boot takes, so the last of them may lie ahead of now (R490). -/
def memoryPower (s : State) : State :=
  let up (name : String) (v : Nat) (s : State) : State :=
    ((List.range 4).filter fun i => !bit v i).foldl (fun s i =>
      emit (.pin name i true) { s with qy := { s.qy with staggerLast := some (nextStagger s) } }) s
  let s := up "LPWR_EN" s.sl.lpwr (up "MPWR_EN" s.sl.mpwr s)
  { s with sl := { s.sl with mpwr := 15, lpwr := 15 } }

/-- A slot that failed records a code that the spec does not list: a free value. -/
def slotFailure (ok : Bool) (s : State) : Nat × State :=
  if ok then (0, s) else let (n, s) := draw s; ((Config.freeWord n).toNat % 256, s)

/-- HM.SVN of the fused counter and the running image. -/
def showSvn (s : State) : State := setReg .hm 0 0x048 (s.hm.fusedSvn * 2 ^ 8 + s.hm.imageSvn) s

/-- The regions the Keeper gives core c when it releases or reloads it: the component table's, at most 16, but none that covers the Keeper's
pages or the key slot state; the Keeper's own, of core 0, may cover them (R493, R494). -/
def regionsOf (img : List Byte) (c : Nat) : List Prot :=
  ((Config.coreRegions img c).take 16).filterMap fun g =>
    if c ≠ 0 && Config.keeperPages.any fun k => g.1 ≤ k.2 && k.1 ≤ g.2.1 then none
    else some { base := g.1, limit := g.2.1, r := bit g.2.2 0, w := bit g.2.2 1, x := bit g.2.2 2 }

/-- The signed settings of an accepted image take effect (R45, R399, R546). -/
def applyImage (img : List Byte) (s : State) : State :=
  let v := (Config.flashSysCfg img).toNat &&& 0xC0000FFF
  let s := keeperWrite .hl 0x00C 1 (keeperWrite .hl 0x040 v s)
  let s := if bit v 30 then holdId v s else s
  loadRules (Config.flashRules img) s

/-- The Logbook policy: the grade's, or the image's (R45). -/
def bootPolicy (img : Option (List Byte)) (s : State) : State :=
  let p := (img.bind Config.flashLogPolicy).getD s.fuses.vehicle
  keeperWrite .lb 0x00C 1 (keeperWrite .lb 0x048 (b2n p) s)

/-- The Keeper generates tenant 0's key in slot 0 (R460). -/
def bootKey (ok : Bool) (s : State) : State :=
  let s := { s with sp := { s.sp with trngOk := ok } }
  if ok then
    { s with sp := { s.sp with slots := mset s.sp.slots 0 { st := 1, bounce := false, f := 0, ctx := 0, key := 2 * (s.sp.nextKey + 1) },
                               nextKey := s.sp.nextKey + 1 } }
  else trngFail ⟨.keeper, 0⟩ s

/-- The alias certificate of a boot from an image, or of a recovery (R478, R479). -/
def aliasOf (img : Option (List Byte)) (s : State) : AliasCert :=
  { images := match img with | some i => (Config.imageDigests i).1 | none => [], config := match img with | some i => (Config.imageDigests i).2 | none => 0,
    svn := s.hm.fusedSvn, version := hubVersion, grade := hubGrade s, debug := getReg s .sp 0 0x074, key := Config.aliasKey img }

/-- BOOT: steps 2 to 6 of R490, or recovery (R491). -/
def bootGo (trngOk hbm lpddr debug : Bool) (s : State) : State :=
  if s.hm.stage ≠ 0 || s.sl.power ≠ 6 then s
  else
    let s := memoryPower s
    let okA := slotOk s 0
    let okB := !okA && slotOk s 0x2000000
    let (codeA, s) := slotFailure okA s
    let (codeB, s) := slotFailure (okA || okB) s
    let s := loadSlot 0 s
    let s := if okA then s else loadSlot 0x2000000 s
    let s := bootKey trngOk s
    let run := (okA || okB) && trngOk
    let base := if okA then 0 else 0x2000000
    let used := if run then (if okA then 0 else 1) else 2
    let img := if run then some (slotImage s base) else none
    let cores := (List.range 24).map fun c => (c, { getCore s c with st := if run || c = 0 then 0 else 1, kicked := dieNs s, regions := match img with | some i => regionsOf i c | none => [] })
    let s := { s with hm := { s.hm with
      stage := if run then 2 else 1, slotUsed := used, imageSvn := if run then slotSvn s base else 0, cores := cores } }
    let s := bootPolicy img s
    let s := match img with | some i => applyImage i s | none => s
    let s := if run then setReg .hm 0 0x040 (leNat (flashBytes s (base + 4) 4) &&& 0xFFFF0000) s else s
    let s := setReg .hm 0 0x044 (used * 2 ^ 30 + (if trngOk then 0 else 2 ^ 29) + codeA * 2 ^ 16 + codeB * 2 ^ 8 + s.tg.cause) (showSvn s)
    let s := if debug && !s.fuses.debugLock then setReg .sp 0 0x074 2 s else s
    trainMemory hbm lpddr { s with sp := { s.sp with alias_ := aliasOf img s } }

/-! ### Anti-rollback and flash -/

/-- A write of HM.SVN_COMMIT with GO. Only the PF starts a commit (R492). -/
def svnGo (o : Origin) (s : State) : State :=
  if o.cls ≠ .hostPf then setReg .hm 0 0x04C (getReg s .hm 0 0x04C &&& 2 ||| b2n s.hm.svnBusy) s
  else { s with hm := { s.hm with svnBusy := true } }

/-- SVN_COMMIT_DONE. -/
def svnDone (s : State) : State :=
  if !s.hm.svnBusy then s
  else
    let s := { s with hm := { s.hm with svnBusy := false } }
    if s.hm.fusedSvn < s.hm.imageSvn then setReg .hm 0 0x04C 0 (showSvn { s with hm := { s.hm with fusedSvn := s.hm.imageSvn } })
    else setReg .hm 0 0x04C 2 s

/-- A write of HM.FLASH_CTL with GO: the operation is taken up unless one runs (R496). -/
def flashGo (s : State) : State :=
  if s.hm.flashOp.isSome then s
  else
    let v := getReg s .hm 0 0x064
    setReg .hm 0 0x064 (2 ^ 31 + bits v 2 1 * 2 + 1) { s with hm := { s.hm with flashOp := some (bits v 2 1, getReg s .hm 0 0x060) } }

/-- Whether a flash address lies in the slot the hub booted from. -/
def bootedFrom (s : State) (a : Nat) : Bool := s.hm.stage = 2 && a / 0x2000000 = s.hm.slotUsed

/-- What a flash operation that the device fails leaves in a range: free bytes. -/
def flashFree (a n : Nat) (s : State) : State :=
  let (bs, s) := freeBytes n s
  flashPut a bs s

/-- The buffer as bytes. -/
def flashBuf (s : State) : List Byte := (List.range 512).flatMap fun i => leBytes 4 (getReg s .hm 0 (0x800 + 4 * i))

/-- The buffer filled with bytes. -/
def fillBuf (bs : List Byte) (s : State) : State :=
  (List.range 512).foldl (fun s i => setReg .hm 0 (0x800 + 4 * i) (fld bs (4 * i) 4) s) s

/-- The effect of a flash operation and its error code. -/
def flashDo (op a : Nat) (dev : Bool) (s : State) : Nat × State :=
  if op ≠ 0 && bootedFrom s a then (1, s)
  else if op = 2 && a % 2048 ≠ 0 then (2, s)
  else if op = 0 then
    (if dev then let (bs, s) := freeBytes 2048 s; (3, fillBuf bs s) else (0, fillBuf (flashBytes s a 2048) s))
  else if op = 1 then
    let base := a / 65536 * 65536
    if dev then (3, flashFree base 65536 s)
    else (0, { s with hm := { s.hm with flash := s.hm.flash.filter fun c => !(base ≤ c.1 && c.1 < base + 65536) } })
  else if dev then (3, flashFree a 2048 s) else (0, flashPut a (flashBuf s) s)

/-- FLASH_DONE. -/
def flashEnd (dev : Bool) (s : State) : State :=
  match s.hm.flashOp with
  | none => s
  | some (op, a) =>
    let (err, s) := flashDo op a dev { s with hm := { s.hm with flashOp := none } }
    raise .hm 1 (setReg .hm 0 0x064 (err * 2 ^ 8 + op * 2) s)

/-! ### Core crashes -/

/-- Core c changed. -/
def updCore (c : Nat) (f : Core → Core) (s : State) : State :=
  { s with hm := { s.hm with cores := mset s.hm.cores c (f (getCore s c)) } }

/-- The core an origin is (R486). -/
def originCore (o : Origin) : Option Nat :=
  match o.cls with
  | .keeper => some 0
  | .hmFw => if 1 ≤ o.ident && o.ident ≤ 7 then some o.ident else none
  | .regionFw => if o.ident < 16 then some (8 + o.ident) else none
  | _ => none

/-- Step 2 of R498: the core's stack is emptied, and what it had taken without an EOI is pending again. -/
def emptyStack (c : Nat) (s : State) : State :=
  let again := (getCore s c).inService
  let s := { s with ec := { s.ec with pend := s.ec.pend ++ again.filter fun n => !s.ec.pend.contains n } }
  updCore c (fun x => { x with stack := [], inService := [], run := 64 }) s

/-- R78: an admin SQ's undispatched entries are fetched again; those already refused are passed over. -/
def Sq.restart (q : Sq) : Sq :=
  { q with answered := (q.answered ++ (q.ready.filter fun p => p.2 = []).map (·.1)).dedup, ready := [], issued := [], arrived := [],
           backoff := false, stalled := false, tries := 0, fetchNext := q.next }

/-- Whether an admin command in progress has begun none of its changes (R91). One that still waits on its wait fence has not started: it is left
waiting (DESIGN CHOICE, log entry 35). -/
def unbegun (c : Cmd) : Bool :=
  c.phase = .ready || (c.phase = .running && (c.op = 0x8C || (c.op = 0x8A && fld c.raw 16 1 ≠ 0)))

/-- Step 3 of R498 for an admin core. -/
def restartAdmin (c : Nat) (s : State) : State :=
  let mine (f : Nat) : Bool := 1 + f % 4 = c
  let ks := (s.qe.cmds.filter fun p => p.2.sq < 64 && mine p.2.f && unbegun p.2).map (·.1)
  let s := ks.foldl (fun s k => adminEnd k stRetryable 0 0 (dropPlan (.recipe k) s)) s
  let again (p : Nat × Sq) : Nat × Sq := (p.1, if p.1 < 64 && mine p.1 then p.2.restart else p.2)
  { s with qe := { s.qe with sqs := s.qe.sqs.map again } }

/-- A party's reads on their way are forgotten: what they bring reaches no one. -/
def dropReads (w : Who) (s : State) : State :=
  { s with gw := { s.gw with reads := s.gw.reads.filter fun r => r.who ≠ w }, hl := { s.hl with outs := s.hl.outs.filter fun o => o.who ≠ w } }

/-- Step 3 of R498 for a region controller: plans in the making, the load of their broadcast source included, are made again from window 0 (R268,
R272). -/
def replan (s : State) : State :=
  let ks := (s.ch.runs.filter fun p => !p.2.planned).map (·.1)
  ks.foldl (fun s k => match getCmd s k, getRun s k with
    | some c, some r => churnPlan k c r.steps (dropReads (.churn k) (dropPlan (.churn k) s))
    | _, _ => s) s

/-- HM.WDOG.CRASH_LIMIT. -/
def crashLimit (s : State) : Nat := zero1 (bits (getReg s .hm 0 0x058) 19 16)

/-- A crash of core c (R498, R499). Recovery re-executes no IDEMPOTENT command from its first tile, though FLAGS bit 2 says it may (R61): commands
go on where they stand (DESIGN CHOICE, log entry 85). -/
def crash (c cause : Nat) (s : State) : State :=
  if (getCore s c).st ≠ 0 || s.sl.power ≠ 6 then s
  else
    let now := 10 * s.tclk
    let recent := now :: (getCore s c).recent.filter fun t => now < t + 1000000000
    let s := updCore c (fun x => { x with st := 1, cause := cause, regions := [], crashes := (x.crashes + 1) % 2 ^ 16, recent := recent }) s
    let s := raise .hm 0 s
    if c = 0 then startReset 2 s
    else
      let s := emptyStack c s
      let s := if c ≤ 4 then restartAdmin c s else if 8 ≤ c then replan s else s
      if crashLimit s ≤ recent.length then startReset 4 s else s

/-- HM.WDOG.PERIOD in ns. -/
def wdogPeriod (s : State) : Nat := zero1 (bits (getReg s .hm 0 0x058) 15 0) * 1000000

/-- A write of HM.WDOG_KICK by a core restarts its watchdog (R497, R509). -/
def wdogKick (o : Origin) (s : State) : State :=
  match originCore o with
  | some c => updCore c (fun x => { x with kicked := dieNs s }) s
  | none => s

/-- The watchdog of core c expires once PERIOD has passed without a kick (R497, R510); while the cores are off in H2 and H3 none does. -/
def wdogGo (c : Nat) (s : State) : State :=
  if dieNs s < (getCore s c).kicked + wdogPeriod s || 2 ≤ s.sl.h then s else crash c 1 s

/-- Whether core c's regions bar an access of n bytes from address a on: no region holds the whole span and grants the permission (R493). The
Keeper runs from the mask ROM, without a component table and so without regions, until an image is accepted (DESIGN CHOICE, log entry 101). -/
def coreBarred (s : State) (c a n : Nat) (wr : Bool) : Bool :=
  !(c = 0 && s.hm.stage ≠ 2)
    && !(getCore s c).regions.any fun g => g.base * 4096 ≤ a && a + n ≤ (g.limit + 1) * 4096 && (if wr then g.w else g.r)

/-- CORE_CRASH with a cause other than the watchdog's (R510). -/
def coreCrashGo (c cause : Nat) (s : State) : State := if 2 ≤ cause && cause ≤ 4 then crash c cause s else s

/-- A core is reloaded, its image checked and its regions set (R494, R498 steps 4 and 5, R499). -/
def coreReloadGo (c : Nat) (imageOk : Bool) (s : State) : State :=
  if c = 0 || (getCore s c).st = 0 || s.hm.stage ≠ 2 || s.tg.ckpt || s.sl.power ≠ 6 || 2 ≤ s.sl.h then s
  else if imageOk then updCore c (fun x => { x with st := 0, kicked := dieNs s, regions := regionsOf (slotImage s (0x2000000 * s.hm.slotUsed)) c }) s
  else startReset 3 (updCore c (fun x => { x with cause := 5 }) s)

/-! ### Partner trace -/

/-- Bytes of the trace ring. -/
def traceSize (s : State) : Nat := 2 ^ clampN 16 24 (getReg s .hm 0 0x06C % 32)
/-- DPA of the trace ring. -/
def traceBase (s : State) : Nat := getReg s .hm 0 0x070 % 2 ^ 21 * 4096
/-- Bytes the reader has not taken. -/
def traceUsed (s : State) : Nat :=
  let n := traceSize s
  (getReg s .hm 0 0x078 % n + n - getReg s .hm 0 0x074 % n) % n

/-- One TRACE message in the ring (R508). The ring never fills wholly, since a full one would read as empty (DEDUCED, log entry 37). -/
def traceGo (b : Nat) (m : BresaMsg) (s : State) : State :=
  if !bit (getReg s .hm 0 0x06C) 31 then s
  else
    let rec_ := leBytes 8 s.time.toNat ++ leBytes 1 b ++ leBytes 1 m.len ++ List.replicate 6 0 ++ m.payload
    let n := rec_.length
    if traceSize s ≤ traceUsed s + n then raise .hm 2 (bump .hm 0x07C 1 s)
    else
      let size := traceSize s
      let t := getReg s .hm 0 0x078 % size
      let first := rec_.take (size - t)
      let put (off : Nat) (bs : List Byte) (s : State) : State :=
        if bs.isEmpty then s
        else issueWrite (traceBase s + off) 0 true ⟨.partner, lowerBerth s b⟩ (fwClass s) (asPBytes (traceBase s + off) bs) .none s
      setReg .hm 0 0x078 ((t + n) % size) (put 0 (rec_.drop (size - t)) (put t first s))

/-- A write of HM.TRACE_CFG came from old to its new value: EN set or cleared (R508). -/
def traceSwitch (old : Nat) (s : State) : State :=
  let new := getReg s .hm 0 0x06C
  let lo := traceBase s / 4096
  let hi := lo + traceSize s / 4096
  if !bit old 31 && bit new 31 then
    (if 0x1FC000 < hi then setReg .hm 0 0x06C (new % 2 ^ 31) s else tagPages lo hi 64 s)
  else if bit old 31 && !bit new 31 then
    let hit (a : Nat) : Bool := 4096 * lo ≤ a && a < 4096 * hi
    let s := { s with mem := { s.mem with 
      bytes := s.mem.bytes.filter (fun c => !hit c.1), poison := s.mem.poison.filter (fun c => !hit c.1),
      correctable := s.mem.correctable.filter (fun a => !hit a), uncorrectable := s.mem.uncorrectable.filter fun a => !hit a } }
    tagPages lo hi 0 s
  else s

/-! ### Event controller -/

/-- EC.SRC_CFG of a source. -/
def srcCfg (s : State) (n : Nat) : Nat := (mgetD s.ec.cfg n 0).toNat

/-- The core a source is for; numbers from 24 on act as 0 (R512). -/
def srcCore (s : State) (n : Nat) : Nat := let c := bits (srcCfg s n) 20 16; if c < 24 then c else 0

/-- PRIO of a source. -/
def srcPrio (s : State) (n : Nat) : Nat := bits (srcCfg s n) 29 24

/-- Whether source n is eligible for core c (R503). -/
def srcEligible (s : State) (c n : Nat) : Bool :=
  bit (srcCfg s n) 31 && srcCore s n = c && s.ec.unmasked.contains n && srcPrio s n < (getCore s c).run && (getCore s c).stack.length < 16

/-- Of two sources the one served first. -/
def srcFirst (s : State) (a b : Nat) : Nat :=
  if srcPrio s a < srcPrio s b || (srcPrio s a = srcPrio s b && a ≤ b) then a else b

/-- The winner of core c's delivery. -/
def srcWinner (s : State) (c : Nat) : Option Nat :=
  match s.ec.pend.filter (srcEligible s c) with
  | [] => none
  | a :: t => some (t.foldl (srcFirst s) a)

/-- EC_DELIVER: the winner is driven onto core c's vector port (R503). -/
def ecDeliverGo (c : Nat) (s : State) : State :=
  if (getCore s c).st ≠ 0 || 2 ≤ s.sl.h || s.sl.power ≠ 6 then s
  else match srcWinner s c with
  | none => s
  | some n =>
    let cfg := srcCfg s n
    let mask (l : List Nat) : List Nat := if bit cfg 30 then l.filter (· ≠ n) else l
    let s := { s with ec := { s.ec with pend := s.ec.pend.filter (· ≠ n), unmasked := mask s.ec.unmasked } }
    let s := updCore c (fun x => { x with stack := x.run :: x.stack, inService := n :: x.inService, run := bits cfg 29 24 }) s
    emit (.vector c ((getReg s .hm 0 (0x100 + 4 * c) / 32 * 32 + 32 * (cfg % 4096)) % 2 ^ 32)) s

/-- An EOI by an origin (R504). -/
def eoiGo (o : Origin) (s : State) : State :=
  match originCore o with
  | none => s
  | some c =>
    match (getCore s c).stack with
    | r :: t => updCore c (fun x => { x with run := r, stack := t, inService := x.inService.drop 1 }) s
    | [] => raise .ec 1 (bump .ec 0x05C 1 s)

/-! ### The commands -/

/-- BOOT. -/
def execBoot (trngOk tierHbm tierLpddr debugToken : Bool) (s : State) : Host.Outcome State Fault Refusal :=
  .next (bootGo trngOk tierHbm tierLpddr debugToken s)
/-- SVN_COMMIT_DONE. -/
def execSvnCommitDone (s : State) : Host.Outcome State Fault Refusal := .next (svnDone s)
/-- FLASH_DONE. -/
def execFlashDone (deviceErr : Bool) (s : State) : Host.Outcome State Fault Refusal := .next (flashEnd deviceErr s)
/-- WATCHDOG_EXPIRY. -/
def execWatchdogExpiry (c : Nat) (s : State) : Host.Outcome State Fault Refusal := onUnit c 24 (wdogGo c s)
/-- CORE_CRASH. -/
def execCoreCrash (c cause : Nat) (s : State) : Host.Outcome State Fault Refusal := onUnit c 24 (coreCrashGo c cause s)
/-- CORE_RELOAD. -/
def execCoreReload (c : Nat) (imageOk : Bool) (s : State) : Host.Outcome State Fault Refusal := onUnit c 24 (coreReloadGo c imageOk s)
/-- TRACE. -/
def execTrace (b : Nat) (m : BresaMsg) (s : State) : Host.Outcome State Fault Refusal := onUnit b 8 (receive b 6 1 m (traceGo b m) s)
/-- EC_DELIVER. -/
def execEcDeliver (c : Nat) (s : State) : Host.Outcome State Fault Refusal := onUnit c 24 (ecDeliverGo c s)

end Sys2Proof.Machine
end

