-- ==== Sys2Proof/Machine/Tide.lean ====
section
/-! DEFINITION. Sluice and Tidegauge: rails and supplies (R516, R519, R520), power states (R444, R447 to R449, R521 to R525, R530), the
governor (R526 to R531), filters, rules, log and the brownout checkpoint (R534 to R541, R543), time (R17, R406, R483, R501). -/

namespace Sys2Proof.Machine

/-! ### Tidegauge's rules -/

/-- TG.RULE_CFG of rule i. -/
def ruleCfg (s : State) (i : Nat) : Nat := getReg s .tg i 0x054
/-- THR of rule i. -/
def ruleThr (s : State) (i : Nat) : Nat := bits (getReg s .tg i 0x058) 11 0
/-- HYST of rule i. -/
def ruleHyst (s : State) (i : Nat) : Nat := bits (getReg s .tg i 0x058) 27 16
/-- ACTION of rule i. -/
def ruleAction (s : State) (i : Nat) : Nat := bits (ruleCfg s i) 21 19
/-- The running state of rule i. -/
def ruleSt (s : State) (i : Nat) : RuleSt := mgetD s.tg.rules i {}
/-- The running state of rule i set. -/
def setRule (i : Nat) (r : RuleSt) (s : State) : State := { s with tg := { s.tg with rules := mput ({} : RuleSt) s.tg.rules i r } }

/-- Whether an enabled CHECKPOINT rule is tripped. -/
def ckptTripped (s : State) : Bool :=
  (List.range 32).any fun i => bit (ruleCfg s i) 31 && ruleAction s i = 3 && (ruleSt s i).tripped

/-- Whether rule i is evaluated on input n now. While the rails come up every enabled rule is (DESIGN CHOICE, log entry 38). -/
def ruleReads (s : State) (n i : Nat) : Bool :=
  let c := ruleCfg s i
  bit c 31 && bits c 29 24 = n && (bit c s.sl.h || (s.sl.power ≠ 6 && s.sl.h ≠ 4))

/-- The FAULT pin is asserted (R539). -/
def assertFault (s : State) : State :=
  if s.tg.faultPin then s else emit (.pin "FAULT" 0 true) { s with tg := { s.tg with faultPin := true } }

/-- FAULT written one: the pin is released (R539). -/
def faultRelease (s : State) : State :=
  if s.tg.faultPin then emit (.pin "FAULT" 0 false) { s with tg := { s.tg with faultPin := false } } else s

/-! ### Rails -/

/-- The rails from rail i on that are down come up one by one; after the last the Keel locks (R519 steps 3 to 5). -/
def railUp (i : Nat) (s : State) : State :=
  match (List.range 4).find? fun j => i ≤ j && !bit s.sl.railEn j with
  | some j => emit (.pin "RAIL_EN" j true) { s with sl := { s.sl with power := j + 1, railEn := s.sl.railEn ||| 2 ^ j } }
  | none => { s with sl := { s.sl with power := 5 } }

/-- VID[3:0] carry the die's fused code (R518). -/
def driveVid (s : State) : State := (List.range 4).foldl (fun s i => emit (.pin "VID" i (bit s.fuses.vid.val i)) s) s

/-- Step 3 of R519: the rails wait while an enabled CHECKPOINT rule is tripped. -/
def startRails (s : State) : State := if ckptTripped s then { s with sl := { s.sl with power := 8 } } else railUp 0 (driveVid s)

/-- The rails not in `keep` go down in reverse order. -/
def railsDown (keep : Nat) (s : State) : State :=
  let s := ([3, 2, 1, 0].filter fun j => bit s.sl.railEn j && !bit keep j).foldl (fun s j => emit (.pin "RAIL_EN" j false) s) s
  { s with sl := { s.sl with railEn := s.sl.railEn &&& keep } }

/-- VIN_AON_APPLIED: Tidegauge starts afresh (R519, R542, R546). -/
def vinOn (s : State) : State :=
  if s.sl.power ≠ 0 then s
  else
    let s := bare s
    startRails { s with tg := {}, sl := { s.sl with power := 8, railEn := 0 } }

/-- RAIL_PG[i] rises. -/
def railGood (i : Nat) (s : State) : State := if s.sl.power = i + 1 then railUp (i + 1) s else s

/-- A RAIL_PG bit stays low: everything goes down and is held (R519). -/
def railLate (i : Nat) (s : State) : State :=
  if s.sl.power ≠ i + 1 || 4 ≤ i then s
  else
    let s := assertFault (railsDown 0 s)
    { s with tg := { s.tg with cause := 10 }, sl := { s.sl with power := 7 } }

/-- The Keel locks: the die reset is released (R519 step 6). Berths that the fall of the rails cut off show their departure (R449). -/
def keelUp (s : State) : State :=
  if s.sl.power ≠ 5 then s
  else
    let s : State := { s with sl := { s.sl with power := 6, h := 0, thermalH4 := false } }
    (s.qy.berths.filter fun p => p.2.depart ≠ 0).foldl (fun s p => raise (.qyBerth p.1) 1 (annexTouch s)) s

/-- The Keel loses lock (R516): a reset already on its way takes cause CLOCK, and waits for the lock as any such reset. -/
def keelLost (s : State) : State :=
  if s.sl.power ≠ 6 then s
  else
    let s := assertFault s
    if s.sl.ramp = some 1 then { s with sl := { s.sl with rampCause := 5 } } else rampTo 1 5 s

/-- STAGGER_ENABLE: the next waiting supply is enabled (R520, R531). -/
def staggerGo (s : State) : State :=
  let early := match s.qy.staggerLast with | some t => dieNs s < t + stagger s | none => false
  if s.sl.power ≠ 6 || early then s
  else
    let s' : State := { s with qy := { s.qy with staggerLast := some (dieNs s) } }
    match (List.range 4).find? fun i => !bit s.sl.mpwr i with
    | some i => emit (.pin "MPWR_EN" i true) { s' with sl := { s'.sl with mpwr := s.sl.mpwr ||| 2 ^ i } }
    | none => match (List.range 4).find? fun i => !bit s.sl.lpwr i with
      | some i => emit (.pin "LPWR_EN" i true) { s' with sl := { s'.sl with lpwr := s.sl.lpwr ||| 2 ^ i } }
      | none => match (List.range 8).find? fun b => berthEn s b && !(getBerth s b).powered with
        | some b => emit (.pin "BPWR_EN" b true) (updBerth b (fun be => { be with powered := true, counted := bInit s }) s')
        | none => s

/-! ### Power states -/

/-- Whether the PF is in D3hot. -/
def pfD3hot (s : State) : Bool := s.gw.d3.contains 0

/-- Whether the hub is in D3cold with PME_En set (R448): PERST# came in D3hot, and the main rails are down. -/
def armedD3cold (s : State) : Bool := s.gw.perst && s.gw.cold && (fnCfg s 0).pmeEn && s.sl.h = 4 && s.sl.railEn = 0

/-- SL.PM_STAT counts an entry to H1 or deeper. -/
def countEntry (s : State) : State :=
  let n := getReg s .sl 0 0x044 / 2 ^ 16
  setReg .sl 0 0x044 ((n + 1) % 2 ^ 16 * 2 ^ 16) s

/-- H2 or H3 is entered: engine registers are lost, and the Translation Unit holds no translation (R447, R521). Power is at SL.P_FLOOR (R530). -/
def enterDeep (h : Nat) (s : State) : State :=
  countEntry { s with
    ch := { s.ch with engines := [] }, tu := { s.tu with region := [], central := [], ahead := [], plans := [] },
    sl := { s.sl with h := h, ramp := none, hubW := getReg s .sl 0 0x070, ballast := 0 } }

/-- What a core's retention registers keep through H4 (R507). -/
def Core.retained (c : Core) : Core := { stack := c.stack, inService := c.inService, run := c.run }

/-- H4: only Tidegauge, the retained configuration and the event controller's retention storage, with the cores' stacks and running priorities,
stay (R507, R517, R521). Link 0 stays in L1 when the PF came from D3hot, and VDD_PHY and VDD_IO stay up but in D3cold. -/
def enterH4 (s : State) : State :=
  let hot := pfD3hot s && linkUp s 0 && !s.gw.perst
  let gw : Gw := { fns := s.gw.fns, bars := s.gw.bars, vfEnable := s.gw.vfEnable, numVfs := s.gw.numVfs, d3 := s.gw.d3, perst := s.gw.perst,
                   cold := s.gw.cold, wakePin := s.gw.wakePin, links := if hot then s.gw.links.filter (fun p => p.1 = 0) else [] }
  let ec : Ec := { pend := s.ec.pend, unmasked := s.ec.unmasked, cfg := s.ec.cfg }
  let cores := s.hm.cores.map fun p => (p.1, p.2.retained)
  let thermal := s.sl.thermalH4
  let cold := s.gw.perst && s.gw.cold
  let s := bare (pinsDown s)
  railsDown (if cold then 0 else 9) { s with gw := gw, ec := ec, hm := { s.hm with cores := cores },
                                             sl := { s.sl with power := 8, h := 4, thermalH4 := thermal } }

/-- The code a region sensor throttles at, and the one it trips at (R533, R535). -/
def throttleCode (s : State) : Nat := if s.fuses.vehicle then 2704 else 2544
/-- The code of the built-in thermal trip. -/
def tripCode (s : State) : Nat := if s.fuses.vehicle then 2944 else 2784

/-- Whether every region sensor reads below the throttle temperature (R534). -/
def coolEnough (s : State) : Bool := s.tg.chans.all fun p => p.1 < 3 || p.2.out < throttleCode s

/-- Exit from H4, a whole-die reset (R524). What the retention storage keeps survives it: configuration space, the event controller's bits and
source table, the cores' stacks and running priorities (R507; DEDUCED beside R15, log entry 31). After a thermal trip it waits for every
sensor to cool; then the rails come up as on any power-up, so a tripped CHECKPOINT rule holds them (R519, R546). -/
def leaveH4 (target : Nat) (s : State) : State :=
  if s.sl.thermalH4 && !coolEnough s then { s with tg := { s.tg with wake := some target } }
  else startRails { s with tg := { s.tg with cause := if s.sl.thermalH4 then 6 else 9, wake := none }, sl := { s.sl with h := 0 } }

/-- A wake to H0 to H3 (R525, R538). It waits while a checkpoint runs. -/
def wakeTo (target : Nat) (s : State) : State :=
  if 4 ≤ target then s
  else if s.sl.power = 8 && s.sl.h = 4 then leaveH4 target s
  else if s.sl.power ≠ 6 then s
  else if s.tg.ckpt then { s with tg := { s.tg with wake := some (match s.tg.wake with | some t => Nat.min t target | none => target) } }
  else if s.sl.h ≤ 1 && s.sl.ramp.isSome then wakeUp s
  else if s.sl.h ≤ target then s
  else let s := wakeUp s; { s with sl := { s.sl with h := target } }

/-- A WAKE action: the wake, and WAKE# in D3cold (R450, R539). -/
def wakeAction (target : Nat) (s : State) : State :=
  let s := if armedD3cold s && !s.gw.wakePin then emit (.pin "WAKE_N" 0 false) { s with gw := { s.gw with wakePin := true } } else s
  wakeTo target s

/-- Whether any request of the hub, or one to it, is outstanding (R522). -/
def requestsOut (s : State) : Bool :=
  !(s.gw.reads.isEmpty && s.gw.flushes.isEmpty && s.gw.observes.isEmpty && s.mem.queue.isEmpty && s.mem.gathers.isEmpty && s.mem.biOpen.isEmpty
    && s.tu.ats.isEmpty && s.tu.walks.isEmpty && s.tu.prgs.isEmpty && s.tu.invs.isEmpty && s.hl.outs.isEmpty && s.hl.ins.isEmpty
    && s.sp.retag.isNone && s.sp.teardowns.isEmpty && s.hm.flashOp.isNone && !s.hm.svnBusy
    && s.qe.sqs.all (fun p => p.2.issued.isEmpty) && s.qy.berths.all fun p => p.2.opens.isEmpty && p.2.snoops.isEmpty && p.2.invs.isEmpty)

/-- Whether an SQ has an entry that is not dispatched yet. -/
def Sq.waits (q : Sq) : Bool := q.next < q.tailCount

/-- R522 apart from the berths and links of H2 and H3. -/
def hubIdle (s : State) : Bool :=
  s.qe.sqs.all (fun p => !p.2.waits) && s.qe.cmds.isEmpty && s.st.chans.isEmpty && !requestsOut s

/-- Every berth is OFF or REFUSED and every Hawser link OFF or LOST. -/
def portsQuiet (s : State) : Bool :=
  s.qy.berths.all (fun p => p.2.st = 0 || p.2.st = 5) && s.hl.links.all fun p => p.2.st = 0 || p.2.st = 6

/-- The deepest state GW.LAT_TOL and MAX_STATE admit (R444). -/
def deepest (s : State) : Nat :=
  let tol := getReg s .gw 0 0x048 % 2 ^ 20
  let h := if 3125 ≤ tol then 3 else if 75 ≤ tol then 2 else if 2 ≤ tol then 1 else 0
  Nat.min (if portsQuiet s then h else Nat.min h 1) (Nat.min 4 (getReg s .sl 0 0x040 % 8))

/-- The entry to state h begins: H1 at once, a deeper one with its ramp (R530). -/
def lowerTo (h : Nat) (s : State) : State :=
  if h ≤ s.sl.h then s
  else if h = 1 then countEntry { s with sl := { s.sl with h := 1 } }
  else rampTo h s.sl.rampCause s

/-- In D3hot the hub enters H3, or H4 when D3HOT_H4 is set, once no work remains (R448, R449). -/
def d3Lower (s : State) : State :=
  let busy := !portsQuiet s || !s.st.chans.isEmpty || !s.qe.cmds.isEmpty || requestsOut s || (s.qe.sqs.any fun p => p.2.berth.isSome && p.2.waits)
  if busy then s else lowerTo (if bit (getReg s .gw 0 0x04C) 0 then 4 else 3) s

/-- Power may be lowered at all. -/
def mayLower (s : State) : Bool := s.sl.power = 6 && 1 ≤ s.hm.stage && s.sl.ramp.isNone && !s.tg.ckpt && s.sl.h ≤ 3

/-- GW.LAT_TOL or SL.PM_CFG came to admit less than the state the hub idles in: it returns to H0 (R444, R522). -/
def tolGo (s : State) : State := if s.gw.d3.isEmpty && s.sl.h ≤ 3 && deepest s < s.sl.h then wakeUp s else s

/-- IDLE_ENTRY (R444, R449). -/
def idleGo (s : State) : State :=
  if !mayLower s then s
  else if pfD3hot s then d3Lower s
  else if s.gw.d3.isEmpty && hubIdle s then lowerTo (deepest s) s
  else s

/-- D3HOT_ENTRY of link 0's PF. -/
def d3hotGo (s : State) : State :=
  if !linkUp s 0 || !fnPresented s 0 then s
  else
    let s := dstateGo 0 0 true s
    if mayLower s then d3Lower s else s

/-- D0_ENTRY of link 0's PF: the wake starts and fetch resumes. -/
def d0Go (s : State) : State :=
  if !linkUp s 0 || !pfD3hot s then s
  else if s.sl.h = 4 then wakeTo 0 { s with gw := { s.gw with d3 := s.gw.d3.filter (· ≠ 0) } }
  else dstateGo 0 0 false (wakeUp s)

/-- A configuration write in H4, answered from retained configuration space (R448): it is kept there, and a write of D0 to the PF starts the
wake. -/
def retainedWrite (link : Nat) (w : CfgWrite) (s : State) : State :=
  match w with
  | .fn f c => if f = 0 || (s.gw.vfEnable && f ≤ s.gw.numVfs && f < 64) then { s with gw := { s.gw with fns := mset s.gw.fns (64 * link + f) c } } else s
  | .bar b v => barWrite link b v s
  | .sriov enable n => if link = 0 && n ≤ 63 then { s with gw := { s.gw with vfEnable := enable, numVfs := n } } else s
  | .dstate f d3 =>
    if link = 0 && f = 0 && !d3 then d0Go s
    else
      let others := s.gw.d3.filter (· ≠ 64 * link + f)
      { s with gw := { s.gw with d3 := if d3 then (64 * link + f) :: others else others } }

/-- A configuration write (R431, R432, R438, R448); before the functions are presented it is answered with a retry (R490). -/
def configGo (link : Nat) (w : CfgWrite) (s : State) : State :=
  if !linkUp s link then s
  else if s.sl.h = 4 then retainedWrite link w s
  else if s.hm.stage = 0 then emit (.configRetry link) s
  else match w with
  | .fn f c => cfgFn link f c s
  | .bar b v => barWrite link b v s
  | .sriov enable n => if link = 0 && n ≤ 63 then { s with gw := { s.gw with vfEnable := enable, numVfs := n } } else s
  | .dstate f d3 =>
    if link = 0 && f = 0 then (if d3 then d3hotGo s else d0Go s) else dstateGo link f d3 s

/-! ### Brownout checkpoint -/

/-- A CHECKPOINT trip: steps 1 to 3 of R540. -/
def ckptStart (s : State) : State :=
  if s.sl.power ≠ 6 || s.tg.ckpt then s
  else
    let cut (c : Cmd) : Cmd := if 64 ≤ c.sq && c.phase = .running then c.abort else c
    let s := if s.sl.ramp = some 1 || s.sl.thermalH4 then s else rampTo 5 s.sl.rampCause s
    raise .tg 1 { s with
      tg := { s.tg with ckpt := true },
      qe := { s.qe with cmds := s.qe.cmds.map fun p => (p.1, cut p.2) } }

/-- The H3 of a checkpoint ends, when its rules are re-armed: nothing is lost, unless the checkpoint came in an ordinary H3 (R523, R541). -/
def ckptExit (s : State) : State :=
  if !s.sl.ckptH3 || ckptTripped s then s
  else
    let s := reloadCores (if s.sl.sramGone then loseSram s else s)
    { s with tg := { s.tg with ckpt := false, wake := none }, sl := { s.sl with h := 0, ckptH3 := false, sramGone := false } }

/-- CHECKPOINT_DONE: steps 4 to 8 of R540 are past. -/
def ckptEnd (s : State) : State :=
  if !s.tg.ckpt || s.sl.ckptH3 || s.sl.ramp.isSome || s.sl.power ≠ 6 then s
  else if (s.qe.cmds.any fun p => 64 ≤ p.2.sq && (p.2.phase = .running || (p.2.phase = .finished && !p.2.held))) || requestsOut s then s
  else
    let gone := decide (s.sl.h = 3)
    let s := enterDeep 3 s
    ckptExit { s with tg := { s.tg with ckptDone := true }, sl := { s.sl with ckptH3 := true, sramGone := gone } }

/-! ### Evaluation -/

/-- A rule is re-armed, by a value or by a write of it (R537, R538, R546); what waited on it goes on (R519, R541). -/
def rearm (i : Nat) (s : State) : State :=
  let s := setRule i {} { s with tg := { s.tg with throttles := mdel s.tg.throttles i } }
  if s.sl.power = 8 && s.sl.h = 0 then startRails s else ckptExit s

/-- A record in Tidegauge's log (R543). -/
def tgLog (i action value : Nat) (s : State) : State :=
  { s with tg := { s.tg with log := mset s.tg.log s.tg.next ⟨s.tg.us, i, action, value⟩, next := (s.tg.next + 1) % 64 } }

/-- Rule i trips on a value: it acts once (R537, R538). -/
def ruleTrip (i value : Nat) (s : State) : State :=
  let a := ruleAction s i
  let s := tgLog i a value { s with tg := { s.tg with last := i } }
  let s := if a = 0 then s else raise .tg 0 s
  match a with
  | 1 => wakeAction (bits (ruleCfg s i) 18 16) s
  | 2 => { s with tg := { s.tg with throttles := mset s.tg.throttles i (getReg s .tg i 0x05C % 1024) } }
  | 3 => ckptStart s
  | 4 => assertFault s
  | _ => s

/-- Evaluate rule i on a new value of its analog input (R537). -/
def ruleEval (v i : Nat) (s : State) : State :=
  let c := ruleCfg s i
  let r := ruleSt s i
  let thr : Int := ruleThr s i
  let hyst : Int := ruleHyst s i
  let beyond : Bool := if bits c 23 22 = 0 then thr < v else (v : Int) < thr
  let back : Bool := if bits c 23 22 = 0 then (v : Int) < thr - hyst else thr + hyst < v
  if 2 ≤ bits c 23 22 then s
  else if r.tripped then (if back then rearm i s else s)
  else if !beyond then setRule i {} s
  else if zero1 (bits c 15 8) ≤ r.run + 1 then ruleTrip i v (setRule i { tripped := true, run := 0 } s)
  else setRule i { r with run := r.run + 1 } s

/-- The median of the samples there are, at most five; of an even number the lower of the middle two. -/
def median (l : List Nat) : Nat := (l.insertionSort (· ≤ ·)).getD ((l.length - 1) / 2) 0

/-- A channel takes a sample through its filter (R536). -/
def Chn.take (c : Chn) (cfg x : Nat) : Chn :=
  let last := (x :: c.last).take 5
  let m : Int := if bit cfg 4 then (median last : Int) else x
  let y : Int := match c.y with | some y => y + (m - y) / 2 ^ bits cfg 2 0 | none => m
  if bit cfg 3 then { raw := x, last := last, y := some y, out := y.toNat % 4096 }
  else { raw := x, last := last, y := none, out := m.toNat % 4096 }

/-- The built-in thermal throttle and trip on a region sensor (R534). -/
def thermal (ch v : Nat) (s : State) : State :=
  if ch < 3 then s
  else
    let hot := if throttleCode s ≤ v then ch :: s.tg.hot.filter (· ≠ ch) else if v + 80 ≤ throttleCode s then s.tg.hot.filter (· ≠ ch) else s.tg.hot
    let s : State := { s with tg := { s.tg with hot := hot } }
    let s := if tripCode s ≤ v && s.sl.power = 6 && !s.sl.thermalH4 then
        let s := rampTo 4 s.sl.rampCause (assertFault s)
        { s with sl := { s.sl with thermalH4 := true } }
      else s
    match s.tg.wake with
    | some t => if s.sl.h = 4 && s.sl.power = 8 && coolEnough s then leaveH4 t s else s
    | none => s

/-- ADC_SAMPLE: a sample of a channel. Tidegauge's time is that of channel 0's samples, one each 10 µs (DESIGN CHOICE, log entry 45). -/
def sampleGo (ch v : Nat) (s : State) : State :=
  if s.sl.power = 0 || 4096 ≤ v then s
  else
    let s : State := if ch = 0 then { s with tg := { s.tg with us := s.tg.us + 10 } } else s
    let c := (mgetD s.tg.chans ch {}).take (getReg s .tg ch 0x048) v
    let s := thermal ch c.out { s with tg := { s.tg with chans := mset s.tg.chans ch c } }
    -- the rules that ACTIVE_IN admits are those of the state the value comes in
    ((List.range 32).filter (ruleReads s ch)).foldl (fun s i => ruleEval c.out i s) s

/-- An asserting edge of digital input n (R535, R537): 34 is link 0 leaving L1 or, while PERST# is asserted, its end; 35 is signal detect on a
Hawser link whose EN is set. -/
def edgeGo (n : Nat) (s : State) : State :=
  if s.sl.power = 0 || (n = 35 && !(List.range 48).any (linkEn s)) then s
  else
    let s := if n = 34 && s.gw.perst then perstUp s else s
    ((List.range 32).filter fun i => ruleReads s n i && bits (ruleCfg s i) 23 22 = 2).foldl (fun s i => ruleTrip i 1 s) s

/-! ### Ramps and losses of power -/

/-- The whole-die reset at the end of its ramp. One for a lost Keel waits for the lock (R516, R519). -/
def resetNow (s : State) : State :=
  let c := s.sl.rampCause
  let s := dieReset c s
  { s with sl := { s.sl with power := if c = 5 then 5 else 6 } }

/-- RAMP_DONE: the ramp has reached SL.P_FLOOR (R530). -/
def rampEnd (s : State) : State :=
  match s.sl.ramp with
  | none => s
  | some 1 => resetNow s
  | some 2 => enterDeep 2 s
  | some 3 => enterDeep 3 s
  | some 4 => enterH4 s
  | some _ => { s with sl := { s.sl with ramp := none, hubW := getReg s .sl 0 0x070, ballast := 0 } }

/-- WHOLE_DIE_RESET of a cause (R15, R499, R524, R530, R542): of causes 1 to 5 the ramp begins, and the reset follows it; with the ramp of that
cause on its way the reset is performed. Causes 6 and 9 are those of an exit from H4. The other causes come with a loss of power, which has
commands of its own. -/
def dieResetGo (cause : Nat) (s : State) : State :=
  if s.sl.h = 4 then (if cause = (if s.sl.thermalH4 then 6 else 9) then leaveH4 0 s else s)
  else if s.sl.power ≠ 6 || cause = 0 || 5 < cause then s
  else if s.sl.ramp = some 1 && s.sl.rampCause = cause then resetNow s
  else if cause = 5 then keelLost s
  else startReset cause s

/-- VIN_AON is removed: everything is lost (R539, R545). -/
def vinOff (s : State) : State :=
  let s := bare (railsDown 0 (pinsDown s))
  { s with tg := {}, sl := { s.sl with power := 0, railEn := 0 } }

/-- Berths that a fall of the rails cuts off depart at the next power-up with reason LINK_DOWN (R449). -/
def cutBerths (was now : State) : State :=
  { now with qy := { now.qy with berths := (was.qy.berths.filter fun p => p.2.st ≠ 0 && p.2.st ≠ 5).map fun p => (p.1, { depart := 2 }) } }

/-- MAIN_RAILS_FAIL (R448, R449, R541): in D3cold the hub sleeps in H4 with WAKE# armed, and is Off without; else the next power-up records a
brownout. -/
def railsFail (s : State) : State :=
  if s.sl.power = 0 || s.sl.power = 7 || (s.sl.power = 8 && s.sl.railEn = 0) then s
  else if s.gw.perst && s.gw.cold then
    (if (fnCfg s 0).pmeEn then let t := railsDown 0 (enterH4 s); cutBerths s { t with gw := { t.gw with links := [] } } else vinOff s)
  else if s.sl.h = 4 then
    let s := railsDown 0 s
    { s with gw := { s.gw with links := [] } }
  else
    let cause := if s.tg.ckptDone then 7 else 8
    let t := cutBerths s (railsDown 0 (dieReset cause s))
    startRails { t with sl := { t.sl with power := 8 } }

/-! ### The governor -/

/-- The highest hub power the limits of R527, R529, R534 and R538 admit. -/
def hubCap (s : State) : Nat :=
  let cap := if s.tg.hot.isEmpty then pCap s else pCap s / 2
  let cap := Nat.min cap (pkgCap s - berthsCounted s)
  let cap := if bit (getReg s .sl 0 0x074) 0 then Nat.min cap (getReg s .sl 0 0x070 + ballastMax s + pStep s) else cap
  s.tg.throttles.foldl (fun c p => Nat.min c p.2) cap

/-- SL.THROTTLE_CNT counts the present 100 µs interval once (R528). -/
def countThrottle (s : State) : State :=
  let i := dieNs s / 100000
  if s.sl.throttledAt = some i then s
  else raise .sl 2 (bump .sl 0x078 1 { s with sl := { s.sl with throttledAt := some i } })

/-- POWER_ESTIMATE: the draw that work asks for, and the highest and lowest package power of the last 100 µs (R526 to R531). -/
def estimateGo (want hi lo : Nat) (s : State) : State :=
  if s.sl.power ≠ 6 then s
  else
    let others := berthsCounted s
    let hub := Nat.min want (Nat.min (hubCap s) (lo + pStep s - others))
    let s : State := if hub < want then countThrottle s else s
    let short := hi - pStep s - (hub + others)
    let ballast := Nat.min short (ballastMax s)
    -- one fall counts once, however often it is seen (R529)
    let falls := decide (ballast < short) && !bit (getReg s .sl 0 0x074) 0
    let s : State := if falls && !s.sl.falling then raise .sl 0 (bump .sl 0x07C 1 s) else s
    let s : State := { s with sl := { s.sl with falling := falls } }
    raiseGrants (settleRises { s with sl := { s.sl with hubW := hub, pkgLo := lo, ballast := ballast } })

/-! ### Time -/

/-- TCLK_EDGE: hub global time advances by 10, by 9 or 11 on a slewed edge (R17, R406). A retag takes a page per
4 FCLK and a scrub goes on (R469, R482): an edge is 24 FCLK. -/
def edgeTick (s : State) : State :=
  if s.sl.power ≠ 6 then s
  else
    let s : State := { s with tclk := s.tclk + 1 }
    let slewed := s.tclk % 100 = 0 && s.hl.slewLeft ≠ 0
    let step : Nat := if slewed then (if s.hl.slew < 0 then 9 else 11) else 10
    let s := timeStep step s
    let s := if slewed then setSlew s.hl.slew (s.hl.slewLeft - 1) s else s
    releaseSlots (settleRises (retagRun 6 (scrubTick s)))

/-! ### The commands -/

/-- WHOLE_DIE_RESET. -/
def execWholeDieReset (cause : Nat) (s : State) : Host.Outcome State Fault Refusal := .next (dieResetGo cause s)
/-- D3HOT_ENTRY. -/
def execD3hotEntry (s : State) : Host.Outcome State Fault Refusal := .next (d3hotGo s)
/-- D0_ENTRY. -/
def execD0Entry (s : State) : Host.Outcome State Fault Refusal := .next (d0Go s)
/-- IDLE_ENTRY. -/
def execIdleEntry (s : State) : Host.Outcome State Fault Refusal := .next (idleGo s)
/-- WAKE. -/
def execWake (target : Nat) (s : State) : Host.Outcome State Fault Refusal := .next (wakeAction target s)
/-- CONFIG_SPACE_WRITE. -/
def execConfigSpaceWrite (link : Nat) (w : CfgWrite) (s : State) : Host.Outcome State Fault Refusal := onUnit link 4 (configGo link w s)
/-- VIN_AON_APPLIED. -/
def execVinAonApplied (s : State) : Host.Outcome State Fault Refusal := .next (vinOn s)
/-- RAIL_PG. -/
def execRailPg (i : Nat) (s : State) : Host.Outcome State Fault Refusal := onUnit i 4 (railGood i s)
/-- RAIL_PG_TIMEOUT. -/
def execRailPgTimeout (i : Nat) (s : State) : Host.Outcome State Fault Refusal := onUnit i 4 (railLate i s)
/-- KEEL_LOCK. -/
def execKeelLock (s : State) : Host.Outcome State Fault Refusal := .next (keelUp s)
/-- KEEL_LOCK_LOSS. -/
def execKeelLockLoss (s : State) : Host.Outcome State Fault Refusal := .next (keelLost s)
/-- STAGGER_ENABLE. -/
def execStaggerEnable (s : State) : Host.Outcome State Fault Refusal := .next (staggerGo s)
/-- RAMP_DONE. -/
def execRampDone (s : State) : Host.Outcome State Fault Refusal := .next (rampEnd s)
/-- ADC_SAMPLE. -/
def execAdcSample (ch v : Nat) (s : State) : Host.Outcome State Fault Refusal := onUnit ch 19 (sampleGo ch v s)
/-- TG_DIGITAL_INPUT. -/
def execTgDigitalInput (i : Nat) (s : State) : Host.Outcome State Fault Refusal :=
  if 32 ≤ i then onUnit i 36 (edgeGo i s) else .fault .noSuchUnit
/-- CHECKPOINT_DONE. -/
def execCheckpointDone (s : State) : Host.Outcome State Fault Refusal := .next (ckptEnd s)
/-- POWER_ESTIMATE. -/
def execPowerEstimate (hubW pkgHi pkgLo : Nat) (s : State) : Host.Outcome State Fault Refusal := .next (estimateGo hubW pkgHi pkgLo s)
/-- VIN_AON_REMOVED. -/
def execVinAonRemoved (s : State) : Host.Outcome State Fault Refusal := .next (vinOff s)
/-- MAIN_RAILS_FAIL. -/
def execMainRailsFail (s : State) : Host.Outcome State Fault Refusal := .next (railsFail s)

end Sys2Proof.Machine
end

