-- ==== Sys2Proof/Machine/Tiers.lean ====
section
/-! DEFINITION. The memory system's own steps: journals (R552, R553), patrol (R333), replica entries (R336, R337, R341), group modes
(R324) and regulation (R345 to R347). -/

namespace Sys2Proof.Machine

/-! ### Journals -/

/-- The origin of a journalled request by its source number and the function it works for (R34, R345, R552): a mover's, lane's or region's
request is its command's function's. -/
def sourceOrigin (src f : Nat) : Origin :=
  if 4096 ≤ src then ⟨.peer, src % 4096⟩
  else if 88 ≤ src && src < 96 then ⟨.partner, src - 88⟩
  else if src < 88 then fnOrigin f
  else hostOrigin

/-- What a non-idempotent request does at a line, and the bytes it spans; `next` is the line that follows. -/
def jobAct (op : JOp) (off next : Nat) : HomeAct × Nat :=
  match op with
  | .atomic a size x y => (.atomic a size x y off, size)
  | .packet v p => (.packet v p, 64)
  | .accumulate sf df rm sat es p => (.accumulate sf df rm sat es p next, 0)

/-- The class of a journalled request, by its source (R342): the classifier for the host ports and the peers, the berth's own class for a CXL
partner, and else the label the request carries, which is the command's or the partner's message's. -/
def jobClass (s : State) (src a label : Nat) : Nat :=
  if 4096 ≤ src then arcClass 17 a s
  else if 96 ≤ src then arcClass 16 a s
  else if 88 ≤ src then partnerClass s (src - 88) label
  else bits label 15 13

/-- JOURNALED_REQUEST: a request with an ID arrives at its home. -/
def journalGo (src seq addr tenant : Nat) (q : JReq) (s : State) : State :=
  let line := addr / 64 * 64
  let (act, n) := jobAct q.op (addr % 64) (line + 64)
  let who : Who := if 4096 ≤ src then .remote 0 (src % 4096) 0 else if 96 ≤ src && src < 100 then .host (src - 96) 0
    else if src < 72 then .mover 0 else if src < 88 then .engine 0 else .bresa (src % 8) 0
  if 64 < addr % 64 + n then s
  else if !reachable s addr then captureReserved who tenant addr s
  else issue line tenant false (sourceOrigin src tenant) (jobClass s src addr q.label) act .none (some (src, seq % 2 ^ 24)) s

/-- JOURNAL_ACK: the source has its answer; a request that waits for room may go on (R553). -/
def journalFree (src seq : Nat) (s : State) : State :=
  homeDrain { s with mem := { s.mem with journal := s.mem.journal.filter fun e => !(e.src = src && e.seq = seq) } }

/-! ### Patrol -/

/-- The tenant whose key a copy of a line was written under. -/
def tenantOf (s : State) (a : Nat) : Option Nat :=
  match mget s.mem.blocks (place s a / 256) with
  | some t => (s.sp.slots.find? fun p => p.2.st = 1 && !p.2.bounce && p.2.key = t.key).map (·.2.f)
  | none => none

/-- The firmware origin of patrol, sync and rewrites (R568). -/
def patrolOrigin : Origin := ⟨.hmFw, 6⟩

/-- The patrol reads one copy: its line check alone counts. -/
def patrolCopy (s : State) (a : Nat) : State :=
  let ph := place s a
  foundEffect a patrolOrigin (if mhas s.mem.poison ph then .poisoned 0 else if s.mem.uncorrectable.contains ph then .failed else .good) s

/-- The line that the copies of a replicated line agree on for a rewrite, among the intact ones, by copy order (R339). -/
def agreed (mode : Nat) (vals : List (List Byte)) : Option (List Byte) :=
  match mode, vals with
  | 0, v :: _ | _, [v] => some v
  | _, vs => vs.find? fun v => 2 ≤ (vs.filter (· = v)).length

/-- Whether core 6 may not make its patrol's access to a line: the read, and the write of what it corrects (R486, R493). -/
def patrolBarred (s : State) (a : Nat) : Bool :=
  coreBarred s 6 a 64 false
    || ((s.mem.correctable.contains (place s a) || s.mem.uncorrectable.contains (place s a)) && coreBarred s 6 a 64 true)

/-- PATROL_SCRUB of the line at a DPA, by core 6 while it runs (R333, R486): a copy of a replicated line that fails its line check is rewritten from its intact copies, under
the key of its block, as R340 states; without one it is written back poisoned and counted. -/
def patrolGo (line : Nat) (s : State) : State :=
  let a := line / 64 * 64
  let r := region s a
  if !bit (getReg s .ms 0 0x04C) 31 || r = 4 || r = 5 || (getCore s 6).st ≠ 0 then s
  else if patrolBarred s a then crash 6 2 s
  else match replicaAt s a with
  | none => patrolCopy s a
  | some (n, c) =>
    let a0 := getReg s .ms n 0x074 * 65536 + (a - getReg s .ms n (0x074 + 4 * c) * 65536)
    let cs := copiesOf s a0
    let cfg := getReg s .ms n 0x06C
    match cs.findSome? (tenantOf s) with
    | none => patrolCopy s a
    | some t =>
      let vals := (cs.filter fun x => lookAt s x t = .good).map (lineBytes s)
      if bit cfg 30 || !s.mem.uncorrectable.contains (place s a) then patrolCopy s a
      else match agreed (bits cfg 25 24) vals with
        | some line => repair n a0 t patrolOrigin line [(c, a)] s
        | none => patrolCopy s a

/-! ### Replica entries -/

/-- The copies of entry n: their first DPAs. -/
def repBases (s : State) (n : Nat) : List Nat :=
  (List.range (if bit (getReg s .ms n 0x06C) 16 then 3 else 2)).map fun c => getReg s .ms n (0x074 + 4 * c) * 65536

/-- Bytes of entry n's copies. -/
def repLen (s : State) (n : Nat) : Nat := getReg s .ms n 0x070 * 65536

/-- Whether any two of some ranges of one length overlap, or meet one of `others`. -/
def rangesMeet (others : List (Nat × Nat)) : List (Nat × Nat) → Bool
  | [] => false
  | r :: t => ((others ++ t).any fun q => r.1 < q.1 + q.2 && q.1 < r.1 + r.2) || rangesMeet others t

/-- Whether the copies' homes differ at every page of their length. -/
def homesDiffer (s : State) (bases : List Nat) (len : Nat) : Bool :=
  (List.range (len / 4096)).all fun i => (bases.map fun b => homeOf s (b + 4096 * i)).Nodup

/-- Whether the enable of entry n is rejected (R336). Entries below RESV are the firmware's (DESIGN CHOICE, log entry 43), and a length outside 1 to
2^20 units is no range. -/
def repRejected (o : Origin) (n : Nat) (s : State) : Bool :=
  let bases := repBases s n
  let len := repLen s n
  let cfg := getReg s .ms n 0x06C
  let others := ((List.range 16).filter fun m => m ≠ n && bit (getReg s .ms m 0x06C) 31).flatMap fun m => (repBases s m).map fun b => (b, repLen s m)
  let inTier (b : Nat) : Bool := (region s b = 1 || region s b = 2) && region s (b + len - 1) = region s b
  len = 0 || 2 ^ 36 < len || !bases.all inTier || rangesMeet others (bases.map fun b => (b, len)) || !homesDiffer s bases len
    || (bits cfg 25 24 = 1 && bit cfg 16) || (bits cfg 25 24 = 2 && !bit cfg 16)
    || (!isFw o && n < bits (getReg s .ms 0 0x068) 11 8)

/-- MS.REP_CFG of entry n, which held old, has been written: EN set or cleared (R336, R337, R341). -/
def repSwitch (o : Origin) (n old : Nat) (s : State) : State :=
  let new := getReg s .ms n 0x06C
  let keep := new &&& 0x03010000
  if !bit old 31 && bit new 31 then
    if repRejected o n s then raise .ms 5 (capErr .ms 4 o (setReg .ms n 0x06C (2 ^ 29 + keep) s))
    else setReg .ms n 0x06C (2 ^ 31 + 2 ^ 30 + keep) s
  else if bit old 31 && !bit new 31 then setReg .ms n 0x06C keep s
  else s

/-- Copy 0's stored state over one other copy: data, tags bound to the new place, poison. -/
def syncCopy (b0 bc len : Nat) (s : State) : State :=
  let src (ph : Nat) : Bool := let a := dpaAt s ph; b0 ≤ a && a < b0 + len
  let dst (ph : Nat) : Bool := let a := dpaAt s ph; bc ≤ a && a < bc + len
  let moved (ph : Nat) : Nat := place s (dpaAt s ph - b0 + bc)
  let bytes := (s.mem.bytes.filter fun c => src c.1).foldl (fun m c => Memory.write m (moved c.1) c.2) (s.mem.bytes.filter fun c => !dst c.1)
  let bad := (s.mem.uncorrectable.filter src).map fun ph => (ph, 0)
  let poison := ((s.mem.poison.filter fun p => src p.1) ++ bad).foldl (fun m p => mset m (moved p.1) p.2) (s.mem.poison.filter fun p => !dst p.1)
  let blocks := (s.mem.blocks.filter fun p => src (256 * p.1)).foldl (fun m p =>
    mset m (moved (256 * p.1) / 256) { p.2 with dpa := if p.2.dpa = dpaAt s (256 * p.1) then p.2.dpa - b0 + bc else p.2.dpa })
    (s.mem.blocks.filter fun p => !dst (256 * p.1))
  { s with mem := { s.mem with bytes := bytes, poison := poison, blocks := blocks,
                               uncorrectable := s.mem.uncorrectable.filter (fun ph => !dst ph), correctable := s.mem.correctable.filter fun ph => !dst ph } }

/-- Whether core 6 may not make the sweep of entry n: the read of copy 0, the writes of the others (R486, R493). -/
def syncBarred (s : State) (n : Nat) : Bool :=
  let bases := repBases s n
  coreBarred s 6 (bases.headD 0) (repLen s n) false || (bases.drop 1).any fun b => coreBarred s 6 b (repLen s n) true

/-- REPLICA_SYNC_DONE of entry n, by core 6 while it runs (R337, R486). The sweep read every line of copy 0: what a line check met is corrected or poisoned, and counted
(R330, R331). -/
def syncDone (n : Nat) (s : State) : State :=
  let cfg := getReg s .ms n 0x06C
  if !bit cfg 31 || !bit cfg 30 || (getCore s 6).st ≠ 0 then s
  else if syncBarred s n then crash 6 2 s
  else
    let bases := repBases s n
    let b0 := bases.headD 0
    let met := (s.mem.correctable ++ s.mem.uncorrectable).filter fun ph => let a := dpaAt s ph; b0 ≤ a && a < b0 + repLen s n
    let s := met.foldl (fun s ph => patrolCopy s (dpaAt s ph)) s
    let s := (bases.drop 1).foldl (fun s b => syncCopy b0 b (repLen s n) s) s
    setReg .ms n 0x06C (cfg - 2 ^ 30) s

/-! ### Group modes -/

/-- The modes asked for, HBM and LPDDR. -/
def modesAsked (s : State) : Nat × Nat := (getReg s .ms 0 0x040 + 2 ^ 32 * getReg s .ms 0 0x044, getReg s .ms 0 0x048)

/-- MS.STAT.MODE_BUSY. -/
def modeBusy (s : State) : Bool := modesAsked s ≠ (s.mem.modesHbm, s.mem.modesLpddr)

/-- The groups of both tiers. -/
def groups : List (Bool × Nat) := ((List.range 62).map fun g => (false, g)) ++ (List.range 31).map fun g => (true, g)

/-- Whether the mode a group has is not the one asked for. -/
def modeDue (s : State) (g : Bool × Nat) : Bool :=
  if g.1 then bit (modesAsked s).2 g.2 ≠ bit s.mem.modesLpddr g.2 else bit (modesAsked s).1 g.2 ≠ bit s.mem.modesHbm g.2

/-- MS.LOCAL_HBM or MS.LOCAL_LPDDR has been written: requests that arrive from now on at a group whose mode is to change wait, those of a
group whose mode stays go on (R324). -/
def modeNote (s : State) : State :=
  let from_ := groups.foldl (fun m g =>
    if !modeDue s g then mdel m (groupKey g) else if mhas m (groupKey g) then m else mset m (groupKey g) s.mem.nextOp) s.mem.modeFrom
  homeDrain { s with mem := { s.mem with modeFrom := from_ } }

/-- GROUP_MODE_APPLY: no earlier request to the group is outstanding (R324). -/
def modeApply (lpddr : Bool) (g : Nat) (s : State) : State :=
  match mget s.mem.modeFrom (groupKey (lpddr, g)) with
  | none => s
  | some n =>
    if s.mem.queue.any fun o => tier o.line ≠ 0 && groupOf o.line = (lpddr, g) && decide (o.id < n) then s
    else
      let flip (m : Nat) (l : Bool) : Nat := if l = lpddr && modeDue s (lpddr, g) then Nat.xor m (2 ^ g) else m
      homeDrain { s with mem := { s.mem with
        modesHbm := flip s.mem.modesHbm false, modesLpddr := flip s.mem.modesLpddr true,
        modeFrom := mdel s.mem.modeFrom (groupKey (lpddr, g)) } }

/-! ### Regulation -/

/-- LMAX of a class and tier, by 8 × tier + class. -/
def regMax (s : State) (i : Nat) : Nat := zero1 (bits (getReg s .ms i 0x09C) 31 24)

/-- One limit's update from the fullest queue's occupancy q (R346, R347). -/
def limitStep (s : State) (i q : Nat) : Nat :=
  let p := getReg s .ms i 0x09C
  let m := getReg s .ms i 0x0A0
  let lmax := regMax s i
  let lmin := Nat.min lmax (zero1 (bits p 23 16))
  let high := bits m 24 16
  let low := Nat.min high (bits m 8 0)
  let l := limitOf s i
  let l := if high < q then Nat.max lmin (l * zero1 (bits p 3 0) / 16) else if q < low then Nat.min lmax (l + zero1 (bits p 11 8)) else l
  Nat.min l lmax

/-- REGULATION_UPDATE: the occupancies by 8 × tier + class. -/
def regulate (occ : List Nat) (s : State) : State :=
  { s with mem := { s.mem with limits := (List.range 16).map fun i => (i, limitStep s i (occ.getD i 0)) } }

/-! ### The commands -/

/-- JOURNALED_REQUEST. -/
def execJournaledRequest (src seq addr tenant : Nat) (req : JReq) (s : State) : Host.Outcome State Fault Refusal :=
  .next (journalGo src seq addr tenant req s)
/-- JOURNAL_ACK. -/
def execJournalAck (src seq : Nat) (s : State) : Host.Outcome State Fault Refusal := .next (journalFree src seq s)
/-- PATROL_SCRUB. -/
def execPatrolScrub (line : Nat) (s : State) : Host.Outcome State Fault Refusal := .next (patrolGo line s)
/-- REPLICA_SYNC_DONE. -/
def execReplicaSyncDone (i : Nat) (s : State) : Host.Outcome State Fault Refusal := onUnit i 16 (syncDone i s)
/-- GROUP_MODE_APPLY. -/
def execGroupModeApply (lpddr : Bool) (g : Nat) (s : State) : Host.Outcome State Fault Refusal :=
  onUnit g (if lpddr then 31 else 62) (modeApply lpddr g s)
/-- REGULATION_UPDATE. -/
def execRegulationUpdate (occ : List Nat) (s : State) : Host.Outcome State Fault Refusal := .next (regulate occ s)

end Sys2Proof.Machine
end

