-- ==== Sys2Proof/Machine/Views.lean ====
section
/-! DEFINITION. What each register reads as: the value kept in the register file, or the view of other state that the register
gives (R24 to R27, R30, R40, R44, R49, R99, R153, R191, R235, R237, R283, R284, R349, R387, R388, R423, R424, R427, R454, R484, R509, R512, R513, R544, R545), and the bank a select register shows. -/

namespace Sys2Proof.Machine

/-! ### The Manifest and its annex -/

/-- Instance 0 of every page kind that the Manifest lists, in block order. -/
def manifestKinds : List Page := [.mf, .annex] ++ placedKinds

/-- The pages VF f's Manifest lists (R439). -/
def vfPages (s : State) (f : Nat) : List Page :=
  [.mf, .qeFn f, .tuFn f, .hmFn f, .sl, .msix f 0, .pba f] ++ (s.qe.blocks.filter fun p => p.2.f = f).map fun p => .qeFb p.1

/-- Whether a page kind is VF-visible. -/
def vfKind : Page → Bool
  | .mf | .qeFn _ | .qeFb _ | .tuFn _ | .hmFn _ | .sl | .msix .. | .pba _ => true
  | _ => false

/-- The parts of the annex, each on a page of its own: 0 the IDs and the attach epoch, 1 the berth slots, 2 the peer slots. The annex's own Manifest
entries name their pages (R27; the places are free, log entry 6). -/
def annexPageOf (part : Nat) : Nat := 1 + 5 * part + Config.annexPage part % 5

/-- The TYPE code of a page. A VF's MSI-X pages are the Gangway's (DESIGN CHOICE, log entry 50). -/
def pageType (p : Page) : Nat :=
  (match p with | .msix .. | .pba _ => 2 | p => (pageTriple p).1) * 64 + Config.pageKind (kindCode p) % 64

/-- Word w of a Manifest entry (R25). -/
def entryWord (p : Page) (count base w : Nat) : Nat :=
  match w with
  | 0 => pageType p + count * 2 ^ 16
  | 1 => base % 2 ^ 16 + stridePages p % 2 ^ 16 * 2 ^ 16
  | 2 => Config.pageVersion (kindCode p) % 256 + (Config.pageFlags (kindCode p) % 8 * 2 + b2n (vfKind p)) * 2 ^ 16
  | _ => 0

/-- Word w of the Manifest's entry for a part of the annex: a kind of the Manifest block, its page, one instance, the format's version. -/
def annexEntry (part w : Nat) : Nat :=
  match w with
  | 0 => 64 + Config.pageKind (6 + part) % 64 + 2 ^ 16
  | 1 => 16 + annexPageOf part + 2 ^ 16
  | 2 => Config.pageVersion (6 + part) % 256
  | _ => 0

/-- A word of a Manifest: the header of R24 and the entries, at the PF's end those of the annex's parts; vf is the VF whose view it is in, 0 the
PF's own. -/
def manifestWord (s : State) (vf off : Nat) : Nat :=
  let ps := if vf = 0 then manifestKinds else vfPages s vf
  match off with
  | 0x00 => 0x4D4F4C4B
  | 0x04 => hubVersion
  | 0x08 => ps.length + (if vf = 0 then 3 else 0)
  | 0x0C => hubGrade s
  | 0x10 => if vf = 0 then 16 else 0
  | _ =>
    if off < 0x40 then 0
    else match ps[(off - 0x40) / 16]? with
    | some p => if vf = 0 then entryWord p (pageCount p) (basePage p) (off / 4 % 4) else entryWord p 1 (vfPageNumber p) (off / 4 % 4)
    | none => let i := (off - 0x40) / 16 - ps.length; if vf = 0 && i < 3 then annexEntry i (off / 4 % 4) else 0

/-- Word w of the annex slot of berth b (R367). -/
def berthSlot (s : State) (b w : Nat) : Nat :=
  let be := getBerth s b
  if w < 16 then fld be.card (4 * w) 4
  else match w with
  | 16 => be.st + 2 ^ 8 * b2n be.cxl + 2 ^ 16 * (be.minor % 256) + 2 ^ 24 * (be.major % 256)
  | 17 => be.caps % 2 ^ 32
  | 18 => getReg s (.qyBerth b) 0 0x054
  | 19 => be.depart + 2 ^ 8 * (if be.paired then b / 2 * 2 else 0xFF)
  | _ => 0

/-- Word w of the annex slot of link l's peer (R394). -/
def peerSlot (s : State) (l w : Nat) : Nat :=
  let k := getLink s l
  let id (o : Option Nat) : Nat := match o with | some i => 2 ^ 15 + i % 4096 | none => 0
  match w with
  | 0 => k.st + 2 ^ 8 * b2n (isEther s l) + 2 ^ 16 * id k.peer
  | 1 => k.peerVersion % 2 ^ 32
  | 2 => k.peerGrade % 256 + 2 ^ 8 * (match k.peerHops with | some h => h % 256 | none => 0xFF) + 2 ^ 16 * id k.peerManager
  | 3 => k.epoch % 2 ^ 32
  | _ => 0

/-- The annex's content at an offset past its generation (R27): on the page of each part its words in order, the attach epoch, this hub's ID and
the manager's, or slot after slot. An absent ID reads as all ones. -/
def annexContent (s : State) (off : Nat) : Nat :=
  let id (o : Option Nat) : Nat := o.getD w32
  let w := off % 4096 / 4
  if off / 4096 = annexPageOf 0 then
    (match w with
    | 0 => getReg s .gw 0 0x050
    | 1 => id (if s.hl.idValid then some s.hl.hubId else none)
    | 2 => id s.hl.manager
    | _ => 0)
  else if off / 4096 = annexPageOf 1 then (if w < 256 then berthSlot s (w / 32) (w % 32) else 0)
  else if off / 4096 = annexPageOf 2 then (if w < 384 then peerSlot s (w / 8) (w % 8) else 0)
  else 0

/-! ### The GW CXL page -/

/-- The first offset of the HDM Decoder Capability in the GW CXL page. The registers' order and bits are CXL's (PRESUMED, log entry 48); the
place in the page is free. -/
def hdmFirst : Nat := 0x40 + 16 * (Config.hdmPlace % 0xEB)

/-- The offset of decoder d's control register. -/
def hdmCtlOff (d : Nat) : Nat := hdmFirst + 0x20 + 32 * d

/-- CXL's code of a number of interleave ways. -/
def waysCode (n : Nat) : Nat :=
  match n with
  | 1 => 0 | 2 => 1 | 4 => 2 | 8 => 3 | 16 => 4 | 3 => 8 | 6 => 9 | 12 => 10 | _ => 15

/-- Decoder d's control register: Interleave Ways, Commit, Committed, Error Not Committed (R443). -/
def hdmCtl (s : State) (d : Nat) : Nat :=
  match mget s.gw.hdmRegs d with
  | none => 0
  | some g => waysCode g.ways * 2 ^ 4 + 2 ^ 9 + b2n (mhas s.gw.hdm d) * 2 ^ 10 + b2n (s.gw.hdmErr.contains d) * 2 ^ 11

/-- The CXL DPA skipped before decoder d: what lies between the decoders below and it. -/
def hdmSkip (s : State) (d : Nat) : Nat :=
  match mget s.gw.hdmRegs d with
  | none => 0
  | some g => g.dpa - ((s.gw.hdmRegs.filter fun p => p.1 < d).map fun p => p.2.dpa + p.2.size).foldl Nat.max 0

/-- A word of decoder d's registers: base, size, control, skip. -/
def hdmWord (s : State) (d w : Nat) : Nat :=
  let g := mgetD s.gw.hdmRegs d ⟨0, 0, 0, 1⟩
  match w with
  | 0 => g.base % 2 ^ 32 / 2 ^ 28 * 2 ^ 28
  | 1 => g.base / 2 ^ 32 % 2 ^ 32
  | 2 => g.size % 2 ^ 32 / 2 ^ 28 * 2 ^ 28
  | 3 => g.size / 2 ^ 32 % 2 ^ 32
  | 4 => hdmCtl s d
  | 5 => hdmSkip s d % 2 ^ 32 / 2 ^ 28 * 2 ^ 28
  | 6 => hdmSkip s d / 2 ^ 32 % 2 ^ 32
  | _ => 0

/-- The GW CXL page beyond its header: the eight decoders; the other component registers are free (log entry 48). -/
def cxlView (s : State) (off : Nat) : Nat :=
  if hdmFirst + 0x10 ≤ off && off < hdmFirst + 0x110 then hdmWord s ((off - hdmFirst - 0x10) / 32) ((off - hdmFirst - 0x10) % 32 / 4)
  else (Config.freeWord s.fresh).toNat

/-- A word of the MSI-X pending-bit array of function f: the vectors whose messages wait (R439, R449, R451). -/
def pbaWord (s : State) (f n : Nat) : Nat :=
  let waits (v : Nat) : Bool := s.gw.heldMsi.contains (f, v) || s.qe.cqs.any fun p => p.2.f = f && p.2.vector = v && p.2.irqWaits
  ((List.range 32).map fun i => if waits (32 * n + i) then 2 ^ i else 0).sum

/-! ### Banks -/

/-- The bank a select register shows at an offset of its page. -/
def bankOf (s : State) (p : Page) (off : Nat) : Nat :=
  match p with
  | .qe => if off = 0x054 || off = 0x058 then getReg s .qe 0 0x050 % 64 else 0
  | .ms =>
    if 0x06C ≤ off && off ≤ 0x07C then getReg s .ms 0 0x068 % 16
    else if off = 0x09C || off = 0x0A0 then let v := getReg s .ms 0 0x098; 8 * bits v 4 4 + bits v 2 0
    else 0
  | .hl => if off = 0x058 then getReg s .hl 0 0x054 % 4096 else 0
  | .tg =>
    if off = 0x048 then getReg s .tg 0 0x044 % 32 else if 0x054 ≤ off && off ≤ 0x05C then getReg s .tg 0 0x050 % 32 else 0
  | _ => 0

/-! ### Views of each page -/

/-- The state bits of STAT (R30, R44, R349). -/
def statWord (s : State) (p : Page) : Nat :=
  let err := if bit (getReg s p 0 0x024) 31 then 2 ^ 31 else 0
  match p with
  | .lb => err + 4 * b2n s.lb.denied + 2 * b2n s.lb.overrun + b2n (logFull s)
  | .ms => err + 8 * b2n (modeBusy s) + 2 * b2n s.mem.lpddrAbsent + b2n s.mem.hbmAbsent
  | _ => err

/-- A word whose bit i says whether f holds of base + i. -/
def bitWord (base : Nat) (f : Nat → Bool) : Nat := ((List.range 32).map fun i => if f (base + i) then 2 ^ i else 0).sum

/-- GW.PORT_STAT (R454). -/
def portStat (s : State) : Nat :=
  ((List.range 4).map fun l => match mget s.gw.links l with
    | some h => if h.up then (128 + 64 * b2n h.cxl + 8 * (h.width % 8) + h.rate % 8) * 2 ^ (8 * l) else 0
    | none => 0).sum

/-- QE.SQ_CTL and QE.SQ_POS of the selected SQ (R99). -/
def sqView (s : State) (off : Nat) : Nat :=
  match mget s.qe.sqs (getReg s .qe 0 0x044 % 8192) with
  | none => 0
  | some q =>
    if off = 0x048 then 4 * b2n q.stalled + 2 * b2n (64 ≤ getReg s .qe 0 0x044 % 8192 && (mget s.qe.ctxs q.owner).any fun x => x.draining && !x.drained) + b2n q.en
    else q.tailCount % 2 ^ q.log2 * 2 ^ 16 + q.next % 2 ^ q.log2

/-- The QE fence-block page (R191). -/
def blockView (s : State) (b off : Nat) : Option Nat :=
  if off = 0x040 then some (match mget s.qe.blocks b with | some x => 2 ^ 31 + x.f * 2 ^ 24 + x.ctx | none => 0)
  else if 0x100 ≤ off && off < 0x200 then
    some (leNat ((List.range 4).map fun i => BitVec.ofNat 8 (getFence s (256 * b + (off - 0x100) + i)).status))
  else if 0x800 ≤ off && off < 0x1000 then
    let v := (getFence s (256 * b + (off - 0x800) / 8)).value.toNat
    some (if off % 8 = 0 then v % 2 ^ 32 else v / 2 ^ 32)
  else none

/-- Whether mover m is busy. -/
def moverBusy (s : State) (m : Nat) : Bool := mhas s.gm.movers m || s.gm.scrubbing.contains m

/-- The command mover m holds. -/
def moverCmd (s : State) (m : Nat) : Option Cmd := (mget s.gm.movers m).bind fun j => getCmd s j.k

/-- CH.C_STAT (R284). -/
def clusterStat (s : State) (i : Nat) : Nat :=
  let c := getCluster s i
  let st := if c.resetting then 3 else if !c.quar.isEmpty then 2 else if c.run.isSome then 1 else 0
  let sq := match c.run.bind (getCmd s) with | some k => k.sq | none => 0
  st * 2 ^ 30 + (if 510 ≤ i then 2 ^ 29 else 0) + c.spares % 4 * 2 ^ 27 + sq

/-- The cluster page (R284). -/
def clusterView (s : State) (i off : Nat) : Option Nat :=
  let c := getCluster s i
  match off with
  | 0x040 => some (clusterStat s i)
  | 0x044 => some (b2n (c.asked || c.resetting))
  | 0x048 => some (bitWord 0 c.quar.contains)
  | 0x04C => some (bitWord 32 c.quar.contains)
  | 0x050 => some (bitWord 0 c.retired.contains)
  | 0x054 => some (bitWord 32 c.retired.contains)
  | 0x058 => some c.qrec0.toNat
  | 0x05C => some c.qrec1.toNat
  | _ => none

/-- MS.SRC_LIMIT of the selected source, tier and class (R345, R349). -/
def srcLimit (s : State) : Nat :=
  let v := getReg s .ms 0 0x0A4
  let n := bits v 23 16
  let t := 1 + bits v 8 8
  let out := (sourceOut s n (bits v 2 0) t s.mem.nextOp).length
  if n < 148 then Nat.min 255 out * 2 ^ 16 + limitOf s (8 * bits v 8 8 + bits v 2 0) % 256 else 0

/-- A byte-counter half (R348): a HI half shows what the last read of its LO half latched, if that has not been read yet. -/
def byteCounter (s : State) (off : Nat) : Nat :=
  let i := 2 * ((off - 0x200) / 8)
  let live := mgetD s.mem.counts i 0
  if off % 8 = 0 then live % 2 ^ 32 else mgetD s.mem.hiLatch i (live / 2 ^ 32)

/-- QY.B_STAT (R388). -/
def berthStat (be : Berth) : Nat :=
  be.st * 2 ^ 29 + b2n be.cxl * 2 ^ 28 + b2n be.paired * 2 ^ 27 + be.depart * 2 ^ 24 + be.modules * 2 ^ 20 + be.half * 2 ^ 16
    + be.rate * 2 ^ 8 + be.minor % 256

/-- The berth page (R388). -/
def berthView (s : State) (b off : Nat) : Option Nat :=
  match off with
  | 0x040 => some (berthStat (getBerth s b))
  | 0x050 => some (getBerth s (lowerBerth s b)).grants.length
  | 0x058 => some (heldLines s b).length
  | _ => none

/-- The Hawser main page (R423). -/
def hawserView (s : State) (off : Nat) : Option Nat :=
  let upAt (l : Nat) : Bool := (getLink s l).st = 4
  match off with
  | 0x044 => some (s.hl.role * 2 ^ 29 + b2n s.hl.idValid * 2 ^ 28 + s.hl.manager.getD 0 * 2 ^ 16 + s.hl.hubId)
  | 0x05C => some (s.hl.hops % 256 * 2 ^ 24 + s.hl.upstream % 64 * 2 ^ 16 + twos 16 s.hl.offset)
  | 0x064 => some (bitWord 0 upAt)
  | 0x068 => some (bitWord 32 upAt % 2 ^ 16)
  | _ => none

/-- The link page (R424). -/
def linkView (s : State) (l off : Nat) : Option Nat :=
  let k := getLink s l
  match off with
  | 0x044 => some (k.st * 2 ^ 29 + b2n (isEther s l) * 2 ^ 28 + k.lanes % 16 * 2 ^ 24 + (match k.peer with | some p => 2 ^ 12 + p | none => 0))
  | 0x05C => some (k.gptpOfs.toNat % 2 ^ 32)
  | 0x060 => some (k.gptpOfs.toNat / 2 ^ 32)
  | _ => none

/-- The Separator page (R484). -/
def separatorView (s : State) (off : Nat) : Option Nat :=
  let count (st : Nat) : Nat := (s.sp.slots.filter fun p => p.2.st = st).length
  match off with
  | 0x044 => some (match mget s.sp.slots (getReg s .sp 0 0x040 % 128) with
    | some x => x.st * 2 ^ 30 + b2n x.bounce * 2 ^ 29 + x.f * 2 ^ 16 + x.ctx
    | none => 0)
  | 0x048 => some (count 2 * 2 ^ 16 + count 1 * 2 ^ 8 + (128 - count 1 - count 2))
  | 0x05C => some (match s.sp.teardowns.head? with | some t => 2 ^ 31 + t.f * 2 ^ 24 + t.step | none => 0)
  | 0x060 => some (match s.sp.teardowns.head? with | some t => cdiv t.left 65536 % 2 ^ 26 | none => 0)
  | 0x078 => some (fwPages s 0 (2 ^ 21))
  | _ => none

/-- A word of the trace window (R508). -/
def traceWord (s : State) (n : Nat) : Nat :=
  leNat ((List.range 4).map fun i =>
    if n + i < traceUsed s then Memory.read s.mem.bytes (place s (traceBase s + (getReg s .hm 0 0x074 + n + i) % traceSize s)) else 0)

/-- The Harbourmaster page (R509). -/
def harbourView (s : State) (off : Nat) : Option Nat :=
  if off = 0x054 then let n := getReg s .hm 0 0x050 % 32; let c := getCore s n; if 24 ≤ n then some 0 else some (c.st * 2 ^ 30 + c.cause * 2 ^ 24 + c.crashes % 2 ^ 16)
  else if 0x400 ≤ off && off < 0x800 then some (traceWord s (off - 0x400))
  else none

/-- The event controller's pages (R512, R513). -/
def eventView (s : State) (off : Nat) : Option Nat :=
  if off = 0x04C then some (srcCfg s (getReg s .ec 0 0x048 % 2 ^ 16))
  else if 0x080 ≤ off && off < 0x0E0 then let c := getCore s ((off - 0x080) / 4); some (c.run * 2 ^ 16 + c.stack.length)
  else none

/-- The first source of the word at an offset of EC bank k, and whether it is a mask word (R513). -/
def bankWord (k off : Nat) : Option (Nat × Bool) :=
  if 0x100 ≤ off && off < 0x1C0 then some (512 * k + (off - 0x100) % 0x40 * 8, false)
  else if 0x200 ≤ off && off < 0x2C0 then some (512 * k + (off - 0x200) % 0x40 * 8, true)
  else none

/-- A word of EC bank k. -/
def bankView (s : State) (k off : Nat) : Option Nat :=
  (bankWord k off).map fun w => if w.2 then bitWord w.1 (fun n => !s.ec.unmasked.contains n) else bitWord w.1 s.ec.pend.contains

/-- OFFSET of a Logbook entry: the register's place in MMIO space, or what a VF's write outside its view carries (R40). -/
def LogEntry.offset (e : LogEntry) : Nat := match e.page with | some p => (pageNumber p * 4096 + e.off) % 2 ^ 32 | none => e.off

/-- The 32 bytes of a Logbook entry (R40). -/
def LogEntry.bytes (e : LogEntry) : List Byte :=
  leBytes 8 e.time ++ leBytes 2 (originCode e.origin) ++ leBytes 2 e.flags ++ leBytes 4 e.offset ++ leBytes 8 e.old ++ leBytes 8 e.new

/-- A word of the Logbook's entry window (R49). -/
def windowWord (s : State) (n : Nat) : Nat :=
  let slot := (getReg s .lb 0 0x060 + n / 32) % 2 ^ 20
  match s.lb.ring.find? fun e => e.seq % 2 ^ 20 = slot with
  | some e => fld e.bytes (n % 32) 4
  | none => 0

/-- The Logbook page (R44). -/
def logView (s : State) (off : Nat) : Option Nat :=
  match off with
  | 0x040 => some s.lb.seq
  | 0x044 => some s.lb.tail
  | 0x050 => some (s.lb.doorbells % 2 ^ 32)
  | 0x054 => some (s.lb.doorbells / 2 ^ 32)
  | 0x058 => some (s.lb.fences % 2 ^ 32)
  | 0x05C => some (s.lb.fences / 2 ^ 32)
  | _ => if 0x800 ≤ off then some (windowWord s (off - 0x800)) else none

/-- The 16 bytes of a Tidegauge log record (R543). -/
def TgRec.bytes (r : TgRec) : List Byte := leBytes 8 r.time ++ leBytes 1 r.rule ++ leBytes 1 r.action ++ leBytes 2 r.value ++ leBytes 4 0

/-- The Tidegauge page (R545). -/
def tideView (s : State) (off : Nat) : Option Nat :=
  match off with
  | 0x040 => some (b2n s.tg.faultPin * 2 ^ 31 + b2n s.tg.ckpt * 2 ^ 30 + b2n s.tg.ckptDone * 2 ^ 29 + s.tg.last % 32)
  | 0x04C => some (let c := mgetD s.tg.chans (getReg s .tg 0 0x044 % 32) {}; c.raw % 2 ^ 12 * 2 ^ 16 + c.out % 2 ^ 12)
  | 0x074 => some s.tg.next
  | _ =>
    if 0x064 ≤ off && off ≤ 0x070 then
      some (match mget s.tg.log (getReg s .tg 0 0x060 % 64) with | some r => fld r.bytes (off - 0x064) 4 | none => 0)
    else none

/-- The Churn main page (R283). -/
def churnView (s : State) (off : Nat) : Option Nat :=
  match off with
  | 0x040 => some s.qe.recipes.length
  | 0x048 => some ((s.qe.cmds.filter fun p => p.2.dispatched && (p.2.op = 0x20 || p.2.op = 0x21)).length % 2 ^ 16)
  | 0x04C =>
    let has (p : Cluster → Bool) : Nat := (s.ch.clusters.filter fun c => p c.2).length
    some (has (fun c => !c.retired.isEmpty) * 2 ^ 16 + has fun c => c.spares = 0)
  | _ => none

/-- The mover pages (R237). -/
def moverView (s : State) (m off : Nat) : Option Nat :=
  match off with
  | 0x040 => some (match moverCmd s m with | some c => 2 ^ 31 + c.sq * 2 ^ 16 + c.cmdId | none => 0)
  | 0x044 => some (match moverCmd s m with | some c => c.op * 2 ^ 24 + c.cls * 2 ^ 16 + c.ctx | none => 0)
  | _ => none

/-- The Gantry main page (R235). -/
def gantryView (s : State) (off : Nat) : Option Nat :=
  match off with
  | 0x040 => some (bitWord 0 (moverBusy s))
  | 0x044 => some (bitWord 32 (moverBusy s))
  | 0x048 => some ((s.qe.cmds.filter fun p => 0x10 ≤ p.2.op && p.2.op ≤ 0x18 && p.2.phase = .ready).length % 2 ^ 16)
  | _ => none

/-- The memory system's page (R349). -/
def memoryView (s : State) (off : Nat) : Option Nat :=
  if off = 0x0A8 then some (srcLimit s) else if 0x200 ≤ off && off < 0x380 then some (byteCounter s off) else none

/-- The stream pages (R427). -/
def streamView (s : State) (c off : Nat) : Option Nat :=
  if off = 0x040 then some (match mget s.st.chans c with | some x => 2 ^ 31 + x.link * 2 ^ 16 + x.cur.getD 0 % 16 | none => 0) else none

/-- What a register of a page shows of other state, for the registers that are not kept in the register file. -/
def pageView (s : State) (p : Page) (off : Nat) : Option Nat :=
  match p with
  | .mf => some (manifestWord s 0 off)
  | .annex => if off = 0 then none else some (annexContent s off)
  | .pba f => some (pbaWord s f (off / 4))
  | .msix .. | .bar0 _ | .bar4 _ => none
  | p =>
    if off = 0x000 then some ((pageTriple p).1 * 2 ^ 26 + Config.pageKind (kindCode p) % 64 * 2 ^ 20 + (pageTriple p).2.2 * 2 ^ 8
      + Config.pageVersion (kindCode p) % 256)
    else if off = 0x004 then some (Config.pageCap (kindCode p)).toNat
    else if off = 0x014 then some (statWord s p)
    else match p with
    | .gw => if off = 0x044 then some (portStat s) else none
    | .gwCxl => if off < 0x40 then none else some (cxlView s off)
    | .qe => if off = 0x048 || off = 0x04C then some (sqView s off) else none
    | .qeFb b => blockView s b off
    | .tu => if off = 0x07C then some (prsOut s % 2 ^ 11 * 2 ^ 16 + s.tu.ats.length % 2 ^ 10) else none
    | .gm => gantryView s off
    | .gmMover m => moverView s m off
    | .ch => churnView s off
    | .chCluster i => clusterView s i off
    | .ms => memoryView s off
    | .qy => if off = 0x048 then some s.qy.filter.length else none
    | .qyBerth b => berthView s b off
    | .hl => hawserView s off
    | .hlLink l => linkView s l off
    | .st => if off = 0x040 then some (bitWord 0 (mhas s.st.chans) % 2 ^ 16) else none
    | .stChan c => streamView s c off
    | .sp => separatorView s off
    | .hm => harbourView s off
    | .ec => eventView s off
    | .ecBank k => bankView s k off
    | .lb => logView s off
    | .sl =>
      if off = 0x044 then some (getReg s .sl 0 0x044 / 2 ^ 16 * 2 ^ 16 + s.sl.h)
      else if powerOffs.contains off then some (powerView s off) else none
    | .tg => tideView s off
    | _ => none

/-- The 32-bit value of a register now, at full resolution. -/
def regValue (s : State) (p : Page) (off : Nat) : Nat := (pageView s p off).getD (getReg s p (bankOf s p off) off) % 2 ^ 32

end Sys2Proof.Machine
end

