-- ==== Sys2Proof/Machine/Registers.lean ====
section
/-! DEFINITION. Register and doorbell commands: who reaches a page (R35, R36, R439, R480, R486, R491, R495), a write with its Logbook entry
(R9 to R12, R33, R38 to R49), the effects a write starts, a read (R44, R348, R483), and the BAR4 pages (R70 to R73). -/

namespace Sys2Proof.Machine

/-! ### Who reaches a page -/

/-- The function a host origin is. -/
def fnOfHost (o : Origin) : Option Nat :=
  match o.cls with
  | .hostPf => if o.ident = 0 then some 0 else none
  | .hostVf => if 1 ≤ o.ident && o.ident < 64 then some o.ident else none
  | _ => none

/-- Whether function f is presented over some link that is up, in D0 there (R431, R448). -/
def fnReaches (s : State) (f : Nat) : Bool :=
  fnPresented s f && (List.range 4).any fun l => linkUp s l && !s.gw.d3.contains (64 * l + f)

/-- Whether an origin can make a register access now: a host function that is reached, a core that runs. -/
def originUp (s : State) (o : Origin) : Bool :=
  s.sl.power = 6 && match o.cls with
    | .hostPf | .hostVf => (fnOfHost o).any (fnReaches s)
    | .keeper | .hmFw | .regionFw => s.sl.h ≤ 1 && (originCore o).any fun c => (getCore s c).st = 0
    | _ => true

/-- Whether an origin's view holds a page: a VF's only its own (R439); an MSI-X table only its function's; an EC page no host driver's (R506). -/
def viewHolds (s : State) (o : Origin) (p : Page) : Bool :=
  match o.cls, p with
  | .hostPf, .msix f _ | .hostPf, .pba f => f = 0
  | .hostPf, .ec | .hostPf, .ecBank _ => false
  | .hostVf, .qeFb b => vfVisible o.ident ((mget s.qe.blocks b).map (·.f)) (.qeFb b)
  | .hostVf, p => vfVisible o.ident none p
  | .hostPf, _ => true
  | _, .msix .. | _, .pba _ => false
  | _, _ => true

/-- Whether the PF's interface version refuses every other function (R495). -/
def pfRefuses (s : State) : Bool :=
  bit (getReg s (.hmFn 0) 0 0x040) 0 && bits (getReg s (.hmFn 0) 0 0x040) 31 24 ≠ bits (getReg s .hm 0 0x040) 31 24

/-- Whether a page is missing from a host function's reduced view: in recovery, or on a version mismatch (R491, R495). -/
def viewReduced (s : State) (o : Origin) (p : Page) : Bool :=
  (s.hm.stage = 1 || pfRefuses s) && match o.cls, p with
    | .hostPf, .mf | .hostPf, .hm | .hostPf, .hmFn _ => false
    | .hostVf, .mf => false
    | .hostVf, .hmFn f => f ≠ o.ident
    | .hostPf, _ | .hostVf, _ => true
    | _, _ => false

/-- Whether OWNER admits an origin (R30, R34, R35). -/
def ownerAdmits (s : State) (o : Origin) (p : Page) : Bool :=
  let w := getReg s p 0 0x008
  match o.cls with
  | .hostVf => bit w 1 && bits w 21 16 = o.ident
  | _ => bit w (classCode o.cls)

/-- Whether the read-only windows of R49 and R508 hold an offset. -/
def inWindow (p : Page) (off : Nat) : Bool :=
  match p with
  | .lb => 0x800 ≤ off
  | .hm => 0x400 ≤ off && off < 0x800
  | _ => false

/-- What the HM page admits beyond its OWNER: of REGION_FW and of writes to HM.VBASE (R509). -/
def harbourAdmits (o : Origin) (p : Page) (off : Nat) : Bool :=
  if p ≠ .hm then true
  else if 0x100 ≤ off && off < 0x160 then o.cls = .keeper || (isFw o && originCore o = some ((off - 0x100) / 4))
  else o.cls ≠ .regionFw || off / 4 = 0x05C / 4

/-- SP.DEBUG.UNLOCKED. -/
def debugUnlocked (s : State) : Bool := bit (getReg s .sp 0 0x074) 1

/-- Whether a write of an origin to a register takes effect. -/
def admitted (s : State) (o : Origin) (p : Page) (off : Nat) : Bool :=
  viewHolds s o p && !viewReduced s o p && ownerAdmits s o p && harbourAdmits o p off && !inWindow p off
    && (o.cls ≠ .debug || debugUnlocked s)

/-- The registers whose effective writes are neither logged nor held (R39, R49). -/
def logExempt (p : Page) (off : Nat) : Bool :=
  match p with
  | .lb => off = 0x044 || off = 0x060
  | .hm => off = 0x074
  | _ => false

/-- The bits of a register that ignore writes while what they configure is in use (R101, R154, R341, R390, R443, R508). -/
def frozenBits (s : State) (p : Page) (off : Nat) : Nat :=
  match p with
  | .qeFn f =>
    if !bit (getReg s (.qeFn f) 0 0x050) 31 then 0
    else if 0x040 ≤ off && off < 0x050 then w32 else if off = 0x050 then 0x7FFFFFFF else 0
  | .tu =>
    if !bit (getReg s .tu 0 0x04C) 31 then 0
    else if off = 0x050 || off = 0x054 then w32 else if off = 0x04C then 0x7FFFFFFF else 0
  | .ms =>
    if 0x06C ≤ off && off ≤ 0x07C && bit (getReg s .ms (bankOf s .ms 0x06C) 0x06C) 31 then (if off = 0x06C then 0x7FFFFFFF else w32) else 0
  | .hlLink l => if off = 0x040 && linkEn s l then 0x40000000 else 0
  | .gw => if 0x180 ≤ off && off < 0x1A0 && mhas s.gw.hdm ((off - 0x180) / 4) then w32 else 0
  | .hm =>
    if !bit (getReg s .hm 0 0x06C) 31 then 0 else if off = 0x070 then w32 else if off = 0x06C then 0x1F else 0
  | _ => 0

/-! ### The value a write leaves, and its flags -/

/-- A register with some bits frozen. -/
def RegInfo.freeze (r : RegInfo) (fz : Nat) : RegInfo := { r with rw := r.rw &&& (w32 ^^^ fz) }

/-- Whether SL fields of the page are read-only. -/
def pageSealed (s : State) (p : Page) : Bool := bit (getReg s p 0 0x00C) 0

/-- The write value over the bytes not enabled, with reserved codes replaced (R12), and whether there was one. -/
def codedValue (p : Page) (off en old v : Nat) : Nat × Bool := fixCodes p off old ((old &&& (w32 ^^^ en)) ||| (v &&& en))

/-- The value a register holds after an admitted write of v under byte mask en. ERR_CAP.VALID is only ever cleared (R30). -/
def newValue (s : State) (p : Page) (off en old v : Nat) : Nat :=
  let r := ((regInfo s.fuses.vehicle p off).getD {}).freeze (frozenBits s p off)
  let new := writtenValue r (pageSealed s p) en old (codedValue p off en old v).1
  if off = 0x024 && !bit old 31 then new % 2 ^ 31 else new

/-- Whether a register that hardware also changes holds another value than its most recent read returned (R43). -/
def raced (s : State) (p : Page) (off old : Nat) : Bool :=
  ((regInfo s.fuses.vehicle p off).getD {}).rwh
    && (match mget s.lastRead (regKey p (bankOf s p off) off) with | some x => x.toNat ≠ old | none => false)

/-- The Logbook flags of an admitted write (R40, R43). -/
def writeFlags (s : State) (p : Page) (off en old v : Nat) (wide : Bool) : Nat :=
  let r := (regInfo s.fuses.vehicle p off).getD {}
  let odd := (v &&& en &&& (w32 ^^^ r.all)) ≠ 0 || (codedValue p off en old v).2
  2 * b2n (pageSealed s p && (r.sl &&& en) ≠ 0) + 4 * b2n odd + 8 * b2n (raced s p off old) + 16 * b2n wide

/-! ### What a write starts -/

/-- The bits of EVT_PEND newly unmasked by a write of EVT_MASK are sent (R31, R502). -/
def unmaskEvents (p : Page) (old new : Nat) (s : State) : State :=
  (List.range (evtBits p)).foldl (fun s b =>
    if bit old b && !bit new b && bit (getReg s p 0 0x018) b then ecSense 3 (evtSrc p + b) s else s) s

/-- Whether the admin configuration of function f is usable (R102). -/
def adminUsable (s : State) (f v : Nat) : Bool :=
  let base (lo : Nat) : Nat := getReg s (.qeFn f) 0 lo + 2 ^ 32 * getReg s (.qeFn f) 0 (lo + 4)
  let okLog (k : Nat) : Bool := 4 ≤ k && k ≤ 12
  okLog (bits v 11 8) && okLog (bits v 15 12) && bits v 26 16 < (if f = 0 then 2048 else 128)
    && (!bit v 0 || (inOneTier s (base 0x040) (128 * 2 ^ bits v 11 8) && inOneTier s (base 0x048) (32 * 2 ^ bits v 15 12)))

/-- QE.ADMIN_CFG of function f went from old to new: its slots become live or are freed, or the enable is refused (R89, R102). -/
def adminSwitch (o : Origin) (f old new : Nat) (s : State) : State :=
  if !bit old 31 && bit new 31 then
    if !adminUsable s f new then capErr (.qeFn f) 1 o (setReg (.qeFn f) 0 0x050 (new % 2 ^ 31) s)
    else
      let base (lo : Nat) : Nat := getReg s (.qeFn f) 0 lo + 2 ^ 32 * getReg s (.qeFn f) 0 (lo + 4)
      let sq : Sq := { f := f, base := base 0x040, log2 := bits new 11 8, device := bit new 0, weight := 1, berth := none, owner := 0, cq := f,
                       en := true }
      let cq : Cq := { f := f, base := base 0x048, log2 := bits new 15 12, device := bit new 0, vector := bits new 26 16, irqCount := 0,
                       irqTime := 0, berth := none }
      { s with qe := { s.qe with sqs := mset s.qe.sqs f sq, cqs := mset s.qe.cqs f cq } }
  else if bit old 31 && !bit new 31 then freeAdmin f (updSq f (fun q => { q with en := false }) s)
  else s

/-- A device-map root register of function f went from old to new (R157). -/
def rootSwitch (f off old new : Nat) (s : State) : State :=
  let live := if off = 0x040 then bit old 0 else mapLive s f
  if live && old ≠ new then rootInv f s else s

/-- QY.B_CTL of berth b: EN, EVICT and PRST written (R366, R384, R388). -/
def berthSwitch (b old new : Nat) (s : State) : State :=
  let s := if bit new 0 then berthOn b s else if bit old 0 then berthOff b s else s
  let s := if !bit old 1 && bit new 1 then berthEvictGo b s else s
  if !bit old 2 && bit new 2 then partnerResetGo b s else s

/-- EC pending or mask bits of a word: those of v are set, or cleared, or the word takes v. -/
def bankWrite (k off v : Nat) (s : State) : State :=
  match bankWord k off with
  | none => s
  | some (n0, isMask) =>
    let kind := off % 0x100 / 0x40
    let word := (bankView s k off).getD 0
    let new := if kind = 0 then v else if kind = 1 then word ||| v else word &&& (w32 ^^^ v)
    let others (l : List Nat) : List Nat := l.filter fun n => !(n0 ≤ n && n < n0 + 32)
    let mine (want : Bool) : List Nat := ((List.range 32).filter fun i => bit new i = want).map (n0 + ·)
    if isMask then { s with ec := { s.ec with unmasked := mine false ++ others s.ec.unmasked } }
    else { s with ec := { s.ec with pend := mine true ++ others s.ec.pend } }

/-- Ones written to a QE.FB_STATUS word return fences to OK (R193). -/
def statusClear (b off v : Nat) (s : State) : State :=
  (List.range 4).foldl (fun s i =>
    let n := 256 * b + (off - 0x100) + i
    let fe := getFence s n
    if (v / 2 ^ (8 * i) &&& fe.status) ≠ 0 then setFence n { fe with status := 0 } s else s) s

/-- LB.TAIL is moved, unless backward or past LB.SEQ (R48). -/
def moveTail (v : Nat) (s : State) : State :=
  if (v + 2 ^ 32 - s.lb.tail) % 2 ^ 32 ≤ s.lb.unread then { s with lb := { s.lb with tail := v } } else s

/-- The value is kept in the register file, but for views of other state. -/
def storeReg (p : Page) (off new : Nat) (s : State) : State :=
  if (pageView s p off).isSome || (p = .gw && off = 0x06C) || (p = .ec && off = 0x04C) then s
  else setReg p (bankOf s p off) off new s

/-- HM.F_STAT.REFUSED after a write of HM.F_IFACE: of the writer's function, and of every function where the PF's version starts
or stops refusing them all (R495, R511). -/
def ifaceEffect (f old : Nat) (s : State) : State :=
  let major := bits (getReg s .hm 0 0x040) 31 24
  let all_ := decide (f = 0) && (pfRefuses s || (bit old 0 && bits old 31 24 ≠ major))
  ((List.range 64).filter fun g => g = f || all_).foldl (fun s g => setReg (.hmFn g) 0 0x044 (b2n (versionRefused s g)) s) s

/-- What a write to a register starts, after its value is stored: old and new value, and v, the bits written as one. -/
def writeEffect (o : Origin) (p : Page) (off old new v : Nat) (s : State) : State :=
  if off = 0x01C then unmaskEvents p old new s
  else match p with
  | .gw => if off = 0x06C then reattachWrite o new s else if off = 0x048 then tolGo s else s
  | .sl => if off = 0x040 then tolGo s else s
  | .qe => if off = 0x048 then updSq (getReg s .qe 0 0x044 % 8192) (fun q => { q with en := bit new 0 }) s else s
  | .qeFn f => if off = 0x050 then adminSwitch o f old new s else s
  | .qeFb b => if 0x100 ≤ off && off < 0x200 then statusClear b off v s else s
  | .tu =>
    if off = 0x064 then acClear v s
    else if off = 0x070 && bit v 0 && !bit old 31 then dinvGo new s
    else s
  | .tuFn f => if off = 0x040 || off = 0x044 then rootSwitch f off old new s else s
  | .chCluster i => if off = 0x044 && bit v 0 then updCluster i (fun c => { c with asked := true }) s else s
  | .ms =>
    if off = 0x06C then repSwitch o (bankOf s .ms 0x06C) old s
    else if off = 0x040 || off = 0x044 || off = 0x048 then modeNote s else s
  | .qyBerth b => if off = 0x044 then berthSwitch b old new s else if off = 0x04C then grantWrite b v s else s
  | .hl =>
    if off = 0x040 && bit new 30 then holdId new s else s
  | .hlLink l =>
    if off ≠ 0x040 then s
    else
    let s := if bit old 30 = bit new 30 then s else annexTouch s
    if !bit old 31 && bit new 31 then linkOn o l s
    else if bit old 31 && !bit new 31 then linkOff l s
    else s
  | .sp => if off = 0x054 && bit v 8 && !bit old 31 then retagGo o new s else s
  | .hmFn f => if off = 0x040 then ifaceEffect f old s else s
  | .hm =>
    match off with
    | 0x04C => if bit v 0 then svnGo o s else s
    | 0x064 => if bit v 0 then flashGo s else s
    | 0x05C => wdogKick o s
    | 0x068 => if v = 0xA5A5 then startReset 1 s else s
    | 0x06C => traceSwitch old s
    | _ => s
  | .ec =>
    match off with
    | 0x040 => ecSense 3 (v % 2 ^ 16) s
    | 0x044 => eoiGo o s
    | 0x04C => { s with ec := { s.ec with cfg := mput (0 : Word) s.ec.cfg (getReg s .ec 0 0x048 % 2 ^ 16) (BitVec.ofNat 32 new) } }
    | _ => s
  | .ecBank k => bankWrite k off (if off % 0x100 < 0x40 then new else v) s
  | .lb => if off = 0x044 then moveTail new s else s
  | .tg =>
    if off = 0x040 then
      let s := if bit v 31 then faultRelease s else s
      if bit v 29 then { s with tg := { s.tg with ckptDone := false } } else s
    else if 0x054 ≤ off && off ≤ 0x05C then
      let i := bankOf s .tg 0x054
      if (ruleSt s i).tripped then rearm i s else s
    else s
  | _ => s

/-! ### A write -/

/-- The registers a write touches: offset, byte mask and value of each, in ascending order. -/
def regPieces (off size v : Nat) : List (Nat × Nat × Nat) :=
  let sh := 8 * (off % 4)
  let en := (2 ^ (8 * size) - 1) * 2 ^ sh
  let val := v % 2 ^ (8 * size) * 2 ^ sh
  (List.range (cdiv (off % 4 + size) 4)).map fun j => (off / 4 * 4 + 4 * j, en / 2 ^ (32 * j) % 2 ^ 32, val / 2 ^ (32 * j) % 2 ^ 32)

/-- The OFFSET of a VF's write to a page it names that its view does not hold (R40, R439). A fence block has its place in the view. Another
page has none there: the command says by name what the VF's write misses, and the place it was made at is free; a write made at a
known place is one to Page.bar0 (DESIGN CHOICE, log entry 50). -/
def outsideOffset (p : Page) (off : Nat) (s : State) : Nat × State :=
  match p with
  | .qeFb _ | .bar0 _ => (2 ^ 31 + vfPageNumber p * 4096 + off, s)
  | _ => let (n, s) := draw s; (2 ^ 31 + (Config.freeWord n).toNat % 0x300 * 4096 + off, s)

/-- A dropped write is logged; a refused debug write is captured (R35, R38, R39, R43). A dropped write performs nothing, and is not flagged
reserved-bits-set for the bits it carries (DESIGN CHOICE, log entry 82). -/
def dropWrite (o : Origin) (p : Page) (off old v : Nat) (race wide : Bool) (s : State) : State :=
  if o.cls = .hostVf && !viewHolds s o p then
    let (x, s) := outsideOffset p off s
    logAppend o (1 + 16 * b2n wide) none x 0 v s
  else
    let s := logAppend o (1 + 8 * b2n race + 16 * b2n wide) (some p) off old v s
    if o.cls = .debug && (!ownerAdmits s o p || !debugUnlocked s || !harbourAdmits o p off) then capErr p 0xFFF o s else s

/-- An admitted write takes effect. -/
def applyWrite (o : Origin) (p : Page) (off en old v : Nat) (s : State) : State :=
  let new := newValue s p off en old v
  writeEffect o p off old new (v &&& en) (storeReg p off new s)

/-- NEW of an admitted write: the register's value after it, with what the hub itself leaves of the bits written (R40, R102, R336). -/
def valueAfter (o : Origin) (p : Page) (off en old v : Nat) (s : State) : Nat := regValue (applyWrite o p off en old v s) p off

/-- Whether a write to a register is refused: it would be logged, and the ring is full under hold (R47). -/
def refused (s : State) (o : Origin) (p : Page) (off : Nat) : Bool :=
  !(admitted s o p off && logExempt p off) && logHolds s && logFull s

/-- A write to one 32-bit register: logged before it takes effect, dropped, or refused while the ring is full (R35, R38, R41, R47). -/
def writePiece (o : Origin) (p : Page) (wide : Bool) (x : Nat × Nat × Nat) (s : State) : State :=
  let (off, en, v) := x
  let old := regValue s p off
  if refused s o p off then logRefuse o s
  else if !admitted s o p off then dropWrite o p off old v (raced s p off old) wide s
  else if logExempt p off then applyWrite o p off en old v s
  else applyWrite o p off en old v
    (logAppend o (writeFlags s p off en old v wide) (some p) off old (valueAfter o p off en old v s) s)

/-- A write over the registers it touches, in ascending order. It is refused once: HOLD_DROP counts the write, not its registers (R47).
With room for one entry its first register is logged and written and its second refused (DESIGN CHOICE, log entry 82). -/
def writeRegs (o : Origin) (p : Page) (wide : Bool) (xs : List (Nat × Nat × Nat)) (s : State) : State :=
  (xs.foldl (fun (a : State × Bool) x =>
    let no := refused a.1 o p x.1
    (if a.2 && no then a.1 else writePiece o p wide x a.1, a.2 || no)) (s, false)).1

/-- A write to the fence values of block b that is dropped: one entry for each fence it touches (R39, R192), with the whole value written
(DESIGN CHOICE, log entry 82). -/
def fenceDrop (o : Origin) (b off size v : Nat) (s : State) : State :=
  let first := (Nat.max off 0x800 - 0x800) / 8
  let last := (off + size - 1 - 0x800) / 8
  let one (a : State × Bool) (i : Nat) : State × Bool :=
    let at_ := 0x800 + 8 * i
    let old := (getFence a.1 (256 * b + i)).value.toNat
    let race := raced a.1 (.qeFb b) at_ (old % 2 ^ 32) || raced a.1 (.qeFb b) (at_ + 4) (old / 2 ^ 32)
    let no := logHolds a.1 && logFull a.1
    (if !no then dropWrite o (.qeFb b) at_ old v race (size = 8) a.1 else if a.2 then a.1 else logRefuse o a.1, a.2 || no)
  ((List.range' first (last + 1 - first)).foldl one (s, false)).1

/-- A write to the fence values of block b: a signal, or dropped; QE.FB_BAD counts a write of another size or alignment, and any write to a
block that is not allotted (R35, R192). -/
def fenceWrite (o : Origin) (b off size v : Nat) (s : State) : State :=
  let fits := size = 8 && off % 8 = 0 && mhas s.qe.blocks b
  if fits && admitted s o (.qeFb b) off then signalFence (256 * b + (off - 0x800) / 8) (BitVec.ofNat 64 v) s
  else if fits || (logHolds s && logFull s) then fenceDrop o b off size v s
  else fenceDrop o b off size v (bump (.qeFb b) 0x048 1 s)

/-- A write by its function to an entry of its own MSI-X table: not a block page, so not logged; it wakes the hub (R439, R446). -/
def msixWrite (o : Origin) (p : Page) (off size v : Nat) (s : State) : State :=
  if !viewHolds s o p || viewReduced s o p || 16 < off + size then s
  else (regPieces off size v).foldl (fun s x =>
    setReg p 0 x.1 ((getReg s p 0 x.1 &&& (w32 ^^^ x.2.1)) ||| (x.2.2 &&& x.2.1)) s) (wakeUp s)

/-- Whether a page is read-only and without the header of R30: its writes reach no register. -/
def isRom : Page → Bool
  | .mf | .annex | .pba _ => true
  | _ => false

/-- A write to a page. -/
def pageWrite (o : Origin) (p : Page) (off size v : Nat) (s : State) : State :=
  match p with
  | .msix .. => msixWrite o p off size v s
  | .qeFb b => if 0x800 < off + size then fenceWrite o b off size v s else writeRegs o p (size = 8) (regPieces off size v) s
  | p => if isRom p && viewHolds s o p then s else writeRegs o p (size = 8) (regPieces off size v) s

/-- The pages a view holds, every instance: the PF's and the firmware's the whole of BAR0, a VF's what its Manifest lists. -/
def viewPages (s : State) (o : Origin) : List Page :=
  if o.cls = .hostVf then vfPages s o.ident
  else placedKinds.flatMap fun p => (List.range (pageCount p)).map fun i => instanceOf p i

/-- The page and offset that stand at an offset of BAR0 page n of an origin's view; none at a reserved offset or where the view holds no
page (R22, R26, R439). -/
def bar0At (s : State) (o : Origin) (n off : Nat) : Option (Page × Nat) :=
  if n < 16 then some (.mf, n * 4096 + off)
  else if n < 32 && o.cls ≠ .hostVf then some (.annex, (n - 16) * 4096 + off)
  else if o.cls = .hostPf && 0xFE0 ≤ n && n < 0xFE8 then some (.msix 0 ((n - 0xFE0) * 256 + off / 16), off % 16)
  else if o.cls = .hostPf && n = 0xFE8 then (if off < 256 then some (.pba 0, off) else none)
  else if o.cls = .hostVf && n = 0x2FE then (if off / 16 < 128 then some (.msix o.ident (off / 16), off % 16) else none)
  else ((viewPages s o).find? fun p => (if o.cls = .hostVf then vfPageNumber p else pageNumber p) = n).map fun p => (p, off)

/-- A write by place: to the page that stands there; a VF's where its view holds none is dropped and logged (R439), another's reaches no
register. The place of a fence block is a fence-block page, whose values are 64-bit registers (R40). -/
def bar0Write (o : Origin) (n off size v : Nat) (s : State) : State :=
  match bar0At s o n off with
  | some (p, off) => pageWrite o p off size v s
  | none =>
    if o.cls ≠ .hostVf then s
    else if 0x300 ≤ n && n < 0x400 then pageWrite o (.qeFb (n - 0x300)) off size v s
    else writeRegs o (.bar0 n) (size = 8) (regPieces off size v) s

/-! ### BAR4 -/

/-- A BAR4 write of function f to doorbell page `page` (R70 to R73). A berth-owned queue answers the doorbells of its partner alone, over Bresa:
the page of such a queue is none the host's function owns. DONE of DOORBELL_INVALID carries the whole value written, 64 bits of a
64-bit write (both DESIGN CHOICE, log entry 83). -/
def bar4Write (f page off size v : Nat) (s : State) : State :=
  if s.sl.power ≠ 6 || !fnReaches s f then s
  else
    let s := wakeUp s
    let mineSq : Bool := match mget s.qe.sqs page with | some q => q.f = f && q.berth.isNone | none => false
    let mineCq : Bool := match mget s.qe.cqs page with | some c => c.f = f && c.berth.isNone | none => false
    if size < 4 then dbBad s
    else if off = 0 && mineSq then doorbell page (bits v 15 0) (bits v 31 16) (v % 2 ^ (8 * size)) (countDoorbell s)
    else if off = 0x800 && mineCq then headUpdate page (bits v 15 0) (countDoorbell s)
    else dbBad s

/-- The core that an origin is, where no region of it that grants the permission holds a register access whole (R493). Registers stand from DPA
0x2_0000_0000 on, in the order of BAR0 (R19, R22). -/
def mpuDenies (s : State) (o : Origin) (p : Page) (off size : Nat) (wr : Bool) : Option Nat :=
  (originCore o).filter fun c => coreBarred s c (0x200000000 + pageNumber p * 4096 + off) size wr

/-- REGISTER_WRITE: any write by any origin, to a page by name or to a place in BAR0 or BAR4. A core's access that its regions do not grant is
not made: the core crashes with cause MPU (R493, R498, R510). -/
def mmioWrite (w : RegWr) (s : State) : State :=
  if !originUp s w.org || 4096 < w.off + w.size || w.size = 0 then s
  else match mpuDenies s w.org w.page w.off w.size true with
  | some c => crash c 2 s
  | none => match w.page with
  | .bar4 n => match fnOfHost w.org with | some f => bar4Write f n w.off w.size w.val s | none => s
  | .bar0 n => bar0Write w.org n w.off w.size w.val s
  | p => if pageExists p then pageWrite w.org p w.off w.size w.val s else s

/-! ### A read -/

/-- Whether a read by an origin shows the register (R36, R439, R491, R495); the windows show DEBUG something only while it is unlocked. -/
def shows (s : State) (o : Origin) (p : Page) (off : Nat) : Bool :=
  viewHolds s o p && !viewReduced s o p && !(o.cls = .debug && inWindow p off && !debugUnlocked s)

/-- The counters a VF can reach (R483). -/
def vfCounter (p : Page) (off : Nat) : Bool :=
  match p with
  | .tuFn _ => off = 0x048 || off = 0x04C || off = 0x050
  | .qeFb _ => off = 0x044 || off = 0x048
  | .sl => off = 0x078 || off = 0x07C
  | _ => false

/-- The nearest multiple of 10, for each half of a power reading. -/
def coarsePower (v : Nat) : Nat := (v / 2 ^ 16 + 5) / 10 * 10 * 2 ^ 16 + (v % 2 ^ 16 + 5) / 10 * 10

/-- What the last latch kept of a register. -/
def latchedValue (s : State) (p : Page) (off : Nat) : Nat := (mgetD s.latched (regKey p 0 off) 0).toNat

/-- What an origin sees in a register: a VF sees counters and power latched and coarse (R483), and its own Manifest (R439). -/
def seenValue (s : State) (o : Origin) (p : Page) (off : Nat) : Nat :=
  if o.cls ≠ .hostVf then regValue s p off
  else if p = .mf then manifestWord s o.ident off
  else if vfCounter p off then latchedValue s p off / 1024 * 1024
  else if p = .sl && powerOffs.contains off then coarsePower (latchedValue s p off)
  else if p = .sl && off = 0x044 then latchedValue s p off / 2 ^ 26 * 2 ^ 26 + s.sl.h
  else regValue s p off

/-- What a read that showed v leaves behind: RC fields are cleared, or lowered by what a VF was shown (R44, R348, R483); the value is
remembered for R43. -/
def readEffect (o : Origin) (p : Page) (off v : Nat) (s : State) : State :=
  let r := (regInfo s.fuses.vehicle p off).getD {}
  let s := if r.rc = 0 then s
    else if o.cls = .hostVf then
      -- what a VF has been shown leaves the latched value too, so that no later read shows it again (R483, log entry 112)
      let k := regKey p 0 off
      setReg p 0 off (getReg s p 0 off - v) { s with latched := mset s.latched k (mgetD s.latched k 0 - BitVec.ofNat 32 v) }
    else setReg p 0 off 0 s
  let s := if p = .lb && off = 0x014 then { s with lb := { s.lb with denied := false, overrun := false } } else s
  let s := if p = .ms && 0x200 ≤ off && off < 0x380 then
      let i := 2 * ((off - 0x200) / 8)
      let m := if off % 8 = 0 then mset s.mem.hiLatch i (mgetD s.mem.counts i 0 / 2 ^ 32) else mdel s.mem.hiLatch i
      { s with mem := { s.mem with hiLatch := m } }
    else s
  let s := if p = .gwCxl && 0x40 ≤ off then (draw s).2 else s
  if r.rwh then { s with lastRead := mset s.lastRead (regKey p (bankOf s p off) off) (BitVec.ofNat 32 v) } else s

/-- A read of one register, and its value. -/
def readPiece (o : Origin) (p : Page) (off : Nat) (s : State) : Nat × State :=
  if !shows s o p off then (0, s) else let v := seenValue s o p off; (v, readEffect o p off v s)

/-- What a read of a page's registers returns, and the state it leaves. -/
def pageRead (o : Origin) (p : Page) (off size : Nat) (s : State) : Nat × State :=
  let s := match p with | .msix .. => wakeUp s | _ => s
  let one (a : Nat × State) (j : Nat) : Nat × State :=
    let x := if pageExists p then readPiece o p (off / 4 * 4 + 4 * j) a.2 else (0, a.2)
    (a.1 + x.1 * 2 ^ (32 * j), x.2)
  let (v, s) := (List.range (cdiv (off % 4 + size) 4)).foldl one (0, s)
  (v / 2 ^ (8 * (off % 4)) % 2 ^ (8 * size), s)

/-- REGISTER_READ of `size` bytes at an offset of a page, or at a place in BAR0; BAR4, and a place where no page stands, read zero (R22, R73,
R439). -/
def mmioRead (o : Origin) (p : Page) (off size : Nat) (s : State) : State :=
  if !originUp s o || 4096 < off + size then s
  else match mpuDenies s o p off size false with
  | some c => crash c 2 s
  | none =>
    let (v, s) := match p with
      | .bar0 n => (match bar0At s o n off with | some (q, a) => pageRead o q a size s | none => (0, s))
      | _ => pageRead o p off size s
    emit (.regRead o p off v) s

/-! ### Decoders and the order of a link's accesses -/

/-- HDM_COMMIT of decoder d (R443): a write of its control register, which OWNER may refuse and the ring under hold (R35, R47), and which is
logged as any configuration write. -/
def hdmCommitGo (d : Nat) (g : HdmRegs) (s : State) : State :=
  let off := hdmCtlOff d
  let old := regValue s .gwCxl off
  let v := waysCode g.ways * 2 ^ 4 + 2 ^ 9
  if !originUp s hostOrigin then s
  else if logHolds s && logFull s then logRefuse hostOrigin s
  else if !admitted s hostOrigin .gwCxl off then dropWrite hostOrigin .gwCxl off old v false false s
  else hdmCommit d g (logAppend hostOrigin 0 (some .gwCxl) off old (regValue (hdmCommit d g s) .gwCxl off) s)

/-- What an access does, once its turn has come. -/
def regAccess (a : HostReg) (s : State) : State :=
  match a with
  | .write w => mmioWrite w s
  | .read o p off size => mmioRead o p off size s
  | .bell f page off size v => bar4Write f page off size v s
  | .commit d g => hdmCommitGo d g s

/-- Whether an access comes over a host link. It does not say which, so it follows the posted writes of every link (DESIGN CHOICE, log entry
93: R440 orders only those of its own, and gives no order across links). -/
def HostReg.ofHost : HostReg → Bool
  | .write w => w.org.cls = .hostPf || w.org.cls = .hostVf
  | .read o .. => o.cls = .hostPf || o.cls = .hostVf
  | .bell .. | .commit .. => true

/-- Whether a host access has to wait: a posted BAR2 write is still at its home, or an earlier access waits for one (R440). -/
def hostLate (s : State) : Bool := postedOpen s || !s.gw.later.isEmpty

/-- The accesses whose posted writes have been performed take effect, oldest first, and what waited for them at the homes goes on. -/
def serveLater : Nat → State → State
  | 0, s => s
  | fuel + 1, s =>
    match s.gw.later with
    | [] => s
    | (n, a) :: rest =>
      if postedBefore s n then s else serveLater fuel (homeDrain (regAccess a { s with gw := { s.gw with later := rest } }))

/-- Serve every access that may go. -/
def laterDrain (s : State) : State := serveLater s.gw.later.length s

/-- A register access or doorbell arrives: a host's waits behind what it follows on its link (R440). -/
def access (a : HostReg) (s : State) : State :=
  if a.ofHost && hostLate s then laterDrain { s with gw := { s.gw with later := s.gw.later ++ [(s.mem.nextOp, a)] } } else regAccess a s

/-- A 32-bit write. -/
def write32 (o : Origin) (p : Page) (off v : Nat) (s : State) : State := access (.write ⟨o, p, off, 4, v⟩) s

/-! ### The commands -/

/-- HDM_COMMIT of decoder d: host base, size, CXL DPA and interleave ways. -/
def execHdmCommit (d base size dpa ways : Nat) (s : State) : Host.Outcome State Fault Refusal := onUnit d 8 (access (.commit d ⟨base, size, dpa, ways⟩) s)
/-- TCLK_EDGE; register accesses whose turn has come go with it. -/
def execTclkEdge (s : State) : Host.Outcome State Fault Refusal := .next (laterDrain (edgeTick s))
/-- BACK_INVALIDATE_RESPONSE. -/
def execBackInvalidateResponse (line : Nat) (dirty : Option (List Byte)) (s : State) : Host.Outcome State Fault Refusal :=
  .next (laterDrain (backInvalidated line dirty s))

/-- A command that stands for a register write of one kind: without its condition it is not that command. -/
def writeIf (c : Bool) (o : Origin) (p : Page) (off v : Nat) (s : State) : State := if c then write32 o p off v s else s

/-- REGISTER_WRITE. -/
def execRegisterWrite (w : RegWr) (s : State) : Host.Outcome State Fault Refusal := .next (access (.write w) s)
/-- PAGE_SEAL. -/
def execPageSeal (o : Origin) (p : Page) (v : Nat) (s : State) : Host.Outcome State Fault Refusal := .next (writeIf (bit v 0) o p 0x00C v s)
/-- LB_TAIL_WRITE. -/
def execLbTailWrite (o : Origin) (v : Nat) (s : State) : Host.Outcome State Fault Refusal := .next (write32 o .lb 0x044 v s)
/-- LB_WIN_SEQ_WRITE. -/
def execLbWinSeqWrite (o : Origin) (v : Nat) (s : State) : Host.Outcome State Fault Refusal := .next (write32 o .lb 0x060 v s)
/-- LB_STAT_READ. -/
def execLbStatRead (o : Origin) (s : State) : Host.Outcome State Fault Refusal := .next (access (.read o .lb 0x014 4) s)
/-- VF_COUNTER_READ. -/
def execVfCounterRead (f : Nat) (p : Page) (off : Nat) (s : State) : Host.Outcome State Fault Refusal :=
  if 1 ≤ f then onUnit f 64 (if vfCounter p off then access (.read (fnOrigin f) p off 4) s else s) else .fault .noSuchUnit
/-- BYTE_COUNTER_READ: a read of a LO half, which latches the HI half. -/
def execByteCounterRead (o : Origin) (tier cls : Nat) (wr : Bool) (s : State) : Host.Outcome State Fault Refusal :=
  onUnit (8 * tier + cls % 8) 24 (access (.read o .ms (0x200 + 16 * (8 * tier + cls % 8) + 8 * b2n wr) 4) s)
/-- SQ_DOORBELL. -/
def execSqDoorbell (f page off size v : Nat) (s : State) : Host.Outcome State Fault Refusal := onUnit page 8192 (access (.bell f page off size v) s)
/-- CQ_HEAD_UPDATE. -/
def execCqHeadUpdate (f page size v : Nat) (s : State) : Host.Outcome State Fault Refusal := onUnit page 8192 (access (.bell f page 0x800 size v) s)
/-- DINV_RANGE. -/
def execDinvRange (o : Origin) (v : Nat) (s : State) : Host.Outcome State Fault Refusal :=
  .next (writeIf (bit v 0 && !bit v 17) o .tu 0x070 v s)
/-- DINV_ALL. -/
def execDinvAll (o : Origin) (v : Nat) (s : State) : Host.Outcome State Fault Refusal := .next (writeIf (bit v 0 && bit v 17) o .tu 0x070 v s)
/-- FN_DMAP_ROOT_WRITE. -/
def execFnDmapRootWrite (o : Origin) (f : Nat) (hi : Bool) (v : Nat) (s : State) : Host.Outcome State Fault Refusal :=
  onUnit f 64 (write32 o (.tuFn f) (if hi then 0x044 else 0x040) v s)
/-- AC_CLEAR. -/
def execAcClear (o : Origin) (v : Nat) (s : State) : Host.Outcome State Fault Refusal := .next (write32 o .tu 0x064 v s)
/-- FB_VALUE_WRITE, at an offset from QE.FB_VALUE. -/
def execFbValueWrite (o : Origin) (b off size v : Nat) (s : State) : Host.Outcome State Fault Refusal :=
  onUnit b 256 (if off < 0x800 then access (.write ⟨o, .qeFb b, 0x800 + off, size, v⟩) s else s)
/-- FB_STATUS_WRITE, at an offset from QE.FB_STATUS. -/
def execFbStatusWrite (o : Origin) (b off size v : Nat) (s : State) : Host.Outcome State Fault Refusal :=
  onUnit b 256 (if off + size ≤ 0x100 then access (.write ⟨o, .qeFb b, 0x100 + off, size, v⟩) s else s)
/-- ADMIN_CFG_WRITE. -/
def execAdminCfgWrite (o : Origin) (f v : Nat) (s : State) : Host.Outcome State Fault Refusal := onUnit f 64 (write32 o (.qeFn f) 0x050 v s)
/-- CLUSTER_RESET_REQUEST. -/
def execClusterResetRequest (o : Origin) (cl v : Nat) (s : State) : Host.Outcome State Fault Refusal :=
  onUnit cl 512 (writeIf (bit v 0) o (.chCluster cl) 0x044 v s)
/-- REPLICA_ENABLE of the selected entry. -/
def execReplicaEnable (o : Origin) (v : Nat) (s : State) : Host.Outcome State Fault Refusal := .next (writeIf (bit v 31) o .ms 0x06C v s)
/-- REPLICA_DISABLE of the selected entry. -/
def execReplicaDisable (o : Origin) (v : Nat) (s : State) : Host.Outcome State Fault Refusal := .next (writeIf (!bit v 31) o .ms 0x06C v s)
/-- GROUP_MODE_WRITE. -/
def execGroupModeWrite (o : Origin) (off v : Nat) (s : State) : Host.Outcome State Fault Refusal :=
  .next (writeIf (off = 0x040 || off = 0x044 || off = 0x048) o .ms off v s)
/-- REATTACH_RESUME. -/
def execReattachResume (o : Origin) (v : Nat) (s : State) : Host.Outcome State Fault Refusal :=
  .next (writeIf (bits v 31 30 = 1) o .gw 0x06C v s)
/-- REATTACH_RESET. -/
def execReattachReset (o : Origin) (v : Nat) (s : State) : Host.Outcome State Fault Refusal := .next (writeIf (bits v 31 30 = 2) o .gw 0x06C v s)
/-- BERTH_ENABLE. -/
def execBerthEnable (o : Origin) (b v : Nat) (s : State) : Host.Outcome State Fault Refusal :=
  onUnit b 8 (writeIf (bit v 0) o (.qyBerth b) 0x044 v s)
/-- BERTH_DISABLE. -/
def execBerthDisable (o : Origin) (b v : Nat) (s : State) : Host.Outcome State Fault Refusal :=
  onUnit b 8 (writeIf (!bit v 0) o (.qyBerth b) 0x044 v s)
/-- BERTH_EVICT. -/
def execBerthEvict (o : Origin) (b v : Nat) (s : State) : Host.Outcome State Fault Refusal :=
  onUnit b 8 (writeIf (bit v 1) o (.qyBerth b) 0x044 v s)
/-- PARTNER_RESET. -/
def execPartnerReset (o : Origin) (b v : Nat) (s : State) : Host.Outcome State Fault Refusal :=
  onUnit b 8 (writeIf (bit v 2) o (.qyBerth b) 0x044 v s)
/-- CONTEXT_GRANT. -/
def execContextGrant (o : Origin) (b v : Nat) (s : State) : Host.Outcome State Fault Refusal :=
  onUnit b 8 (writeIf (bit v 31) o (.qyBerth b) 0x04C v s)
/-- CONTEXT_REVOKE. -/
def execContextRevoke (o : Origin) (b v : Nat) (s : State) : Host.Outcome State Fault Refusal :=
  onUnit b 8 (writeIf (!bit v 31) o (.qyBerth b) 0x04C v s)
/-- LINK_ENABLE. -/
def execLinkEnable (o : Origin) (l v : Nat) (s : State) : Host.Outcome State Fault Refusal :=
  onUnit l 48 (writeIf (bit v 31) o (.hlLink l) 0x040 v s)
/-- LINK_DISABLE. -/
def execLinkDisable (o : Origin) (l v : Nat) (s : State) : Host.Outcome State Fault Refusal :=
  onUnit l 48 (writeIf (!bit v 31) o (.hlLink l) 0x040 v s)
/-- RETAG. -/
def execRetag (o : Origin) (v : Nat) (s : State) : Host.Outcome State Fault Refusal := .next (writeIf (bit v 8) o .sp 0x054 v s)
/-- DIE_RESET_WRITE. -/
def execDieResetWrite (o : Origin) (v : Nat) (s : State) : Host.Outcome State Fault Refusal := .next (write32 o .hm 0x068 v s)
/-- SVN_COMMIT. -/
def execSvnCommit (o : Origin) (v : Nat) (s : State) : Host.Outcome State Fault Refusal := .next (writeIf (bit v 0) o .hm 0x04C v s)
/-- FLASH_READ. -/
def execFlashRead (o : Origin) (v : Nat) (s : State) : Host.Outcome State Fault Refusal :=
  .next (writeIf (bit v 0 && bits v 2 1 = 0) o .hm 0x064 v s)
/-- FLASH_ERASE. -/
def execFlashErase (o : Origin) (v : Nat) (s : State) : Host.Outcome State Fault Refusal :=
  .next (writeIf (bit v 0 && bits v 2 1 = 1) o .hm 0x064 v s)
/-- FLASH_PROGRAM. -/
def execFlashProgram (o : Origin) (v : Nat) (s : State) : Host.Outcome State Fault Refusal :=
  .next (writeIf (bit v 0 && bits v 2 1 = 2) o .hm 0x064 v s)
/-- WDOG_KICK: the watchdog of the core that writes starts again. -/
def execWdogKick (o : Origin) (v : Nat) (s : State) : Host.Outcome State Fault Refusal := .next (write32 o .hm 0x05C v s)
/-- F_IFACE_WRITE. -/
def execFIfaceWrite (o : Origin) (f v : Nat) (s : State) : Host.Outcome State Fault Refusal := onUnit f 64 (write32 o (.hmFn f) 0x040 v s)
/-- TRACE_ENABLE. -/
def execTraceEnable (o : Origin) (v : Nat) (s : State) : Host.Outcome State Fault Refusal := .next (writeIf (bit v 31) o .hm 0x06C v s)
/-- TRACE_DISABLE. -/
def execTraceDisable (o : Origin) (v : Nat) (s : State) : Host.Outcome State Fault Refusal := .next (writeIf (!bit v 31) o .hm 0x06C v s)
/-- TRACE_HEAD_WRITE. -/
def execTraceHeadWrite (o : Origin) (v : Nat) (s : State) : Host.Outcome State Fault Refusal := .next (write32 o .hm 0x074 v s)
/-- EC_DOORBELL. -/
def execEcDoorbell (o : Origin) (v : Nat) (s : State) : Host.Outcome State Fault Refusal := .next (write32 o .ec 0x040 v s)
/-- EOI. -/
def execEoi (o : Origin) (v : Nat) (s : State) : Host.Outcome State Fault Refusal := .next (write32 o .ec 0x044 v s)
/-- FAULT_CLEAR. -/
def execFaultClear (o : Origin) (v : Nat) (s : State) : Host.Outcome State Fault Refusal := .next (writeIf (bit v 31) o .tg 0x040 v s)
/-- REGISTER_READ. -/
def execRegisterRead (o : Origin) (p : Page) (off size : Nat) (s : State) : Host.Outcome State Fault Refusal := .next (access (.read o p off size) s)

end Sys2Proof.Machine
end

