-- ==== Sys2Proof/Machine/Dispatch.lean ====
section
/-! DEFINITION. The meaning of every command: one arm per constructor of Instr, each one direct call. -/

namespace Sys2Proof.Machine

/-- A command's effect on everything but the queue. -/
def exec (i : Instr) (s : State) : Host.Outcome State Fault Refusal :=
  match i with
  | .registerWrite w => Sys2Proof.Machine.execRegisterWrite w s
  | .pageSeal o p v => Sys2Proof.Machine.execPageSeal o p v s
  | .lbTailWrite o v => Sys2Proof.Machine.execLbTailWrite o v s
  | .lbWinSeqWrite o v => Sys2Proof.Machine.execLbWinSeqWrite o v s
  | .lbStatRead o => Sys2Proof.Machine.execLbStatRead o s
  | .vfCounterRead f p off => Sys2Proof.Machine.execVfCounterRead f p off s
  | .byteCounterRead o tier cls wr => Sys2Proof.Machine.execByteCounterRead o tier cls wr s
  | .sqDoorbell f page off size v => Sys2Proof.Machine.execSqDoorbell f page off size v s
  | .cqHeadUpdate f page size v => Sys2Proof.Machine.execCqHeadUpdate f page size v s
  | .fetchTurn sq => Sys2Proof.Machine.execFetchTurn sq s
  | .entryArrival sq n data poison => Sys2Proof.Machine.execEntryArrival sq n data poison s
  | .refetchBackoffExpiry sq => Sys2Proof.Machine.execRefetchBackoffExpiry sq s
  | .dispatch sq => Sys2Proof.Machine.execDispatch sq s
  | .completionRecordWrite k => Sys2Proof.Machine.execCompletionRecordWrite k s
  | .irqTimeExpiry cq => Sys2Proof.Machine.execIrqTimeExpiry cq s
  | .flushReadReturn id => Sys2Proof.Machine.execFlushReadReturn id s
  | .nop k => Sys2Proof.Machine.execNop k s
  | .copy m => Sys2Proof.Machine.execCopy m s
  | .convert m => Sys2Proof.Machine.execConvert m s
  | .quantise m => Sys2Proof.Machine.execQuantise m s
  | .dequantise m => Sys2Proof.Machine.execDequantise m s
  | .gather m => Sys2Proof.Machine.execGather m s
  | .scatter m => Sys2Proof.Machine.execScatter m s
  | .compress m => Sys2Proof.Machine.execCompress m s
  | .decompress m => Sys2Proof.Machine.execDecompress m s
  | .accumulate m => Sys2Proof.Machine.execAccumulate m s
  | .moverAssign m => Sys2Proof.Machine.execMoverAssign m s
  | .moverTile m => Sys2Proof.Machine.execMoverTile m s
  | .lookaheadFill m => Sys2Proof.Machine.execLookaheadFill m s
  | .atsTranslationCompletion id a => Sys2Proof.Machine.execAtsTranslationCompletion id a s
  | .deviceMapWalkDone id => Sys2Proof.Machine.execDeviceMapWalkDone id s
  | .pageRequestResponse f grp c => Sys2Proof.Machine.execPageRequestResponse f grp c s
  | .pageRequestTimeout grp => Sys2Proof.Machine.execPageRequestTimeout grp s
  | .holdWaitTimeout id => Sys2Proof.Machine.execHoldWaitTimeout id s
  | .atsInvalidateRequest link f pasid addr sizeLog2 itag => Sys2Proof.Machine.execAtsInvalidateRequest link f pasid addr sizeLog2 itag s
  | .invalidateCompletion id => Sys2Proof.Machine.execInvalidateCompletion id s
  | .dinvRange o v => Sys2Proof.Machine.execDinvRange o v s
  | .dinvAll o v => Sys2Proof.Machine.execDinvAll o v s
  | .fnDmapRootWrite o f hi v => Sys2Proof.Machine.execFnDmapRootWrite o f hi v s
  | .acClear o v => Sys2Proof.Machine.execAcClear o v s
  | .acDecay => Sys2Proof.Machine.execAcDecay s
  | .fetchAdd k => Sys2Proof.Machine.execFetchAdd k s
  | .swap k => Sys2Proof.Machine.execSwap k s
  | .cas k => Sys2Proof.Machine.execCas k s
  | .fetchMinS k => Sys2Proof.Machine.execFetchMinS k s
  | .fetchMaxS k => Sys2Proof.Machine.execFetchMaxS k s
  | .fetchMinU k => Sys2Proof.Machine.execFetchMinU k s
  | .fetchMaxU k => Sys2Proof.Machine.execFetchMaxU k s
  | .fetchAnd k => Sys2Proof.Machine.execFetchAnd k s
  | .fetchOr k => Sys2Proof.Machine.execFetchOr k s
  | .fetchXor k => Sys2Proof.Machine.execFetchXor k s
  | .fenceScope k => Sys2Proof.Machine.execFenceScope k s
  | .fenceSet k => Sys2Proof.Machine.execFenceSet k s
  | .fbValueWrite o b off size v => Sys2Proof.Machine.execFbValueWrite o b off size v s
  | .fbStatusWrite o b off size v => Sys2Proof.Machine.execFbStatusWrite o b off size v s
  | .queueCreateSq k => Sys2Proof.Machine.execQueueCreateSq k s
  | .queueCreateCq k => Sys2Proof.Machine.execQueueCreateCq k s
  | .queueDestroy k => Sys2Proof.Machine.execQueueDestroy k s
  | .queueDestroyFinish k => Sys2Proof.Machine.execQueueDestroyFinish k s
  | .contextCreate k => Sys2Proof.Machine.execContextCreate k s
  | .contextDestroy k => Sys2Proof.Machine.execContextDestroy k s
  | .contextDrain k => Sys2Proof.Machine.execContextDrain k s
  | .contextDrainFinish k => Sys2Proof.Machine.execContextDrainFinish k s
  | .fenceAlloc k => Sys2Proof.Machine.execFenceAlloc k s
  | .fenceFree k => Sys2Proof.Machine.execFenceFree k s
  | .windowCreate k => Sys2Proof.Machine.execWindowCreate k s
  | .windowDestroy k => Sys2Proof.Machine.execWindowDestroy k s
  | .recipeStore k => Sys2Proof.Machine.execRecipeStore k s
  | .recipeDelete k => Sys2Proof.Machine.execRecipeDelete k s
  | .keySessionOpen k => Sys2Proof.Machine.execKeySessionOpen k s
  | .keySessionClose k => Sys2Proof.Machine.execKeySessionClose k s
  | .streamCreate k => Sys2Proof.Machine.execStreamCreate k s
  | .streamDestroy k => Sys2Proof.Machine.execStreamDestroy k s
  | .adminCfgWrite o f v => Sys2Proof.Machine.execAdminCfgWrite o f v s
  | .churnInline k => Sys2Proof.Machine.execChurnInline k s
  | .churnStored k => Sys2Proof.Machine.execChurnStored k s
  | .windowPlanDone k => Sys2Proof.Machine.execWindowPlanDone k s
  | .sequencerStart cl => Sys2Proof.Machine.execSequencerStart cl s
  | .windowStart e => Sys2Proof.Machine.execWindowStart e s
  | .recipeNop e => Sys2Proof.Machine.execRecipeNop e s
  | .loopb e => Sys2Proof.Machine.execLoopb e s
  | .loope e => Sys2Proof.Machine.execLoope e s
  | .setg e => Sys2Proof.Machine.execSetg e s
  | .ld e => Sys2Proof.Machine.execLd e s
  | .st e => Sys2Proof.Machine.execSt e s
  | .ldb e => Sys2Proof.Machine.execLdb e s
  | .dotb e => Sys2Proof.Machine.execDotb e s
  | .fma e => Sys2Proof.Machine.execFma e s
  | .mul e => Sys2Proof.Machine.execMul e s
  | .add e => Sys2Proof.Machine.execAdd e s
  | .max e => Sys2Proof.Machine.execMax e s
  | .min e => Sys2Proof.Machine.execMin e s
  | .scale e => Sys2Proof.Machine.execScale e s
  | .wfma e => Sys2Proof.Machine.execWfma e s
  | .smax e => Sys2Proof.Machine.execSmax e s
  | .exp e => Sys2Proof.Machine.execExp e s
  | .rcp e => Sys2Proof.Machine.execRcp e s
  | .poly e => Sys2Proof.Machine.execPoly e s
  | .cvt e => Sys2Proof.Machine.execCvt e s
  | .sumx e => Sys2Proof.Machine.execSumx e s
  | .accrnd e => Sys2Proof.Machine.execAccrnd e s
  | .accst e => Sys2Proof.Machine.execAccst e s
  | .accadd e => Sys2Proof.Machine.execAccadd e s
  | .accclr e => Sys2Proof.Machine.execAccclr e s
  | .topk e => Sys2Proof.Machine.execTopk e s
  | .gath e => Sys2Proof.Machine.execGath e s
  | .scat e => Sys2Proof.Machine.execScat e s
  | .fadd e => Sys2Proof.Machine.execFadd e s
  | .xch e => Sys2Proof.Machine.execXch e s
  | .accx e => Sys2Proof.Machine.execAccx e s
  | .bar e => Sys2Proof.Machine.execBar e s
  | .barrierRelease cl => Sys2Proof.Machine.execBarrierRelease cl s
  | .engineFault e => Sys2Proof.Machine.execEngineFault e s
  | .clusterReset cl => Sys2Proof.Machine.execClusterReset cl s
  | .clusterRemap cl => Sys2Proof.Machine.execClusterRemap cl s
  | .clusterResetRequest o cl v => Sys2Proof.Machine.execClusterResetRequest o cl v s
  | .redPack l => Sys2Proof.Machine.execRedPack l s
  | .redMerge l => Sys2Proof.Machine.execRedMerge l s
  | .redRound l => Sys2Proof.Machine.execRedRound l s
  | .redSum l => Sys2Proof.Machine.execRedSum l s
  | .redCompare l => Sys2Proof.Machine.execRedCompare l s
  | .reduceLaneAssign l => Sys2Proof.Machine.execReduceLaneAssign l s
  | .journaledRequest src seq addr tenant req => Sys2Proof.Machine.execJournaledRequest src seq addr tenant req s
  | .journalAck src seq => Sys2Proof.Machine.execJournalAck src seq s
  | .patrolScrub line => Sys2Proof.Machine.execPatrolScrub line s
  | .replicaEnable o v => Sys2Proof.Machine.execReplicaEnable o v s
  | .replicaDisable o v => Sys2Proof.Machine.execReplicaDisable o v s
  | .replicaSyncDone n => Sys2Proof.Machine.execReplicaSyncDone n s
  | .groupModeWrite o off v => Sys2Proof.Machine.execGroupModeWrite o off v s
  | .groupModeApply lpddr g => Sys2Proof.Machine.execGroupModeApply lpddr g s
  | .regulationUpdate occ => Sys2Proof.Machine.execRegulationUpdate occ s
  | .bar2Access a => Sys2Proof.Machine.execBar2Access a s
  | .cxlMemAccess a => Sys2Proof.Machine.execCxlMemAccess a s
  | .hdmCommit d base size dpa ways => Sys2Proof.Machine.execHdmCommit d base size dpa ways s
  | .hostSnoop addr => Sys2Proof.Machine.execHostSnoop addr s
  | .hostReadCompletion id data poison => Sys2Proof.Machine.execHostReadCompletion id data poison s
  | .hostReadTimeout id => Sys2Proof.Machine.execHostReadTimeout id s
  | .hostAtomicTimeout k => Sys2Proof.Machine.execHostAtomicTimeout k s
  | .detach cause => Sys2Proof.Machine.execDetach cause s
  | .detachHoldExpiry => Sys2Proof.Machine.execDetachHoldExpiry s
  | .linkLost l => Sys2Proof.Machine.execLinkLost l s
  | .reattachResume o v => Sys2Proof.Machine.execReattachResume o v s
  | .reattachReset o v => Sys2Proof.Machine.execReattachReset o v s
  | .flr f => Sys2Proof.Machine.execFlr f s
  | .d3hotEntry => Sys2Proof.Machine.execD3hotEntry s
  | .d0Entry => Sys2Proof.Machine.execD0Entry s
  | .idleEntry => Sys2Proof.Machine.execIdleEntry s
  | .wake target => Sys2Proof.Machine.execWake target s
  | .berthEnable o b v => Sys2Proof.Machine.execBerthEnable o b v s
  | .berthDisable o b v => Sys2Proof.Machine.execBerthDisable o b v s
  | .berthEvict o b v => Sys2Proof.Machine.execBerthEvict o b v s
  | .partnerReset o b v => Sys2Proof.Machine.execPartnerReset o b v s
  | .partnerResetRelease b => Sys2Proof.Machine.execPartnerResetRelease b s
  | .berthLinkUp b cxl modules half rate => Sys2Proof.Machine.execBerthLinkUp b cxl modules half rate s
  | .trainLimitExpiry b => Sys2Proof.Machine.execTrainLimitExpiry b s
  | .card b m => Sys2Proof.Machine.execCard b m s
  | .cardTimeout b => Sys2Proof.Machine.execCardTimeout b s
  | .berthLinkDown b => Sys2Proof.Machine.execBerthLinkDown b s
  | .berthDepartureEnd b => Sys2Proof.Machine.execBerthDepartureEnd b s
  | .snoopLimit b => Sys2Proof.Machine.execSnoopLimit b s
  | .invLimit b => Sys2Proof.Machine.execInvLimit b s
  | .contextGrant o b v => Sys2Proof.Machine.execContextGrant o b v s
  | .contextRevoke o b v => Sys2Proof.Machine.execContextRevoke o b v s
  | .rd b m => Sys2Proof.Machine.execRd b m s
  | .wr b m => Sys2Proof.Machine.execWr b m s
  | .bresaAtomic b m => Sys2Proof.Machine.execBresaAtomic b m s
  | .pktAdd b m => Sys2Proof.Machine.execPktAdd b m s
  | .credit b m => Sys2Proof.Machine.execCredit b m s
  | .rdShared b m => Sys2Proof.Machine.execRdShared b m s
  | .rdOwn b m => Sys2Proof.Machine.execRdOwn b m s
  | .evictClean b m => Sys2Proof.Machine.execEvictClean b m s
  | .evictDirty b m => Sys2Proof.Machine.execEvictDirty b m s
  | .snpRsp b m => Sys2Proof.Machine.execSnpRsp b m s
  | .invAck b m => Sys2Proof.Machine.execInvAck b m s
  | .tskDoorbell b m => Sys2Proof.Machine.execTskDoorbell b m s
  | .cqHead b m => Sys2Proof.Machine.execCqHead b m s
  | .fenceSignal b m => Sys2Proof.Machine.execFenceSignal b m s
  | .unbindAck b m => Sys2Proof.Machine.execUnbindAck b m s
  | .event b m => Sys2Proof.Machine.execEvent b m s
  | .pwrRequest b m => Sys2Proof.Machine.execPwrRequest b m s
  | .pwrRelease b m => Sys2Proof.Machine.execPwrRelease b m s
  | .leave b m => Sys2Proof.Machine.execLeave b m s
  | .trace b m => Sys2Proof.Machine.execTrace b m s
  | .cxlPartnerRequest b addr data own => Sys2Proof.Machine.execCxlPartnerRequest b addr data own s
  | .berthTimeTimer => Sys2Proof.Machine.execBerthTimeTimer s
  | .linkEnable o l v => Sys2Proof.Machine.execLinkEnable o l v s
  | .lanesLocked l => Sys2Proof.Machine.execLanesLocked l s
  | .hello l h => Sys2Proof.Machine.execHello l h s
  | .sessionUp l ok => Sys2Proof.Machine.execSessionUp l ok s
  | .flitReceive l k => Sys2Proof.Machine.execFlitReceive l k s
  | .laneLockLost l => Sys2Proof.Machine.execLaneLockLost l s
  | .retrainDone l => Sys2Proof.Machine.execRetrainDone l s
  | .linkRetrainExpiry l => Sys2Proof.Machine.execLinkRetrainExpiry l s
  | .linkRekey l => Sys2Proof.Machine.execLinkRekey l s
  | .announceTimer => Sys2Proof.Machine.execAnnounceTimer s
  | .announce l cand hops beat => Sys2Proof.Machine.execAnnounce l cand hops beat s
  | .electTimeExpiry => Sys2Proof.Machine.execElectTimeExpiry s
  | .mgrTimeout => Sys2Proof.Machine.execMgrTimeout s
  | .winWaitExpiry k => Sys2Proof.Machine.execWinWaitExpiry k s
  | .idRequest l m => Sys2Proof.Machine.execIdRequest l m s
  | .windowRegister hub win tag m rights allowId allowMask => Sys2Proof.Machine.execWindowRegister hub win tag m rights allowId allowMask s
  | .resolve src target tag a => Sys2Proof.Machine.execResolve src target tag a s
  | .remoteRequest r => Sys2Proof.Machine.execRemoteRequest r s
  | .plan link src tag hops pages => Sys2Proof.Machine.execPlan link src tag hops pages s
  | .remoteAck tag status detail data poison => Sys2Proof.Machine.execRemoteAck tag status detail data poison s
  | .forward r => Sys2Proof.Machine.execForward r s
  | .timeSyncExchange l behind offset => Sys2Proof.Machine.execTimeSyncExchange l behind offset s
  | .avtpFrame l f => Sys2Proof.Machine.execAvtpFrame l f s
  | .gptpFrame l gtime => Sys2Proof.Machine.execGptpFrame l gtime s
  | .frameDropped l => Sys2Proof.Machine.execFrameDropped l s
  | .streamSlot => Sys2Proof.Machine.execStreamSlot s
  | .spdmGetVersion => Sys2Proof.Machine.execSpdmGetVersion s
  | .spdmGetCapabilities => Sys2Proof.Machine.execSpdmGetCapabilities s
  | .spdmNegotiateAlgorithms => Sys2Proof.Machine.execSpdmNegotiateAlgorithms s
  | .spdmGetDigests => Sys2Proof.Machine.execSpdmGetDigests s
  | .spdmGetCertificate slot off len => Sys2Proof.Machine.execSpdmGetCertificate slot off len s
  | .spdmChallenge nonce => Sys2Proof.Machine.execSpdmChallenge nonce s
  | .spdmKeyExchange reqId => Sys2Proof.Machine.execSpdmKeyExchange reqId s
  | .spdmFinish session ok => Sys2Proof.Machine.execSpdmFinish session ok s
  | .spdmKeyUpdate session => Sys2Proof.Machine.execSpdmKeyUpdate session s
  | .spdmHeartbeat session => Sys2Proof.Machine.execSpdmHeartbeat session s
  | .spdmEndSession session => Sys2Proof.Machine.execSpdmEndSession session s
  | .spdmUnsupportedRequest code => Sys2Proof.Machine.execSpdmUnsupportedRequest code s
  | .retag o v => Sys2Proof.Machine.execRetag o v s
  | .retagDone => Sys2Proof.Machine.execRetagDone s
  | .teardownLimitExpiry f => Sys2Proof.Machine.execTeardownLimitExpiry f s
  | .teardownKeyZero f => Sys2Proof.Machine.execTeardownKeyZero f s
  | .teardownDone f => Sys2Proof.Machine.execTeardownDone f s
  | .boot trngOk tierHbm tierLpddr debugToken => Sys2Proof.Machine.execBoot trngOk tierHbm tierLpddr debugToken s
  | .wholeDieReset cause => Sys2Proof.Machine.execWholeDieReset cause s
  | .dieResetWrite o v => Sys2Proof.Machine.execDieResetWrite o v s
  | .svnCommit o v => Sys2Proof.Machine.execSvnCommit o v s
  | .flashRead o v => Sys2Proof.Machine.execFlashRead o v s
  | .flashErase o v => Sys2Proof.Machine.execFlashErase o v s
  | .flashProgram o v => Sys2Proof.Machine.execFlashProgram o v s
  | .flashDone deviceErr => Sys2Proof.Machine.execFlashDone deviceErr s
  | .wdogKick o v => Sys2Proof.Machine.execWdogKick o v s
  | .watchdogExpiry c => Sys2Proof.Machine.execWatchdogExpiry c s
  | .coreCrash c cause => Sys2Proof.Machine.execCoreCrash c cause s
  | .coreReload c imageOk => Sys2Proof.Machine.execCoreReload c imageOk s
  | .fIfaceWrite o f v => Sys2Proof.Machine.execFIfaceWrite o f v s
  | .traceEnable o v => Sys2Proof.Machine.execTraceEnable o v s
  | .traceDisable o v => Sys2Proof.Machine.execTraceDisable o v s
  | .traceHeadWrite o v => Sys2Proof.Machine.execTraceHeadWrite o v s
  | .ecDoorbell o v => Sys2Proof.Machine.execEcDoorbell o v s
  | .ecDeliver c => Sys2Proof.Machine.execEcDeliver c s
  | .eoi o v => Sys2Proof.Machine.execEoi o v s
  | .vinAonApplied => Sys2Proof.Machine.execVinAonApplied s
  | .railPg n => Sys2Proof.Machine.execRailPg n s
  | .railPgTimeout n => Sys2Proof.Machine.execRailPgTimeout n s
  | .keelLock => Sys2Proof.Machine.execKeelLock s
  | .keelLockLoss => Sys2Proof.Machine.execKeelLockLoss s
  | .staggerEnable => Sys2Proof.Machine.execStaggerEnable s
  | .rampDone => Sys2Proof.Machine.execRampDone s
  | .adcSample ch v => Sys2Proof.Machine.execAdcSample ch v s
  | .tgDigitalInput n => Sys2Proof.Machine.execTgDigitalInput n s
  | .checkpointDone => Sys2Proof.Machine.execCheckpointDone s
  | .faultClear o v => Sys2Proof.Machine.execFaultClear o v s
  | .tclkEdge => Sys2Proof.Machine.execTclkEdge s
  | .powerEstimate hubW pkgHi pkgLo => Sys2Proof.Machine.execPowerEstimate hubW pkgHi pkgLo s
  | .globalObservationResponse id => Sys2Proof.Machine.execGlobalObservationResponse id s
  | .backInvalidateResponse line dirty => Sys2Proof.Machine.execBackInvalidateResponse line dirty s
  | .hostAtomicCompletion k a => Sys2Proof.Machine.execHostAtomicCompletion k a s
  | .hostLinkUp l cxl width rate => Sys2Proof.Machine.execHostLinkUp l cxl width rate s
  | .linkDisable o l v => Sys2Proof.Machine.execLinkDisable o l v s
  | .gptpSync l => Sys2Proof.Machine.execGptpSync l s
  | .vinAonRemoved => Sys2Proof.Machine.execVinAonRemoved s
  | .mainRailsFail => Sys2Proof.Machine.execMainRailsFail s
  | .registerRead o p off size => Sys2Proof.Machine.execRegisterRead o p off size s
  | .configSpaceWrite link w => Sys2Proof.Machine.execConfigSpaceWrite link w s
  | .svnCommitDone => Sys2Proof.Machine.execSvnCommitDone s

end Sys2Proof.Machine
end

