-- ==== Sys2Proof/Safety.lean ====
section
/-! DEFINITION. The terms safety statements use: canonical memory, and when a register write takes effect. -/

namespace Sys2Proof.Machine

/-- Device memory is in its canonical form. -/
def memoryCanonical (s : State) : Prop := Memory.wf s.mem.bytes

/-- Whether the 32-bit registers of a page at an offset are written under the rules of R9: no MSI-X entry, no ROM, no fence value, no pending-bit array, no page
of BAR0 or BAR4 named by its number. -/
def plainPage (p : Page) (off : Nat) : Bool :=
  match p with
  | .mf | .annex | .msix .. | .pba _ | .bar0 _ | .bar4 _ => false
  | .qeFb _ => off + 4 ≤ 0x800
  | _ => true

/-- Whether an origin's register access is not held behind a host's posted writes (R440). -/
abbrev inTurn (s : State) (o : Origin) : Prop := ((o.cls = .hostPf || o.cls = .hostVf) && hostLate s) = false

/-- A write that takes effect: it is its turn (R440), its origin is up, a core's protection regions hold the register (R494), the page admits it (R35, R36), and the
Logbook has room for its entry (R47). -/
def canWrite (s : State) (o : Origin) (p : Page) (off : Nat) : Prop :=
  inTurn s o ∧ originUp s o = true ∧ pageExists p = true ∧ mpuDenies s o p off 4 true = none ∧ admitted s o p off = true ∧ logFull s = false

/-- A line of hub SRAM that tenant t may use and that nothing damages, caches, replicates or waits for. -/
def quietLine (s : State) (line t : Nat) : Prop :=
  line < 0x1FE000000 ∧ line % 64 = 0 ∧ tagPasses s line t false = true ∧ sfEntry s line = none ∧ snoopOpen s line = false
    ∧ s.mem.hostCopies.contains line = false ∧ nextFor s line = none ∧ mget s.mem.poison line = none
    ∧ s.mem.uncorrectable.contains line = false ∧ s.mem.correctable.contains line = false ∧ replicaAt s line = none

/-- A command with its end: status, DETAIL, DONE and FAULT_ADDR (R80). -/
def Cmd.ended (c : Cmd) (status detail done fault : Nat) : Cmd :=
  { c with phase := .finished, status := status, detail := detail, done := done, fault := fault }

/-- A message of a class and type that reaches the awake hub through an active, unpaired berth with nothing waiting, and that R361 admits. -/
def berthHears (s : State) (b : Nat) (m : BresaMsg) (cls typ : Nat) : Prop :=
  (getBerth s b).st = 3 ∧ (getBerth s b).cxl = false ∧ (getBerth s b).paired = false ∧ (getBerth s b).waiting = []
    ∧ bresaBad (getBerth s b) m = false ∧ m.cls = cls ∧ m.typ = typ ∧ s.sl.h = 0 ∧ s.sl.ramp = none

/-- The CREDIT that gives a message's credits back (R359). -/
def creditMsg (m : BresaMsg) : BresaMsg := bmsg m.cls 0 0 0 0 0 0 (creditNeed m) [] false

/-- A step does not stop. -/
def goesOn (o : Host.Outcome State Fault Refusal) : Prop := ∃ t, o = .next t

end Sys2Proof.Machine
end

