-- ==== Sys2Proof/WellFormed.lean ====
section
/-! DEFINITION. Which commands are well formed: they name units, pages and sizes the hub has. A command that is not is a fault
(noSuchUnit) or has no effect; nothing else in the model depends on this file. -/

namespace Sys2Proof

/-- Whether an origin exists (R34, R486). -/
def Origin.wf (o : Origin) : Bool :=
  match o.cls with
  | .hostPf | .keeper => o.ident = 0
  | .hostVf => 1 ≤ o.ident && o.ident < 64
  | .hmFw => 1 ≤ o.ident && o.ident ≤ 7
  | .regionFw => o.ident < 16
  | .partner => o.ident < 8
  | .peer | .debug => o.ident < 4096

/-- Whether a page is one the hub has, or a place in BAR0 or BAR4 (R22, R70, R439). -/
def Page.wf (p : Page) : Bool :=
  match p with
  | .bar0 n => n < 65536
  | .bar4 n => n < 8192
  | p => Machine.pageExists p

/-- Whether a register write names a page that exists and stays within it. -/
def RegWr.wf (w : RegWr) : Bool :=
  w.org.wf && w.page.wf && w.off + w.size ≤ 4096 && 1 ≤ w.size && w.size ≤ 8 && w.val < 2 ^ (8 * w.size)

/-- Whether a Bresa message's fields fit its header and its payload has LEN lines (R357). -/
def BresaMsg.wf (m : BresaMsg) : Bool :=
  m.cls < 8 && m.typ < 32 && m.len ≤ 4 && m.payload.length = 64 * m.len && m.tag < 2 ^ 16 && m.ctx < 2 ^ 16 && m.addr < 2 ^ 64 && m.aux < 2 ^ 64

/-- Whether a 32-bit value is one. -/
def word32 (v : Nat) : Bool := v < 2 ^ 32

/-- Whether a command is well formed. -/
def Instr.wf : Instr → Bool
  | .registerWrite w => w.wf
  | .pageSeal o p v => o.wf && Machine.pageExists p && word32 v
  | .lbTailWrite o v | .lbWinSeqWrite o v | .dinvRange o v | .dinvAll o v | .acClear o v | .replicaEnable o v | .replicaDisable o v
  | .reattachResume o v | .reattachReset o v | .retag o v | .dieResetWrite o v | .svnCommit o v | .flashRead o v | .flashErase o v
  | .flashProgram o v | .wdogKick o v | .traceEnable o v | .traceDisable o v | .traceHeadWrite o v | .ecDoorbell o v | .eoi o v
  | .faultClear o v => o.wf && word32 v
  | .groupModeWrite o off v => o.wf && word32 v && (off = 0x040 || off = 0x044 || off = 0x048)
  | .lbStatRead o => o.wf
  | .vfCounterRead f p off => 1 ≤ f && f < 64 && Machine.pageExists p && off < 4096
  | .byteCounterRead o tier cls _ => o.wf && tier < 3 && cls < 8
  | .registerRead o p off size => o.wf && p.wf && off + size ≤ 4096
  | .sqDoorbell f page off size v => f < 64 && page < 8192 && off + size ≤ 4096 && v < 2 ^ (8 * size)
  | .cqHeadUpdate f page size v => f < 64 && page < 8192 && size ≤ 8 && v < 2 ^ (8 * size)
  | .fbValueWrite o b off size v => o.wf && b < 256 && off + size ≤ 2048 && v < 2 ^ (8 * size)
  | .fbStatusWrite o b off size v => o.wf && b < 256 && off + size ≤ 256 && v < 2 ^ (8 * size)
  | .fnDmapRootWrite o f _ v | .adminCfgWrite o f v | .fIfaceWrite o f v => o.wf && f < 64 && word32 v
  | .clusterResetRequest o cl v => o.wf && cl < 512 && word32 v
  | .berthEnable o b v | .berthDisable o b v | .berthEvict o b v | .partnerReset o b v | .contextGrant o b v | .contextRevoke o b v =>
    o.wf && b < 8 && word32 v
  | .linkEnable o l v | .linkDisable o l v => o.wf && l < 48 && word32 v
  | .fetchTurn q | .refetchBackoffExpiry q | .dispatch q | .irqTimeExpiry q => q < 8192
  | .entryArrival q _ data _ => q < 8192 && data.length = 128
  | .copy m | .convert m | .quantise m | .dequantise m | .gather m | .scatter m | .compress m | .decompress m | .accumulate m
  | .moverAssign m | .moverTile m | .lookaheadFill m => m < 64
  | .redPack l | .redMerge l | .redRound l | .redSum l | .redCompare l | .reduceLaneAssign l => l < 8
  | .windowStart e | .recipeNop e | .loopb e | .loope e | .setg e | .ld e | .st e | .ldb e | .dotb e | .fma e | .mul e | .add e | .max e
  | .min e | .scale e | .wfma e | .smax e | .exp e | .rcp e | .poly e | .cvt e | .sumx e | .accrnd e | .accst e | .accadd e | .accclr e
  | .topk e | .gath e | .scat e | .fadd e | .xch e | .accx e | .bar e | .engineFault e => e < 32768
  | .sequencerStart cl | .barrierRelease cl | .clusterReset cl | .clusterRemap cl => cl < 512
  | .completionRecordWrite _ | .flushReadReturn _ | .nop _ | .deviceMapWalkDone _ | .pageRequestTimeout _ | .holdWaitTimeout _
  | .invalidateCompletion _ | .acDecay | .fetchAdd _ | .swap _ | .cas _ | .fetchMinS _ | .fetchMaxS _ | .fetchMinU _ | .fetchMaxU _
  | .fetchAnd _ | .fetchOr _ | .fetchXor _ | .fenceScope _ | .fenceSet _ | .queueCreateSq _ | .queueCreateCq _ | .queueDestroy _
  | .queueDestroyFinish _ | .contextCreate _ | .contextDestroy _ | .contextDrain _ | .contextDrainFinish _ | .fenceAlloc _ | .fenceFree _
  | .windowCreate _ | .windowDestroy _ | .recipeStore _ | .recipeDelete _ | .keySessionOpen _ | .keySessionClose _ | .streamCreate _
  | .streamDestroy _ | .churnInline _ | .churnStored _ | .windowPlanDone _ | .journalAck _ _ | .patrolScrub _ | .hostSnoop _
  | .hostReadTimeout _ | .hostAtomicTimeout _ | .detachHoldExpiry | .d3hotEntry | .d0Entry | .idleEntry | .berthTimeTimer | .announceTimer
  | .electTimeExpiry | .mgrTimeout | .winWaitExpiry _ | .streamSlot | .spdmGetVersion | .spdmGetCapabilities | .spdmNegotiateAlgorithms
  | .spdmGetDigests | .spdmGetCertificate _ _ _ | .spdmChallenge _ | .spdmKeyExchange _ | .spdmFinish _ _ | .spdmKeyUpdate _
  | .spdmHeartbeat _ | .spdmEndSession _ | .spdmUnsupportedRequest _ | .retagDone | .boot _ _ _ _ | .flashDone _ | .vinAonApplied
  | .keelLock | .keelLockLoss | .staggerEnable | .rampDone | .checkpointDone | .tclkEdge | .powerEstimate _ _ _
  | .globalObservationResponse _ | .backInvalidateResponse _ _ | .hostAtomicCompletion _ _ | .vinAonRemoved | .mainRailsFail
  | .svnCommitDone => true
  | .atsTranslationCompletion _ (.xlate _ n _ _) => 12 ≤ n && n < 64
  | .atsTranslationCompletion _ .error => true
  | .pageRequestResponse f grp _ => f < 64 && grp < 512
  | .atsInvalidateRequest link f _ _ n itag => link < 4 && f < 64 && n < 65 && itag < 32
  | .journaledRequest _ seq addr tenant _ => seq < 2 ^ 24 && addr < 2 ^ 48 && tenant < 64
  | .replicaSyncDone i => i < 16
  | .groupModeApply lpddr g => g < if lpddr then 31 else 62
  | .regulationUpdate occ => occ.length = 16
  | .bar2Access a | .cxlMemAccess a => a.link < 4
  | .hdmCommit d _ _ _ _ => d < 8
  | .hostReadCompletion _ data _ => data.length ≤ 256
  | .detach cause => 1 ≤ cause && cause ≤ 3
  | .linkLost l => l < 4
  | .flr f | .teardownLimitExpiry f | .teardownKeyZero f | .teardownDone f => f < 64
  | .wake target => target ≤ 3
  | .partnerResetRelease b | .trainLimitExpiry b | .cardTimeout b | .berthLinkDown b | .berthDepartureEnd b | .snoopLimit b | .invLimit b =>
    b < 8
  | .berthLinkUp b _ modules half rate => b < 8 && modules < 16 && half < 16 && rate < 8
  | .card b m | .rd b m | .wr b m | .bresaAtomic b m | .pktAdd b m | .credit b m | .rdShared b m | .rdOwn b m | .evictClean b m
  | .evictDirty b m | .snpRsp b m | .invAck b m | .tskDoorbell b m | .cqHead b m | .fenceSignal b m | .unbindAck b m | .event b m
  | .pwrRequest b m | .pwrRelease b m | .leave b m | .trace b m => b < 8 && m.wf
  | .cxlPartnerRequest b addr _ _ => b < 8 && addr < 2 ^ 64
  | .lanesLocked l | .laneLockLost l | .retrainDone l | .linkRetrainExpiry l | .linkRekey l | .frameDropped l | .gptpSync l => l < 48
  | .hello l h => l < 48 && h.id.getD 0 < 4096
  | .sessionUp l _ | .flitReceive l _ => l < 48
  | .announce l cand hops _ => l < 48 && cand < 4097 && hops < 256
  | .idRequest l m => l < 48 && (match m with | .ask x => x.getD 0 < 4096 | .assign id => id < 4096 | .refused => true)
  | .windowRegister hub _ tag _ rights _ _ => hub < 4096 && tag < 2 ^ 32 && rights < 8
  | .resolve src target _ _ => src < 4096 && target < 4096
  | .remoteRequest r | .forward r => r.link < 48 && r.src < 4096 && r.dst < 4096
  | .plan link src _ hops pages => link < 48 && src < 4096 && hops < 16 && pages.all fun p => p.win < 4096 && p.off < 2 ^ 35 && p.rights < 8
  | .remoteAck _ status _ _ _ => status < 256
  | .timeSyncExchange l _ _ | .gptpFrame l _ => l < 48
  | .avtpFrame l f => l < 48 && f.kind < 2
  | .watchdogExpiry c | .coreReload c _ | .ecDeliver c => c < 24
  | .coreCrash c cause => c < 24 && 1 ≤ cause && cause ≤ 5
  | .railPg i | .railPgTimeout i => i < 4
  | .adcSample ch v => ch < 19 && v < 4096
  | .tgDigitalInput i => 32 ≤ i && i < 36
  | .wholeDieReset cause => cause ≤ 10
  | .hostLinkUp l _ width rate => l < 4 && width < 8 && rate < 8
  | .configSpaceWrite link _ => link < 4

end Sys2Proof
end

