-- ==== Sys2Proof/Certificates/Slice0/Obligations.lean ====
section
/-! DEFINITION. The statements for the provers, in the order of OBLIGATIONS.json. -/

open Sys2Proof Sys2Proof.Machine

/-- One step takes the command at the front of the queue and is that command's effect on the state with the rest of the queue; with
nothing waiting the hub idles (the model's choice, log entry 1). -/
def Obligations.StepRunsTheFrontCommand : Prop :=
  (∀ (s : State) (c : Instr) (rest : List Instr), s.pending = c :: rest → step s = exec c { s with pending := rest })
  ∧ ∀ s : State, s.pending = [] → step s = .next s

/-- Every command that names units, pages and sizes the hub has answers a next state, whatever the state: no command stops on ordinary
data. -/
def Obligations.WellFormedCommandsAnswer : Prop :=
  ∀ (c : Instr) (s : State), c.wf = true → ∃ t, exec c s = .next t

/-- A command that names a unit beyond those the hub has is stopped by name (the model's choice, log entry 3); the same commands with a unit
the hub has go on. -/
def Obligations.UnitsBeyondTheHubStop : Prop :=
  ∀ (s : State) (n : Nat),
    (64 ≤ n → exec (.moverTile n) s = .fault .noSuchUnit ∧ exec (.flr n) s = .fault .noSuchUnit)
    ∧ (512 ≤ n → exec (.clusterReset n) s = .fault .noSuchUnit)
    ∧ (48 ≤ n → exec (.linkRekey n) s = .fault .noSuchUnit)
    ∧ (8 ≤ n → exec (.cardTimeout n) s = .fault .noSuchUnit)
    ∧ (n < 8 → ∃ t, exec (.cardTimeout n) s = .next t)

/-- An admitted write of an address-window register of the Gangway, at offsets 0x080 to 0x17C, writes the register's RW bits and leaves its
other bits, and its Logbook entry holds the time, the origin, the register's value before and after the write, and flag bit 2 where a
reserved bit was written as one (R9, R38, R40). Apart from this register and the page's PAGE_SEQ no register changes, and nothing
outside the register file and the Logbook. -/
def Obligations.RegisterWriteIsLoggedAndStored : Prop :=
  ∀ (s : State) (o : Origin) (off v : Nat), canWrite s o .gw off → off % 4 = 0 → 0x080 ≤ off → off < 0x180 → v < 2 ^ 32 →
    let m := if off % 16 = 0 then 0xFFFF8003 else if off % 16 = 8 then 0xFFFF0000 else w32
    let old := regValue s .gw off
    let new := (old &&& (w32 ^^^ m)) ||| (v &&& m)
    ∃ t, exec (.registerWrite ⟨o, .gw, off, 4, v⟩) s = .next t
      ∧ t = { s with regs := t.regs, lb := t.lb }
      ∧ getReg t .gw 0 off = new ∧ getReg t .gw 0 0x028 = s.lb.seq % 2 ^ 32
      ∧ (∀ k, k ≠ regKey .gw 0 off → k ≠ regKey .gw 0 0x028 → mget t.regs k = mget s.regs k)
      ∧ t.lb = { s.lb with seq := (s.lb.seq + 1) % 2 ^ 32, ring := t.lb.ring }
      ∧ t.lb.ring.head? = some { seq := s.lb.seq, time := s.time.toNat, origin := o, flags := 4 * b2n (decide ((v &&& (w32 ^^^ m)) ≠ 0)),
                                 page := some .gw, off := off, old := old, new := new }

/-- A write whose class OWNER does not admit, or a debug write while SP.DEBUG.UNLOCKED is clear, is dropped: it leaves the register, and every
other but PAGE_SEQ, unchanged and is logged with the dropped flag, the value before it and the value written, and the race flag where the register has moved since it was last read (R43). For a write by the debug class
ERR_CAP, if free, captures code 0xFFF with the write's origin (R35, R40). -/
def Obligations.WriteOfAnUnadmittedClassIsDropped : Prop :=
  ∀ (s : State) (o : Origin) (p : Page) (off v : Nat),
    inTurn s o → originUp s o = true → pageExists p = true → mpuDenies s o p off 4 true = none → plainPage p off = true → off % 4 = 0 → off + 4 ≤ 4096 →
    v < 2 ^ 32 → (ownerAdmits s o p = false ∨ (o.cls = .debug ∧ debugUnlocked s = false)) → viewHolds s o p = true → logFull s = false →
    let captures := o.cls = .debug ∧ bit (getReg s p 0 0x024) 31 = false
    ∃ t, exec (.registerWrite ⟨o, p, off, 4, v⟩) s = .next t
      ∧ t = { s with regs := t.regs, tg := { s.tg with regs := t.tg.regs }, lb := t.lb }
      ∧ (∀ k, k ≠ regKey p 0 0x028 → ¬(captures ∧ k = regKey p 0 0x024) → mget t.regs k = mget s.regs k ∧ mget t.tg.regs k = mget s.tg.regs k)
      ∧ (captures → getReg t p 0 0x024 = 2 ^ 31 + 0xFFF * 2 ^ 16 + originCode o)
      ∧ t.lb = { s.lb with seq := (s.lb.seq + 1) % 2 ^ 32, ring := t.lb.ring }
      ∧ t.lb.ring.head? = some { seq := s.lb.seq, time := s.time.toNat, origin := o, flags := 1 + 8 * b2n (raced s p off (regValue s p off)), page := some p,
                                 off := off, old := regValue s p off, new := v }

/-- A configuration write that finds the ring full under hold, admitted or not, applies nothing, writes no entry, increments LB.HOLD_DROP and raises the
log-full event; a firmware access ends with an error response, a host's with none (R47). -/
def Obligations.WriteUnderAFullHeldLogIsRefused : Prop :=
  ∀ (s : State) (o : Origin) (p : Page) (off v : Nat),
    inTurn s o → originUp s o = true → pageExists p = true → mpuDenies s o p off 4 true = none → plainPage p off = true → off % 4 = 0 → off + 4 ≤ 4096 →
    logExempt p off = false → logHolds s = true → logFull s = true →
    ∃ t, exec (.registerWrite ⟨o, p, off, 4, v⟩) s = .next t
      ∧ t = { s with regs := t.regs, tg := { s.tg with regs := t.tg.regs }, ec := t.ec, out := t.out }
      ∧ getReg t .lb 0 0x04C = (getReg s .lb 0 0x04C + 1) % 2 ^ 32
      ∧ bit (getReg t .lb 0 0x018) 0 = true
      ∧ t.out = (if isFw o then [.coreError o] else []) ++ s.out

/-- PAGE_SEAL: an admitted write with bit 0 set to a page's lock register leaves bit 0 set, and so does every admitted write of any value that
follows it (R30, R33). -/
def Obligations.PageSealStaysSet : Prop :=
  ∀ (s : State) (o : Origin) (p : Page) (v : Nat), canWrite s o p 0x00C → plainPage p 0x00C = true → bit v 0 = true → v < 2 ^ 32 →
    (∃ t, exec (.pageSeal o p v) s = .next t ∧ pageSealed t p = true ∧ t.lb.seq = (s.lb.seq + 1) % 2 ^ 32)
    ∧ ∀ w, w < 2 ^ 32 → pageSealed s p = true → ∃ t, exec (.registerWrite ⟨o, p, 0x00C, 4, w⟩) s = .next t ∧ pageSealed t p = true

/-- The Logbook's own page: an admitted write of LB.TAIL moves the tail unless it goes backward or past LB.SEQ, when it is ignored; a write of
LB.WIN_SEQ sets it; neither is logged (R39, R48, R49). A read of LB.STAT returns DENIED, OVERRUN and FULL and then clears the first
two (R44). -/
def Obligations.LogbookPageCommands : Prop :=
  (∀ (s : State) (o : Origin) (v : Nat), canWrite s o .lb 0x044 → v < 2 ^ 32 →
    exec (.lbTailWrite o v) s =
      .next (if (v + 2 ^ 32 - s.lb.tail) % 2 ^ 32 ≤ s.lb.unread then { s with lb := { s.lb with tail := v } } else s))
  ∧ (∀ (s : State) (o : Origin) (v : Nat), canWrite s o .lb 0x060 → v < 2 ^ 32 →
    ∃ t, exec (.lbWinSeqWrite o v) s = .next t ∧ t = { s with regs := t.regs } ∧ getReg t .lb 0 0x060 = v
      ∧ ∀ k, k ≠ regKey .lb 0 0x060 → mget t.regs k = mget s.regs k)
  ∧ ∀ (s : State) (o : Origin), inTurn s o → originUp s o = true → mpuDenies s o .lb 0x014 4 false = none → shows s o .lb 0x014 = true → o.cls ≠ .hostVf →
    exec (.lbStatRead o) s = .next { s with
      lb := { s.lb with denied := false, overrun := false },
      out := .regRead o .lb 0x014 ((if bit (getReg s .lb 0 0x024) 31 then 2 ^ 31 else 0) + 4 * b2n s.lb.denied + 2 * b2n s.lb.overrun
        + b2n (logFull s)) :: s.out }

/-- Reads of registers. REGISTER_READ returns to the PF or the firmware the register's value, and to a class whose view does not hold the
page zero, with no effect; a host's read that follows a BAR2 write still waiting at its home waits for it, unsampled, and in its turn (R440); a core's read outside
its protection regions is a crash of that core with cause MPU (R493, R497). BYTE_COUNTER_READ of a LO half returns the low 32 bits of the count and latches the high 32 bits (R348).
VF_COUNTER_READ of its own function's TU counter returns the value latched at the last 1 ms boundary with bits 9 to 0 zero (R483). -/
def Obligations.CounterAndRegisterReads : Prop :=
  (∀ (s : State) (o : Origin) (p : Page) (off : Nat), originUp s o = true → pageExists p = true → off % 4 = 0 → off + 4 ≤ 4096 →
    let s' := match p with | .msix .. => wakeUp s | _ => s
    let answer := Out.regRead o p off (if shows s' o p off then seenValue s' o p off % 2 ^ 32 else 0)
    let queue := s.gw.later ++ [(s.mem.nextOp, HostReg.read o p off 4)]
    (inTurn s o → mpuDenies s o p off 4 false = none → shows s' o p off = false →
        exec (.registerRead o p off 4) s = .next { s' with out := answer :: s'.out })
      ∧ (inTurn s o → mpuDenies s o p off 4 false = none → ∃ t, exec (.registerRead o p off 4) s = .next t ∧ t.out = answer :: s'.out)
      ∧ (∀ c, inTurn s o → mpuDenies s o p off 4 false = some c → exec (.registerRead o p off 4) s = .next (crash c 2 s))
      ∧ (o.cls = .hostPf ∨ o.cls = .hostVf → queue.head?.all (fun w => postedBefore s w.1) = true →
        exec (.registerRead o p off 4) s = .next { s with gw := { s.gw with later := queue } }))
  ∧ (∀ (s : State) (o : Origin) (tier cls : Nat), inTurn s o → originUp s o = true → mpuDenies s o .ms (0x200 + 16 * (8 * tier + cls)) 4 false = none →
    shows s o .ms (0x200 + 16 * (8 * tier + cls)) = true → o.cls ≠ .hostVf → tier < 3 → cls < 8 →
    let i := 2 * (2 * (8 * tier + cls))
    exec (.byteCounterRead o tier cls false) s = .next { s with
      mem := { s.mem with hiLatch := mset s.mem.hiLatch i (mgetD s.mem.counts i 0 / 2 ^ 32) },
      out := .regRead o .ms (0x200 + 16 * (8 * tier + cls)) (mgetD s.mem.counts i 0 % 2 ^ 32) :: s.out })
  ∧ ∀ (s : State) (f off : Nat), 1 ≤ f → f < 64 → inTurn s (fnOrigin f) → originUp s (fnOrigin f) = true → shows s (fnOrigin f) (.tuFn f) off = true →
    off = 0x048 ∨ off = 0x04C →
    exec (.vfCounterRead f (.tuFn f) off) s = .next { s with
      out := .regRead (fnOrigin f) (.tuFn f) off ((mgetD s.latched (regKey (.tuFn f) 0 off) 0).toNat / 1024 * 1024) :: s.out }

/-- SQ_DOORBELL of the owner of a host-owned SQ slot (R70, R72, R73). A doorbell whose tail lies inside the ring and whose stamp is that of
the last of the k new entries raises the slot's entry count by k, and restarts a stalled fetch at the entry to be checked next with a
fresh try count; with k zero it is only counted. A tail outside the ring or another stamp increments QE.DB_BAD and leaves every queue
as it was (here with the function's admin queues not live, so that the event record is dropped, R573). A write to a slot the function
does not own, at another offset, or narrower than 32 bits is dropped, increments QE.DB_BAD and is not counted. The access wakes a
sleeping hub first (R446); it follows no posted write that still waits (R440). The SQ's state holds no uncorrectable error; one that it holds is a Keeper crash instead (R555). -/
def Obligations.SqDoorbellAdvancesTheQueue : Prop :=
  ∀ (s : State) (f page size v : Nat), s.sl.power = 6 → fnReaches s f = true → hostLate s = false → page < 8192 →
    let bad := fun t : State => getReg t .qe 0 0x05C = (getReg s .qe 0 0x05C + 1) % 2 ^ 32 ∧ t.qe = s.qe ∧ bit (getReg t .qe 0 0x018) 0 = true
    (∀ sq, mget s.qe.sqs page = some sq → sq.f = f → sq.berth = none → (size = 4 ∨ size = 8) → v < 2 ^ (8 * size) →
      spoilt s [.sq page] = false →
      let depth := 2 ^ sq.log2
      let tail := v % 2 ^ 16
      let k := (tail + depth - sq.tailCount % depth) % depth
      let good := decide (v / 2 ^ 16 % 2 ^ 16 = stampOf (sq.tailCount + k - 1))
      (tail < depth → k ≠ 0 → good = true →
        exec (.sqDoorbell f page 0 size v) s = .next (updSq page (fun q => { q with
          tailCount := q.tailCount + k, stalled := false, tries := if q.stalled then 0 else q.tries,
          fetchNext := if q.stalled then q.next + q.ready.length else q.fetchNext }) (countDoorbell (wakeUp s))))
      ∧ (tail < depth → k = 0 → exec (.sqDoorbell f page 0 size v) s = .next (countDoorbell (wakeUp s)))
      ∧ (depth ≤ tail ∨ (k ≠ 0 ∧ good = false) → bit (getReg s (.qeFn f) 0 0x050) 31 = false →
          ∃ t, exec (.sqDoorbell f page 0 size v) s = .next t ∧ bad t ∧ t.lb.doorbells = (s.lb.doorbells + 1) % 2 ^ 64))
    ∧ (∀ sq, mget s.qe.sqs page = some sq → sq.f = f → sq.berth = none → (size = 4 ∨ size = 8) → spoilt s [.sq page] = true →
      exec (.sqDoorbell f page 0 size v) s = .next (startReset 2 (countDoorbell (wakeUp s))))
    ∧ ∀ off, off ≠ 0x800 →
      (size < 4 ∨ off ≠ 0 ∨ mget s.qe.sqs page = none ∨ (∃ sq, mget s.qe.sqs page = some sq ∧ sq.f ≠ f)) →
      ∃ t, exec (.sqDoorbell f page off size v) s = .next t ∧ bad t ∧ t.lb.doorbells = s.lb.doorbells

/-- CQ_HEAD_UPDATE of the owner of a host-owned CQ slot: a head inside the ring that marks no unwritten record as read sets the head and
lowers the unread count by the distance it moved (records that waited for room are then written, and count as unread); any other is ignored and
increments QE.DB_BAD (R71). Only the low 16 bits of the value count. It follows no posted write that still waits (R440). The CQ's state holds no uncorrectable error (R555). -/
def Obligations.CqHeadUpdateMovesTheHead : Prop :=
  ∀ (s : State) (f page size v : Nat) (c : Cq), s.sl.power = 6 → fnReaches s f = true → hostLate s = false → page < 8192 → 4 ≤ size →
    mget s.qe.cqs page = some c → c.f = f → c.berth = none → spoilt s [.cq page] = false →
    let depth := 2 ^ c.log2
    let head := v % 2 ^ 16
    let d := (head + depth - c.head) % depth
    (head < depth → d ≤ c.unread → c.held = [] →
      exec (.cqHeadUpdate f page size v) s = .next (updCq page (fun c => { c with
        head := head, unread := c.unread - d, fullPosted := if d = 0 then c.fullPosted else false }) (countDoorbell (wakeUp s))))
    ∧ (head < depth → d ≤ c.unread → 64 ≤ page ∨ bit (getReg s (.qeFn page) 0 0x050) 31 = true → ∃ t c', exec (.cqHeadUpdate f page size v) s = .next t ∧ mget t.qe.cqs page = some c' ∧ c'.head = head)
    ∧ (depth ≤ head ∨ c.unread < d →
      ∃ t, exec (.cqHeadUpdate f page size v) s = .next t ∧ t.qe = s.qe
        ∧ getReg t .qe 0 0x05C = (getReg s .qe 0 0x05C + 1) % 2 ^ 32 ∧ t.lb.doorbells = (s.lb.doorbells + 1) % 2 ^ 64)

/-- FETCH_TURN of an I/O queue that may be served. With no turn open, no admin queue to be served, and the queue's turn of this round still to come,
the hub issues reads of at most WEIGHT of its unfetched entries, in ring order. At most 512 entry reads are outstanding over all queues: a turn that
meets the limit stays open, and when it goes on the queue reads what its turn still holds. No other queue changes (R76, R77). -/
def Obligations.FetchTurnIssuesAtMostWeight : Prop :=
  ∀ (s : State) (q : Nat) (sq : Sq), q < 8192 → 64 ≤ q → mget s.qe.sqs q = some sq → fetchable s q sq = true →
    let reads := fun (want : Nat) (t : State) =>
      let n := Nat.min want (512 - fetchesOut s)
      t = { s with qe := { s.qe with sqs := t.qe.sqs, served := t.qe.served, turn := if n < want then some (q, want - n) else none }, out := t.out }
      ∧ mget t.qe.sqs q = some { sq with issued := sq.issued ++ List.range' sq.fetchNext n, fetchNext := sq.fetchNext + n }
      ∧ (∀ p, p ≠ q → mget t.qe.sqs p = mget s.qe.sqs p)
    ((∀ p ∈ s.qe.sqs, p.1 < 64 → fetchable s p.1 p.2 = false) → s.qe.turn = none → q ∉ s.qe.served →
      ∃ t, exec (.fetchTurn q) s = .next t ∧ reads (Nat.min sq.weight (sq.tailCount - sq.fetchNext)) t ∧ q ∈ t.qe.served)
    ∧ ∀ left, s.qe.turn = some (q, left) →
      ∃ t, exec (.fetchTurn q) s = .next t ∧ reads (Nat.min left (sq.tailCount - sq.fetchNext)) t

/-- ENTRY_ARRIVAL of the entry to be checked next, from the host: with both stamps those of its number and every decode check passed it is
ready for dispatch with the try count cleared (R67, R68); with a stamp that is not its number's and tries left, the hub waits and reads it again; after
the last try fetch stops there, QE.STALE counts it and the event is raised (R74, R75). Nothing else of the queue changes. The SQ's state holds
no uncorrectable error (R555). -/
def Obligations.EntryArrivalChecksTheStamps : Prop :=
  ∀ (s : State) (q n : Nat) (data : List Byte) (sq : Sq), q < 8192 → mget s.qe.sqs q = some sq →
    sq.device = false → sq.issued.contains n = true → sq.arrived = [] → sq.ready = [] → sq.next = n → sq.backoff = false →
    sq.draining = false → sq.answered = [] → data.length = 128 → spoilt s [.sq q] = false →
    let fresh := decide (fld data 14 2 = stampOf n ∧ fld data 120 2 = stampOf n)
    (fresh = true → decodeStatus s sq.f (q < 64) data = none →
      ∃ t, exec (.entryArrival q n data false) s = .next t
        ∧ t = { s with qe := { s.qe with sqs := t.qe.sqs } }
        ∧ mget t.qe.sqs q = some { sq with issued := sq.issued.erase n, ready := [(n, data)], tries := 0 }
        ∧ ∀ p, p ≠ q → mget t.qe.sqs p = mget s.qe.sqs p)
    ∧ (fresh = false → sq.tries < bits (getReg s .qe 0 0x040) 3 0 →
      ∃ t, exec (.entryArrival q n data false) s = .next t
        ∧ t = { s with qe := { s.qe with sqs := t.qe.sqs } }
        ∧ mget t.qe.sqs q = some { sq with issued := sq.issued.erase n, backoff := true }
        ∧ ∀ p, p ≠ q → mget t.qe.sqs p = mget s.qe.sqs p)
    ∧ (fresh = false → bits (getReg s .qe 0 0x040) 3 0 ≤ sq.tries → bit (getReg s (.qeFn sq.f) 0 0x050) 31 = false →
      ∃ t, exec (.entryArrival q n data false) s = .next t
        ∧ mget t.qe.sqs q = some { sq with issued := [], stalled := true, fetchNext := n, tries := 0 }
        ∧ getReg t .qe 0 0x060 = (getReg s .qe 0 0x060 + 1) % 2 ^ 32 ∧ bit (getReg t .qe 0 0x018) 1 = true)

/-- REFETCH_BACKOFF_EXPIRY: the entry whose stamp was stale is read again and the try counted (R74), while
its CQ has room and fewer than 512 entry reads are out (R77, R84); the command has no effect on a queue that waits for no re-read, or without that room. -/
def Obligations.RefetchReadsTheEntryAgain : Prop :=
  ∀ (s : State) (q : Nat) (sq : Sq), q < 8192 → mget s.qe.sqs q = some sq →
    (sq.backoff = false ∨ readRoom s sq = false → exec (.refetchBackoffExpiry q) s = .next s)
    ∧ (sq.backoff = true → readRoom s sq = true →
      let m := sq.next + sq.ready.length
      let a := sq.base + m % 2 ^ sq.log2 * 128
      ∃ t, exec (.refetchBackoffExpiry q) s = .next t
        ∧ t = { s with qe := { s.qe with sqs := t.qe.sqs }, out := (if sq.device then [] else [.hostRead (steer s a) m a 128 { f := sq.f }]) ++ s.out }
        ∧ mget t.qe.sqs q = some { sq with backoff := false, tries := sq.tries + 1, issued := sq.issued ++ [m] }
        ∧ ∀ p, p ≠ q → mget t.qe.sqs p = mget s.qe.sqs p)

/-- DISPATCH of the one ready entry of an I/O queue (R76, R182, R554): the entry leaves the queue and the command it holds enters the table under the
next dispatch number, ready; or, with a wait, waiting until its fence reaches the value, or ended FENCE_ERROR with the fence's status
when the fence is in error (R66). Its context is from then on in use. What the dispatch reads holds no uncorrectable error (R555); the host is told the
latency of a hub at work where LTR is enabled (R445). -/
def Obligations.DispatchEntersTheCommand : Prop :=
  ∀ (s : State) (q n : Nat) (raw : List Byte) (sq : Sq), q < 8192 → 64 ≤ q → mget s.qe.sqs q = some sq → sq.ready = [(n, raw)] → sq.next = n →
    raw ≠ [] → dispatchable s q raw = true → spoilt s (keptOf q raw) = false → objectBad s sq.f (fld raw 0 1) raw = false →
    let fe := getFence s (fld raw 8 2)
    let c := { newCmd s q n sq.f raw with dispatched := true, sigOk := true }
    let c' : Cmd := if bit (fld raw 1 1) 0 then
        (if fe.status ≠ 0 then { c with phase := .finished, status := 0x0B, detail := fe.status - 1 }
         else if (fe.value - BitVec.ofNat 64 (fld raw 104 8)).toNat < 2 ^ 63 then c else { c with phase := .fence })
      else c
    exec (.dispatch q) s = .next (ltrTell { s with qe := { s.qe with
      sqs := mupd s.qe.sqs q fun sq => { sq with ready := [], next := n + 1 },
      ctxs := mupd s.qe.ctxs (bits (fld raw 2 2) 11 0) fun x => { x with used := true },
      cmds := mset s.qe.cmds s.qe.nextK c', nextK := s.qe.nextK + 1 } })

/-- COMPLETION_RECORD_WRITE of a finished command whose data is visible at its SCOPE with nothing to flush, without a signal, on an I/O CQ in host
memory that has room and whose function's records flow: the command leaves the table, one record is written at the CQ's next place
with the phase of its lap, and the counts of written, unread and unsignalled records rise by one; no interrupt is due before IRQ_COUNT
records (R80 to R82, R85, R554). No earlier entry of a drained ring is waited for (R95), the CQ's state holds no uncorrectable error (R555), and the host
is told the latency of an idle hub where LTR is enabled (R445). -/
def Obligations.CompletionWritesOneRecord : Prop :=
  ∀ (s : State) (k : Nat) (c : Cmd) (sq : Sq) (cq : Cq),
    getCmd s k = some c → c.phase = .finished → c.held = false → c.flag 1 = false → c.flag 4 = false → c.flushes = [] → visible s k c = true →
    flushNeed s c = [] → ringWaits s c = false → spoilt s [.cq sq.cq] = false → 64 ≤ c.sq → mget s.qe.sqs c.sq = some sq → 64 ≤ sq.cq → mget s.qe.cqs sq.cq = some cq → cq.device = false → hostFlows s = true →
    cq.held = [] → cq.unread + 2 < 2 ^ cq.log2 → cq.unsignalled + 1 < cq.irqCount →
    let a := cq.base + cq.written % 2 ^ cq.log2 * 32
    ∃ t, exec (.completionRecordWrite k) s = .next t
      ∧ t = { s with qe := { s.qe with sqs := t.qe.sqs, cqs := t.qe.cqs, cmds := mdel s.qe.cmds k }, gw := t.gw, out := t.out }
      ∧ mget t.qe.cqs sq.cq = some { cq with written := cq.written + 1, unread := cq.unread + 1, unsignalled := cq.unsignalled + 1, lastLink := some (steer s a) }
      ∧ (∀ q, q ≠ sq.cq → mget t.qe.cqs q = mget s.qe.cqs q)
      ∧ t.out = (hostWrite (plainTag cq.f) none a (recBytes { recOf k c with k := none } (decide (cq.written / 2 ^ cq.log2 % 2 = 0)) s.time.toNat) false
          (ltrTell { s with qe := { s.qe with cmds := mdel s.qe.cmds k } })).out

/-- IRQ_TIME_EXPIRY: where an I/O CQ with a coalescing time has unsignalled records and the host is there, its vector's message is sent, on
the link that carried its last record, and no record is unsignalled any more; with no such time, or nothing unsignalled, nothing
happens (R85). -/
def Obligations.IrqTimeSignalsTheQueue : Prop :=
  ∀ (s : State) (q : Nat) (c : Cq), q < 8192 → 64 ≤ q → mget s.qe.cqs q = some c → c.berth = none → hostFlows s = true →
    (c.irqTime ≠ 0 → c.unsignalled ≠ 0 →
      exec (.irqTimeExpiry q) s = .next { s with
        qe := { s.qe with cqs := mupd s.qe.cqs q fun c => { c with unsignalled := 0, irqWaits := false } },
        out := .msix (c.lastLink.getD (steer s (msixAddr s c.f c.vector))) c.f c.vector :: s.out })
    ∧ (c.irqTime = 0 ∨ c.unsignalled = 0 → exec (.irqTimeExpiry q) s = .next s)

/-- FLUSH_READ_RETURN of a command's flushing read: the read is no longer outstanding, and the command no longer waits for it (R168). No plan waits here. -/
def Obligations.FlushReadReturnReleasesTheCommand : Prop :=
  ∀ (s : State) (id link k : Nat), s.gw.flushes.find? (fun g => g.id = id) = some ⟨id, link, none, some k⟩ → s.tu.plans = [] →
    exec (.flushReadReturn id) s = .next { s with
      gw := { s.gw with flushes := s.gw.flushes.filter fun g => g.id ≠ id },
      qe := { s.qe with cmds := mupd s.qe.cmds k fun c => { c with flushes := c.flushes.filter (· ≠ id) } } }

/-- NOP, FENCE_SCOPE and FENCE_SET that may begin (no checkpoint and no ramp holds them back). NOP ends SUCCESS with no other effect. FENCE_SCOPE ends SUCCESS once no earlier command of its SQ is
left, and changes nothing before that (R188). FENCE_SET on an allotted fence of its function sets the value, forward or backward,
returns the status to OK and ends SUCCESS; no other fence changes (R189). -/
def Obligations.NopAndFenceCommands : Prop :=
  ∀ (s : State) (k : Nat) (c : Cmd), getCmd s k = some c → c.phase = .ready → s.tg.ckpt = false → rampHolds s = false →
    (c.op = 0x00 → exec (.nop k) s = .next (finish k 0 0 0 0 s))
    ∧ (c.op = 0x50 → exec (.fenceScope k) s =
        .next (if s.qe.cmds.any (fun p => p.2.sq = c.sq && p.2.n < c.n) then s else finish k 0 0 0 0 s))
    ∧ (c.op = 0x51 → fenceOk s c.f (fld c.raw 16 2) = true →
        ∃ t, exec (.fenceSet k) s = .next t
          ∧ t = { s with qe := { s.qe with fences := t.qe.fences, cmds := t.qe.cmds } }
          ∧ getFence t (fld c.raw 16 2) = { value := BitVec.ofNat 64 (fld c.raw 24 8), status := 0 }
          ∧ (∀ n, n ≠ fld c.raw 16 2 → getFence t n = getFence s n)
          ∧ getCmd t k = some { c with phase := .finished, status := 0, detail := 0, done := 0, fault := 0 })

/-- Writes to a fence block's page. FB_VALUE_WRITE: an admitted aligned 64-bit write to a value of an allotted block is a signal: it is counted
and not logged; it moves the fence to the value written when that is ahead of it in the order of R178, and otherwise leaves it and
counts a regression (R180, R192); the fence's state holds no uncorrectable error (R555). FB_STATUS_WRITE: ones written to a fence's status return it to OK, and change no fence whose bits are
written zero (R193). -/
def Obligations.FenceBlockWrites : Prop :=
  (∀ (s : State) (o : Origin) (b i v : Nat), originUp s o = true → b < 256 → i < 256 → admitted s o (.qeFb b) (0x800 + 8 * i) = true →
    mpuDenies s o (.qeFb b) (0x800 + 8 * i) 8 true = none → mhas s.qe.blocks b = true → v < 2 ^ 64 → spoilt s [.fence (256 * b + i)] = false →
    let n := 256 * b + i
    let w := BitVec.ofNat 64 v
    let old := (getFence s n).value
    (w ≠ old → (w - old).toNat < 2 ^ 63 →
      ∃ t, exec (.fbValueWrite o b (8 * i) 8 v) s = .next t
        ∧ t = { s with qe := { s.qe with fences := t.qe.fences, cmds := t.qe.cmds }, lb := { s.lb with fences := (s.lb.fences + 1) % 2 ^ 64 } }
        ∧ getFence t n = { getFence s n with value := w } ∧ ∀ m, m ≠ n → getFence t m = getFence s m)
    ∧ (w = old ∨ 2 ^ 63 ≤ (w - old).toNat → bit (getReg s (.qeFn ((mget s.qe.blocks b).elim 0 (·.f))) 0 0x050) 31 = false →
      ∃ t, exec (.fbValueWrite o b (8 * i) 8 v) s = .next t ∧ t.qe = s.qe ∧ t.lb = { s.lb with fences := (s.lb.fences + 1) % 2 ^ 64 }
        ∧ getReg t (.qeFb b) 0 0x044 = (getReg s (.qeFb b) 0 0x044 + 1) % 2 ^ 32 ∧ getReg t (.qeFb b) 0 0x04C = i))
  ∧ ∀ (s : State) (o : Origin) (b j v : Nat), (∀ n, (getFence s n).status < 4) → j < 64 → canWrite s o (.qeFb b) (0x100 + 4 * j) → b < 256 → v < 2 ^ 32 →
    ∃ t, exec (.fbStatusWrite o b (4 * j) 4 v) s = .next t ∧ t.lb.seq = (s.lb.seq + 1) % 2 ^ 32
      ∧ (∀ m, (m < 256 * b + 4 * j ∨ 256 * b + 4 * j + 4 ≤ m) → getFence t m = getFence s m)
      ∧ ∀ i, i < 4 → let n := 256 * b + 4 * j + i
        getFence t n = if (v / 2 ^ (8 * i) &&& 3 &&& (getFence s n).status) ≠ 0 then { getFence s n with status := 0 } else getFence s n

/-- ADMIN_CFG_WRITE that sets EN with a usable configuration makes the function's admin SQ and CQ live in the slots of its number, empty, with the
bases of the base registers and the depths, vector and place written; a configuration that is not usable is refused: EN reads 0
and no queue appears (R89, R102). -/
def Obligations.AdminEnableCreatesTheAdminQueues : Prop :=
  ∀ (s : State) (o : Origin) (f v : Nat), f < 64 → canWrite s o (.qeFn f) 0x050 → v < 2 ^ 32 → bit v 31 = true →
    getReg s (.qeFn f) 0 0x050 = 0 →
    let new := v &&& 0x87FFFF01
    let base := fun lo => getReg s (.qeFn f) 0 lo + 2 ^ 32 * getReg s (.qeFn f) 0 (lo + 4)
    (adminUsable s f new = true →
      ∃ t, exec (.adminCfgWrite o f v) s = .next t
        ∧ t = { s with regs := t.regs, lb := t.lb, qe := { s.qe with sqs := t.qe.sqs, cqs := t.qe.cqs } }
        ∧ getReg t (.qeFn f) 0 0x050 = new
        ∧ mget t.qe.sqs f = some { f := f, base := base 0x040, log2 := bits new 11 8, device := bit new 0, weight := 1, berth := none, owner := 0, cq := f, en := true }
        ∧ mget t.qe.cqs f = some { f := f, base := base 0x048, log2 := bits new 15 12, device := bit new 0, vector := bits new 26 16, irqCount := 0, irqTime := 0, berth := none }
        ∧ ∀ q, q ≠ f → mget t.qe.sqs q = mget s.qe.sqs q ∧ mget t.qe.cqs q = mget s.qe.cqs q)
    ∧ (adminUsable s f new = false →
      ∃ t, exec (.adminCfgWrite o f v) s = .next t ∧ t.qe = s.qe ∧ bit (getReg t (.qeFn f) 0 0x050) 31 = false)

/-- ATS_TRANSLATION_COMPLETION of a demand request, while the central ATC has room and holds no neighbour to merge with. A translation with a
right is entered in the central ATC with its output, its rights and the largest page size of R110 within it (R110, R111, R114, R120), and the page of the one plan that waits
for it becomes usable at the output, when the rights it needs are there; an answer that an invalidation made stale enters nothing (R140); an answer of
neither right makes the page absent to a plan whose policy reports it, and counts a fault of the function (R120, R130, R156); an error of the host is captured with
code 3 and the plan's origin, and counts a fault too (R155, R156, R568). The plan here is an atomic's, of one page of the function's own address space, with no HDM decoder committed. -/
def Obligations.AtsCompletionSettlesThePage : Prop :=
  ∀ (s : State) (id k out n : Nat) (r w : Bool) (q : AtsReq) (p : Plan) (it : Item),
    s.tu.ats.find? (fun a => a.id = id) = some q → q.lookahead = none → s.tu.plans = [p] → p.who = .atomicUnit k → p.items = [it] → it.st = .wait id →
    it.space = 0 → it.page = q.page → it.own = none → p.report = true → s.gw.hdm = [] → s.gw.detached = false → 12 ≤ n →
    let ats := s.tu.ats.filter fun a => a.id ≠ id
    let settled := fun (u : State) (st : ItemSt) => u.tu.plans = [{ p with items := [{ it with st := st }] }]
    let size := if 30 ≤ n then 2 ^ 30 else if 21 ≤ n then 2 ^ 21 else if 16 ≤ n then 2 ^ 16 else 2 ^ 12
    let bus := out / 2 ^ n * 2 ^ n + q.page % 2 ^ n
    let x : Xl := { f := q.f, pasid := q.pasid, space := 0, base := q.page / size * size, len := size, out := bus - q.page % size, kind := .host, rights := ⟨r, w, r && w⟩ }
    (q.stale = false → (r || w) = true → (it.rights.lacks x.rights).any = false → centralMerge x s.tu.central = none → s.tu.central.length < 262144 →
      ∃ t, exec (.atsTranslationCompletion id (.xlate out n r w)) s = .next t
        ∧ t = { s with tu := { s.tu with ats := ats, central := x :: s.tu.central, plans := t.tu.plans } }
        ∧ settled t (.ok bus .host))
    ∧ (q.stale = false → (r || w) = false →
      ∃ t, exec (.atsTranslationCompletion id (.xlate out n r w)) s = .next t
        ∧ t = { s with regs := t.regs, tu := { s.tu with ats := ats, plans := t.tu.plans } } ∧ settled t (.bad .absent)
        ∧ getReg t (.tuFn p.f) 0 0x050 = (getReg s (.tuFn p.f) 0 0x050 + 1) % 2 ^ 32)
    ∧ (q.stale = false →
      ∃ t, exec (.atsTranslationCompletion id .error) s = .next t
        ∧ t = { s with regs := t.regs, tu := { s.tu with ats := ats, plans := t.tu.plans } } ∧ settled t (.bad .host)
        ∧ getReg t .tu 0 0x024 = (if bit (getReg s .tu 0 0x024) 31 then getReg s .tu 0 0x024 else (2 ^ 31 + 3 * 2 ^ 16 + originCode (fnOrigin p.f)) % 2 ^ 32)
        ∧ getReg t (.tuFn p.f) 0 0x050 = (getReg s (.tuFn p.f) 0 0x050 + 1) % 2 ^ 32)
    ∧ (q.stale = true → ∃ t, exec (.atsTranslationCompletion id (.xlate out n r w)) s = .next t ∧ t.tu.central = s.tu.central)

/-- DEVICE_MAP_WALK_DONE of a demand walk that no plan waits for any more, while the central ATC has room and holds no neighbour to merge with: the walk is no longer in
flight, and a leaf that does not hold is entered in the central ATC with its block, output and rights; an absent, poisoned or denied walk,
or a leaf with HOLD, enters nothing (R122 to R124, R133). While a line of the table is held elsewhere the walk stays in flight
(R324, R375). -/
def Obligations.DeviceMapWalkFillsTheAtc : Prop :=
  ∀ (s : State) (id : Nat) (q : Walk), s.tu.walks.find? (fun a => a.id = id) = some q → q.lookahead = none → q.stale = false → s.tu.plans = [] →
    regionOf s q.who { space := 1, page := q.page, first := 0, rights := {} } = none →
    let s' := { s with tu := { s.tu with walks := s.tu.walks.filter fun a => a.id ≠ id } }
    let r := walkMap (whoOrigin s' q.who q.f) q.f q.page q.cls s'
    (∀ base len out rights, r.1 = .leaf base len out rights false →
      let x : Xl := { f := q.f, pasid := none, space := 1, base := base, len := len, out := out, kind := .dpa, rights := rights }
      centralMerge x r.2.tu.central = none → r.2.tu.central.length < 262144 →
      exec (.deviceMapWalkDone id) s = .next { r.2 with tu := { r.2.tu with central := x :: r.2.tu.central } })
    ∧ ((r.1 = .absent ∨ r.1 = .poison ∨ r.1 = .denied ∨ ∃ base len out rights, r.1 = .leaf base len out rights true) →
      exec (.deviceMapWalkDone id) s = .next r.2)
    ∧ (r.1 = .waits → exec (.deviceMapWalkDone id) s = .next { r.2 with tu := { r.2.tu with walks := s.tu.walks } })

/-- PAGE_REQUEST_RESPONSE, PAGE_REQUEST_TIMEOUT and HOLD_WAIT_TIMEOUT, with one plan in the unit, of a command whose pages are looked up at once; its other pages are translated. A
response Success drops what the ATCs hold of the group's pages and looks the page up again: the hub sends a new ATS Translation Request for it (R121, R131). A response Invalid or Failure
makes the group's pages unusable whatever the policy, and Failure stops page requests of the function and raises event 4 (R131). A response for no group in flight is captured with code 4
and is otherwise without effect (R155). A page request or a HOLD that outlasts TU.PRI_TIMEOUT makes its pages timed-out ones, and the end of a HOLD counts a fault of the function for each
(R130, R132, R156). In every case the group is no longer in flight. -/
def Obligations.PageRequestsAndHoldsEnd : Prop :=
  ∀ (s : State) (f grp : Nat) (p : Plan) (g : Prg), f < 64 → s.tu.plans = [p] → onAccess s p.who = false → (∀ it ∈ p.items, it.own = none) →
    (∀ b i, p.who ≠ .bresa b i ∧ p.who ≠ .cxl b i) → (∀ l i j, p.who ≠ .remote l i j ∧ p.who ≠ .planReq l i j) →
    let settled := fun (u : State) (old : ItemSt) (b : Bad) => u.tu.plans = [{ p with items := p.items.map fun it => if it.st = old then { it with st := .bad b } else it }]
    let prgs := s.tu.prgs.filter fun h => h.grp ≠ grp
    (s.tu.prgs.find? (fun h => h.grp = grp && h.f = f) = none →
      ∃ t, exec (.pageRequestResponse f grp .success) s = .next t ∧ t = { s with regs := t.regs }
        ∧ (bit (getReg s .tu 0 0x024) 31 = false → getReg t .tu 0 0x024 = (2 ^ 31 + 4 * 2 ^ 16 + originCode (fnOrigin f)) % 2 ^ 32))
    ∧ ((∀ it ∈ p.items, it.st = .asked grp ∨ it.isOk = true) → (∃ it ∈ p.items, it.st = .asked grp) →
      s.tu.prgs.find? (fun h => h.grp = grp && h.f = f) = some g → g.who = p.who → g.grp = grp →
      (∃ t, exec (.pageRequestResponse f grp .invalid) s = .next t ∧ t = { s with tu := { s.tu with prgs := prgs, plans := t.tu.plans } }
        ∧ settled t (.asked grp) .forced)
      ∧ (∃ t, exec (.pageRequestResponse f grp .failure) s = .next t ∧ t.tu.prgs = prgs ∧ settled t (.asked grp) .forced ∧ f ∈ t.tu.priStopped
        ∧ bit (getReg t .tu 0 0x018) 4 = true)
      ∧ ∀ it, p.items = [it] → it.space = 0 → s.gw.detached = false → (fnCfg s p.f).ats = true → invBlocks s p.f p.pasid 0 it.page = false →
        g.pages = [it.page] → g.f = p.f → s.tu.ats.length < 512 → (∀ x ∈ s.tu.central, x.covers p.f p.pasid 0 it.page = false) →
        regionOf s p.who it = none → (∀ m, p.who ≠ .mover m) →
        ∃ t, exec (.pageRequestResponse f grp .success) s = .next t ∧ t.tu.prgs = prgs ∧ t.out = .atsRequest s.tu.nextId p.f p.pasid it.page :: s.out
          ∧ t.tu.ats = { id := s.tu.nextId, f := p.f, pasid := p.pasid, page := it.page, lookahead := none } :: s.tu.ats
          ∧ t.tu.plans = [{ p with items := [{ it with st := .wait s.tu.nextId }] }])
    ∧ ((∀ it ∈ p.items, it.st = .asked grp ∨ it.isOk = true) → (∃ it ∈ p.items, it.st = .asked grp) →
      s.tu.prgs.find? (fun h => h.grp = grp) = some g → g.who = p.who → g.grp = grp →
      ∃ t, exec (.pageRequestTimeout grp) s = .next t ∧ t = { s with tu := { s.tu with prgs := prgs, plans := t.tu.plans } } ∧ settled t (.asked grp) .timeout)
    ∧ ((∀ it ∈ p.items, it.st = .held grp ∨ it.isOk = true) → (∃ it ∈ p.items, it.st = .held grp) →
      ∃ t, exec (.holdWaitTimeout grp) s = .next t ∧ t = { s with regs := t.regs, tu := { s.tu with plans := t.tu.plans } } ∧ settled t (.held grp) .timeout
        ∧ getReg t (.tuFn p.f) 0 0x050 = (getReg s (.tuFn p.f) 0 0x050 + (p.items.filter fun it => it.st = .held grp).length) % 2 ^ 32)

/-- The start of an invalidation (R138, R139, R153, R154, R157), while no plan is in the unit and no partner is granted a context. An ATS Invalidate Request on link 0,
a TU.DINV write of a range or of all, and a change of a live device-map root of a function each open one invalidation of the range and function
they name, and no entry the range overlaps stays in the central ATC, while the others do. An ATS Invalidate Request on another link is answered Unsupported, and asleep in H2
or below it is answered and counted at once. A root that was not live invalidates nothing. -/
def Obligations.InvalidationsStart : Prop :=
  ∀ (s : State), s.tu.plans = [] → (∀ b, (getBerth s b).grants = []) →
    let opened := fun (u t : State) (src : InvSrc) (f : Nat) (pasid : Option Nat) (any_ : Bool) (space base size : Nat) =>
      ∃ v : Inv, t.tu.invs = v :: u.tu.invs ∧ v.src = src ∧ v.f = f ∧ v.pasid = pasid ∧ v.anyPasid = any_ ∧ v.space = space ∧ v.base = base ∧ v.size = size
        ∧ t.tu.central = u.tu.central.filter fun x => !v.kills x
    (∀ (f : Nat) (pasid : Option Nat) (addr n itag : Nat),
      (linkUp s 0 = true → s.sl.h < 2 →
        ∃ t, exec (.atsInvalidateRequest 0 f pasid addr n itag) s = .next t ∧ opened s t (.ats 0 itag) f pasid false 0 addr (2 ^ n))
      ∧ (linkUp s 0 = true → 2 ≤ s.sl.h → ∃ t, exec (.atsInvalidateRequest 0 f pasid addr n itag) s = .next t ∧ t = { s with regs := t.regs, out := .invalidateCompletion 0 itag :: s.out } ∧ getReg t .tu 0 0x074 = (getReg s .tu 0 0x074 + 1) % 2 ^ 32)
      ∧ ∀ link, 1 ≤ link → link < 4 → exec (.atsInvalidateRequest link f pasid addr n itag) s = .next { s with out := .unsupported link :: s.out })
    ∧ (∀ (o : Origin) (v : Nat), canWrite s o .tu 0x070 → v < 2 ^ 32 → bit v 0 = true → bit (getReg s .tu 0 0x070) 31 = false →
      (bit v 17 = false → ∃ t, exec (.dinvRange o v) s = .next t ∧ bit (getReg t .tu 0 0x070) 31 = true
        ∧ opened s t .dinv (bits v 13 8) none true 1 (dinvRange s v).1 (dinvRange s v).2)
      ∧ (bit v 17 = true → ∃ t, exec (.dinvAll o v) s = .next t ∧ bit (getReg t .tu 0 0x070) 31 = true
        ∧ opened s t .dinv (bits v 13 8) none true 1 0 (2 ^ 48)))
    ∧ ∀ (o : Origin) (f v : Nat), canWrite s o (.tuFn f) 0x040 → f < 64 → v < 2 ^ 32 →
      let new := v &&& 0xFFFFF001
      (bit (getReg s (.tuFn f) 0 0x040) 0 = true → getReg s (.tuFn f) 0 0x040 &&& 0xFFFFF001 = getReg s (.tuFn f) 0 0x040 → getReg s (.tuFn f) 0 0x040 ≠ new →
        ∃ t, exec (.fnDmapRootWrite o f false v) s = .next t ∧ getReg t (.tuFn f) 0 0x040 = new ∧ opened s t (.root f) f none true 1 0 (2 ^ 48))
      ∧ (bit (getReg s (.tuFn f) 0 0x040) 0 = false → getReg s (.tuFn f) 0 0x040 &&& 0xFFFFF001 = getReg s (.tuFn f) 0 0x040 →
        ∃ t, exec (.fnDmapRootWrite o f false v) s = .next t ∧ getReg t (.tuFn f) 0 0x040 = new ∧ t.tu = s.tu)

/-- INVALIDATE_COMPLETION of an invalidation whose recorded requests have ended, that no partner owes an acknowledgement, with no link left to flush and no flush of it outstanding (R139 steps 4 to 6):
it ends and is counted in TU.INV_COUNT; an ATS Invalidate Request is answered on its link with its tag, and a TU.DINV request clears BUSY and raises
event 2. While a recorded read or write is outstanding nothing happens. -/
def Obligations.InvalidationsEnd : Prop :=
  ∀ (s : State) (id : Nat) (v : Inv), s.tu.invs.find? (fun v => v.id = id) = some v → v.id = id → s.tu.plans = [] →
    (invQuiet s v = false → exec (.invalidateCompletion id) s = .next s)
    ∧ (invQuiet s v = true → v.links = [] → (s.gw.flushes.any fun g => g.inv = some id) = false →
      let done := fun t : State => t.tu = { s.tu with invs := s.tu.invs.filter fun w => w.id ≠ id }
        ∧ getReg t .tu 0 0x074 = (getReg s .tu 0 0x074 + 1) % 2 ^ 32 ∧ t.mem = s.mem ∧ t.qe = s.qe ∧ t.gw = s.gw
      (∀ link itag, v.src = .ats link itag →
        ∃ t, exec (.invalidateCompletion id) s = .next t ∧ done t ∧ t.out = .invalidateCompletion link itag :: s.out)
      ∧ (v.src = .dinv →
        ∃ t, exec (.invalidateCompletion id) s = .next t ∧ done t ∧ bit (getReg t .tu 0 0x070) 31 = false ∧ bit (getReg t .tu 0 0x018) 2 = true))

/-- AC_DECAY halves every access counter of every tracked granule unless DECAY_MS is 0 (R146). AC_CLEAR zeroes the counters of the granule written and changes no
other granule (R147). Neither touches anything else but, for the write, its register and its Logbook entry. -/
def Obligations.AccessCountersDecayAndClear : Prop :=
  (∀ s : State, exec .acDecay s = .next (if bits (getReg s .tu 0 0x048) 23 16 = 0 then s else { s with tu := { s.tu with
    granules := s.tu.granules.map fun x => { x with counts := x.counts.map (· / 2), writes := x.writes.map (· / 2) } } }))
  ∧ ∀ (s : State) (o : Origin) (v : Nat), canWrite s o .tu 0x064 → v < 2 ^ 32 →
    ∃ t, exec (.acClear o v) s = .next t
      ∧ t = { s with regs := t.regs, lb := t.lb, tu := { s.tu with granules := t.tu.granules } }
      ∧ t.lb.seq = (s.lb.seq + 1) % 2 ^ 32
      ∧ t.tu.granules = s.tu.granules.map fun x => if x.granule = v then { x with counts := List.replicate 10 0, writes := List.replicate 10 0 } else x

/-- MOVER_ASSIGN gives the oldest waiting MOVE whose QoS class has fewer busy movers than its limit to an idle mover, which then holds it from
its first tile (R232); with none waiting nothing changes. MOVER_TILE of a mover whose tile's reads have all been answered, with no poison and outside a
bounce region, leaves the tile loaded, and while one is unanswered it waits (R134, R228). Neither begins work while a
reset's ramp holds new work back (R530). LOOKAHEAD_FILL starts a walk for the one page of the next tile in space DPA when
no buffer, ATC or request has it, within the buffer of 64 (R116, R117). -/
def Obligations.MoversTakeAndReadTiles : Prop :=
  ∀ (s : State) (m : Nat), m < 64 →
    (∀ k c, mhas s.gm.movers m = false → s.gm.scrubbing.contains m = false → s.tg.ckpt = false → s.sl.h = 0 → rampHolds s = false →
      (s.qe.cmds.find? fun p => p.2.phase = .ready && 0x10 ≤ p.2.op && p.2.op < 0x20 && !onUnitK s p.1 && classBusy s p.2.cls < classLimit s p.2.cls) = some (k, c) →
      ∃ t, exec (.moverAssign m) s = .next t ∧ t = { s with regs := t.regs, gm := t.gm, qe := t.qe }
        ∧ t.gm = { s.gm with movers := mset s.gm.movers m { k := k } }
        ∧ t.qe = { s.qe with cmds := mupd s.qe.cmds k fun c => { c with phase := .running } }
        ∧ getReg t (.gmMover m) 0 0x048 = 0 ∧ getReg t (.gmMover m) 0 0x04C = 0)
    ∧ ((s.qe.cmds.find? fun p => p.2.phase = .ready && 0x10 ≤ p.2.op && p.2.op < 0x20 && !onUnitK s p.1 && classBusy s p.2.cls < classLimit s p.2.cls) = none →
      exec (.moverAssign m) s = .next s)
    ∧ (∀ j c, getMover s m = some j → getCmd s j.k = some c → c.cut false = none → c.phase = .running → j.phase = .reading →
      (ioOpen s (.mover m) = true → exec (.moverTile m) s = .next s)
      ∧ (ioOpen s (.mover m) = false → bounceOf s c.f c.ctx = none → rampHolds s = false →
          (∀ side : Nat → Bool, firstPoison side (tileSegs none c.op c.raw j.aux j.tile (match getPlan s (.mover m) with | some p => p.items | none => [])) j.buf = none) →
          exec (.moverTile m) s = .next (setMover m { j with phase := .loaded } s)))
    ∧ ∀ j c it, getMover s m = some j → getCmd s j.k = some c → hasAux c.op = false → bits (getReg s .tu 0 0x044) 5 0 = 1 → j.tile + 1 < mvTiles c.raw →
      tileItems (bounceOf s c.f c.ctx) c.op c.raw [] (j.tile + 1) = [it] → it.space = 1 → it.page < 2 ^ 48 → mapLive s c.f = true →
      mgetD s.tu.ahead m [] = [] → mgetD s.tu.region (m / 4) [] = [] → s.tu.central = [] → s.tu.walks = [] → s.tu.ats = [] → s.tu.invs = [] →
      ∃ t, exec (.lookaheadFill m) s = .next t ∧ t = { s with regs := t.regs, tu := t.tu }
        ∧ t.tu = { s.tu with nextId := s.tu.nextId + 1,
                             walks := [{ id := s.tu.nextId, f := c.f, page := it.page, who := .mover m, cls := c.cls, lookahead := some m }] }
        ∧ getReg t (.tuFn c.f) 0 0x04C = (getReg s (.tuFn c.f) 0 0x04C + 1) % 2 ^ 32

/-- The nine MOVE rows on mover m, each for its own opcode. With the tile loaded, every translation of it held and pages of it unwritten, a command writes
the next page of the tile at its translated place and counts the bytes that go out in GM.WR_BYTES, for a bounce unit the whole unit and its
tag record (R134, R144, R237, R471); ACCUMULATE adds there instead, element by element, at
the homes of the lines it does not add to itself (R226, R227). No byte of the page is one that the command reads, whose value the spec leaves open (R231).
Once every page is written and every request of
the tile is answered, the tile is committed: GM.TILES and the command's DONE count it, and the mover goes on to the next tile, or after the last the command ends
SUCCESS, or POISONED with the first poisoned address it met, and the mover is free (R135, R229). A row of another opcode, or a tile not yet loaded, changes nothing. -/
def Obligations.MoveRowsWriteTheirTiles : Prop :=
  ∀ (row : Nat → Instr) (op : Nat),
    (row, op) ∈ [((.copy : Nat → Instr), 0x10), (.convert, 0x11), (.quantise, 0x12), (.dequantise, 0x13), (.gather, 0x14), (.scatter, 0x15), (.compress, 0x16),
                 (.decompress, 0x17), (.accumulate, 0x18)] →
    ∀ (s : State) (m : Nat) (j : Job) (c : Cmd) (items : List Item), m < 64 → getMover s m = some j → getCmd s j.k = some c →
      ((c.op ≠ op ∨ j.phase ≠ .loaded) → exec (row m) s = .next s)
      ∧ (c.op = op → j.phase = .loaded → rampHolds s = false → c.stop = none → c.phase = .running → planAt s (.mover m) = .ready items →
        (∀ space page, (tilePieces op c.raw j items)[j.wrote]? = some (space, page) → j.wrote + 1 < (tilePieces op c.raw j items).length →
          (isHost items space (page * 4096) = true → hostLoss j.k s = none) →
          let bn := bounceOf s c.f c.ctx
          let d := tileOut op c.raw j.tile j items
          let first := (tilePieces op c.raw j items).length - ((d.2.map fun (b : PByte) => b.at_ / 4096).dedup).length
          let bs := ((laterWins ((if j.wrote < first then d.1 else d.2).filter fun b => b.at_ / 4096 = page)).map (·.2))
          let added := if op = 0x18 then (dstBytes op c.raw j.aux j.tile page).filter fun a => !(bs.any fun b => b.at_ = a) else []
          lackingOld bn op c.raw j items page = [] → (bs.any fun b => readHere bn op c.raw j items space b.at_) = false →
          (added.any (readHere bn op c.raw j items space)) = false →
          let stored := storePage (.mover m) j.k c.f c.tenant c.cls bn items space j.buf bs s
          let r := if op = 0x18 then accumulatePage m j.k c { j with buf := unitBytes bn space bs ++ j.buf } items page stored.2 else stored
          stored.1 = true → r.1 = true →
          exec (row m) s = .next (setMover m
            { j with wrote := j.wrote + 1,
                     buf := unitBytes bn space bs ++ j.buf
                     wrotes := wroteOuts items space (bs ++ added.map fun a => { at_ := a, val := 0 }) ++ j.wrotes }
            (bump64 (.gmMover m) 0x058 (bytesOut bn space bs.length + added.length) r.2)))
        ∧ ((tilePieces op c.raw j items)[j.wrote]? = none → moverQuiet s m j.k = true →
            (bounceOf s c.f c.ctx = none ∨ readBack c.op c.raw (j.aux ++ j.seen) j.tile = []) →
          ∃ t, exec (row m) s = .next t ∧ t = { s with regs := t.regs, gm := t.gm, qe := t.qe, tu := t.tu, hl := t.hl }
            ∧ getReg t .gm 0 0x054 = (getReg s .gm 0 0x054 + 1) % 2 ^ 32
            ∧ getPlan t (.mover m) = none
            ∧ (j.tile + 1 < mvTiles c.raw → (getMover t m).any (fun i => i.k = j.k ∧ i.tile = j.tile + 1 ∧ i.phase = .start ∧ i.wrote = 0) = true
                ∧ getCmd t j.k = some { c with done := j.tile + 1 } ∧ t.hl = s.hl)
            ∧ (mvTiles c.raw ≤ j.tile + 1 → mhas t.gm.movers m = false ∧ t.hl = { s.hl with ahead := s.hl.ahead.filter fun a => a.m ≠ m }
                ∧ (c.poisonAt = none → c.dstPoison = none →
                    getCmd t j.k = some { c with phase := .finished, status := stSuccess, detail := 0, done := j.tile + 1, fault := 0 })
                ∧ ∀ a d, c.poisonAt = some (a, d) →
                    getCmd t j.k = some { c with phase := .finished, status := stPoisoned, detail := d, done := j.tile + 1, fault := a })))

/-- COMPRESS loses nothing: DECOMPRESS of what a tile's bytes compress to gives those bytes back, followed by zeros up to a whole group of
64 (R223, R225), and the compressed stream is never longer than the tile's slot, 72 bytes for each group (R224). -/
def Obligations.CompressionIsLossless : Prop :=
  ∀ bs : List Byte,
    decompressed (cdiv bs.length 64) none (asPBytes 0 (compressed bs))
      = (bs ++ List.replicate (64 * cdiv bs.length 64 - bs.length) 0).map (fun b => (b, none))
    ∧ (compressed bs).length ≤ 72 * cdiv bs.length 64

/-- Exact sums (R302). Combination adds VALUEs modulo 2^320, adds COUNTs with saturation, ORs the flags and recomputes RANGE from COUNT; it is commutative and
associative. What partial sums combine to depends only on the multiset of values added, not on their order or grouping. A packet holds all of an
accumulator, and one read from a poisoned line, or with its carrier's mark, enters a combination with POISON set and every other part zero; a malformed packet
enters with NAN set, POISON as well where it is poisoned, and every other part zero (R303). -/
def Obligations.CombinationIgnoresOrderAndGrouping : Prop :=
  (∀ a b : Acc,
    (accMerge a b).value.toNat = (a.value.toNat + b.value.toNat) % 2 ^ 320
    ∧ (accMerge a b).count.toNat = Nat.min (a.count.toNat + b.count.toNat) (2 ^ 64 - 1)
    ∧ (accMerge a b).nan = (a.nan || b.nan) ∧ (accMerge a b).posInf = (a.posInf || b.posInf) ∧ (accMerge a b).negInf = (a.negInf || b.negInf)
    ∧ (accMerge a b).poison = (a.poison || b.poison) ∧ ((accMerge a b).range = true ↔ 2 ^ 40 ≤ (accMerge a b).count.toNat))
  ∧ (∀ a b c : Acc, accMerge a b = accMerge b a ∧ accMerge (accMerge a b) c = accMerge a (accMerge b c))
  ∧ (∀ (vs ws : List Machine.Num), (vs.Perm ws → vs.foldl accAdd {} = ws.foldl accAdd {})
      ∧ accMerge (vs.foldl accAdd {}) (ws.foldl accAdd {}) = (vs ++ ws).foldl accAdd {})
  ∧ (∀ a : Acc, accOfPacket (packetOf a) false false = a)
  ∧ ∀ (v : Vec) (stored carrier : Bool),
      let count := v.toNat / 2 ^ 320 % 2 ^ 64
      let wellFormed : Prop := v.toNat / 2 ^ 389 = 0 ∧ (bit (v.toNat / 2 ^ 384 % 256) 4 = true ↔ 2 ^ 40 ≤ count)
      ((stored || carrier) = true → wellFormed → accOfPacket v stored carrier = { poison := true })
      ∧ (¬ wellFormed → accOfPacket v stored carrier = { nan := true, poison := stored || carrier })

/-- REDUCE_LANE_ASSIGN gives the oldest waiting REDUCE to an idle lane, which then holds it from its first tile (R315). The five REDUCE rows on lane l, each for its
own opcode: with the tile loaded, every translation of it held and pages of it unwritten, the next page is written, with its additions at their homes (R311,
R312, R314); once every page is written and every request of the tile is answered, DONE counts the tile, and the lane goes on to the next tile, or after the last
the command ends SUCCESS, or POISONED, and the lane is free; RED_COMPARE counts a tile when it is committed, and writes its record before it ends (R313). A row of
another opcode changes nothing, nor does any row while a reset's ramp holds new work back (R530). -/
def Obligations.ReduceLanesRun : Prop :=
  (∀ (s : State) (l k : Nat) (c : Cmd), l < 8 → mhas s.gm.lanes l = false → s.tg.ckpt = false → s.sl.h = 0 → rampHolds s = false →
    (s.qe.cmds.find? fun p => p.2.phase = .ready && 0x30 ≤ p.2.op && p.2.op < 0x40 && !onUnitK s p.1) = some (k, c) →
    exec (.reduceLaneAssign l) s = .next { s with
      gm := { s.gm with lanes := mset s.gm.lanes l { k := k } },
      qe := { s.qe with cmds := mupd s.qe.cmds k fun c => { c with phase := .running } } })
  ∧ ∀ (row : Nat → Instr) (op : Nat),
    (row, op) ∈ [((.redPack : Nat → Instr), 0x30), (.redMerge, 0x31), (.redRound, 0x32), (.redSum, 0x33), (.redCompare, 0x34)] →
    ∀ (s : State) (l : Nat) (j : Job) (c : Cmd) (items : List Item), l < 8 → getLane s l = some j → getCmd s j.k = some c →
      (c.op ≠ op → exec (row l) s = .next s)
      ∧ (c.op = op → j.phase = .loaded → c.stop = none → c.phase = .running → rampHolds s = false → planAt s (.lane l) = .ready items →
        (∀ page bs u, (lanePieces op c.raw j)[j.wrote]? = some page → j.wrote + 1 < (lanePieces op c.raw j).length →
          (isHost items (if op = 0x34 then rdSp c.raw else rdDp c.raw) (page * 4096) = true → hostLoss j.k s = none) →
          laneLacking (bounceOf s c.f c.ctx) j c items page = [] → lanePage l j c items page s = (true, bs, u) →
          exec (row l) s = .next (setLaneJob l { j with
            wrote := j.wrote + 1, wrotes := laneWrotes j c items page ++ j.wrotes,
            buf := unitBytes (bounceOf s c.f c.ctx) (if op = 0x34 then rdSp c.raw else rdDp c.raw) bs ++ j.buf } u))
        ∧ ((lanePieces op c.raw j)[j.wrote]? = none → laneQuiet s l = true →
          let j' := if op = 0x34 then rdCount3 c.raw j.tile j else j
          (j.tile + 1 < rdTiles c.raw →
            ∃ t, exec (row l) s = .next t ∧ t = { s with gm := t.gm, qe := t.qe, tu := t.tu }
              ∧ getLane t l = some { k := j.k, tile := j.tile + 1, buf := if op = 0x34 then j'.buf else [], mism := j'.mism, first := j'.first, noMaj := j'.noMaj,
                                     reads := j'.reads, wrotes := j'.wrotes, freed := j'.freed }
              ∧ (op ≠ 0x34 → getPlan t (.lane l) = none) ∧ (op = 0x34 → t.tu = s.tu) ∧ getCmd t j.k = some { c with done := j.tile + 1 })
          ∧ (rdTiles c.raw ≤ j.tile + 1 → op ≠ 0x34 →
            ∃ t, exec (row l) s = .next t ∧ t = { s with gm := t.gm, qe := t.qe, tu := t.tu } ∧ mhas t.gm.lanes l = false ∧ getPlan t (.lane l) = none
              ∧ (c.poisonAt = none → c.dstPoison = none →
                  getCmd t j.k = some { c with phase := .finished, status := stSuccess, detail := 0, done := j.tile + 1, fault := 0 })
              ∧ ∀ a d, c.poisonAt = some (a, d) →
                  getCmd t j.k = some { c with phase := .finished, status := stPoisoned, detail := d, done := j.tile + 1, fault := a })
          ∧ (rdTiles c.raw ≤ j.tile + 1 → op = 0x34 →
            let u := writeRecord l j' c (updCmd j.k (fun c => { c with done := j.tile + 1 }) s)
            exec (row l) s = .next (freeLane l (finishWhole j.k (j.tile + 1) u)))))

/-- The ten ATOMIC rows for command k, each for its own opcode and operation. A ready one begins and asks for its pages (R174). Planned and not stopped, an atomic of hub SRAM is performed at its home: the
operand's bytes become what R172 gives from the old value, no other byte of memory changes, the command holds the old value, DONE is 1 and the
home's journal holds it under the next request ID of the atomic unit (R171, R172, R552; the unit's journal number is the model's choice, log entry 22). An atomic of host memory goes out to the host while
AtomicOp Requester Enable is set, for FETCH_ADD, SWAP and CAS; any other completes INVALID_FIELD with DETAIL 0 (R176). One in a bounce region reads its unit
and its tag record, and writes the changed unit sealed again (R471, R472; log entry 116). Without a result address a
performed atomic then completes SUCCESS with DONE 1; with one the old value, zero-extended, is written there first, and a result page that cannot be used ends it
FAULT at RESULT_ADDR, with DETAIL 1 where its hold timed out (R152, R175). The home's journal holds no uncorrectable error (R555). The host's answer to a PCIe AtomicOp is the old value, its Unsupported Request completes
FAULT with DONE 0 (R176), and its completion timeout POISONED with DONE 0, DETAIL 0 and FAULT_ADDR the target (R556). -/
def Obligations.AtomicsRunAtTheirHomes : Prop :=
  ∀ (row : Nat → Instr) (op : Nat) (a : AOp),
    (row, op, a) ∈ [((.fetchAdd : Nat → Instr), 0x40, AOp.add), (.swap, 0x41, .swap), (.cas, 0x42, .cas), (.fetchMinS, 0x43, .minS), (.fetchMaxS, 0x44, .maxS),
                    (.fetchMinU, 0x45, .minU), (.fetchMaxU, 0x46, .maxU), (.fetchAnd, 0x47, .and), (.fetchOr, 0x48, .or), (.fetchXor, 0x49, .xor)] →
    ∀ (s : State) (k : Nat) (c : Cmd), getCmd s k = some c → c.op = op → c.stop = none → atSize c.raw ≤ 16 →
      (c.phase = .ready → c.stage = 0 → s.tg.ckpt = false → (needsHost (atItems (bounceOf s c.f c.ctx) c.raw) = true → hostLoss k s = none) →
        exec (row k) s = .next (planStart { who := .atomicUnit k, f := c.f, pasid := c.pasid, tenant := c.tenant, report := c.report, cls := c.cls,
                                            items := atItems (bounceOf s c.f c.ctx) c.raw } (updCmd k (fun c => { c with stage := 1, phase := .running }) s)))
      ∧ (c.phase = .running →
      (∀ items addr, c.stage = 1 → planAt s (.atomicUnit k) = .ready items → outOf items (atSpace c.raw) (atAddr c.raw) = some (addr, .dpa) → addr % atSize c.raw = 0 →
        quietLine s (addr / 64 * 64) c.tenant → s.mem.journal = [] → spoilt s [.journal (homeOf s (addr / 64 * 64))] = false →
        let n := atSize c.raw
        let old := leNat (Memory.readN s.mem.bytes addr n)
        ∃ t, exec (row k) s = .next t ∧ t = { s with mem := t.mem, qe := t.qe }
          ∧ Memory.readN t.mem.bytes addr n = leBytes n (atomicNew a n old (atA c.raw) (atB c.raw))
          ∧ (∀ x, x < addr ∨ addr + n ≤ x → Memory.read t.mem.bytes x = Memory.read s.mem.bytes x)
          ∧ t.qe = { s.qe with cmds := t.qe.cmds } ∧ getCmd t k = some { c with stage := 2, old := some old, done := 1 }
          ∧ t.mem.journal = [{ src := 148, seq := mgetD s.mem.srcSeq 148 0, home := addr / 64 * 64 / 2 ^ 24, old := old, poison := none }])
      ∧ (∀ items addr, c.stage = 1 → planAt s (.atomicUnit k) = .ready items → outOf items (atSpace c.raw) (atAddr c.raw) = some (addr, .host) → s.gw.detached = false →
        (op ≤ 0x42 → (fnCfg s c.f).atomicReq = true → (atSpace c.raw = 0 → bounceOf s c.f c.ctx = none) →
          ∃ t, exec (row k) s = .next t ∧ t = { s with out := t.out, qe := t.qe } ∧ getCmd t k = some { c with stage := 2, aux := 1 }
            ∧ t.out = .hostAtomic (steer s addr) k addr a (atSize c.raw) (atA c.raw) (atB c.raw) (cmdTag s k c.f) :: s.out)
        ∧ (op ≤ 0x42 → (fnCfg s c.f).atomicReq = true → atSpace c.raw = 0 → (bounceOf s c.f c.ctx).isSome = true →
          ∀ bs t, issueSegs (.atomicUnit k) k c.f c.tenant c.cls items (atUnit (bounceOf s c.f c.ctx) c.raw) s = .done bs t →
            exec (row k) s = .next (updCmd k (fun c => { c with stage := 5, buf := bs }) t))
        ∧ (0x42 < op ∨ (fnCfg s c.f).atomicReq = false →
          ∃ t, exec (row k) s = .next t ∧ t = { s with qe := t.qe, tu := t.tu } ∧ getPlan t (.atomicUnit k) = none
            ∧ getCmd t k = some { c with phase := .finished, status := stField, detail := 0, done := 0, fault := 0 }))
      ∧ (∀ items, c.stage = 5 → planAt s (.atomicUnit k) = .ready items → ioOpen s (.atomicUnit k) = false →
          let bn := bounceOf s c.f c.ctx
          let u := openAll k bn (atUnit bn c.raw) c.buf s
          let was := bufBytes u.1 2 (atAddr c.raw) (atSize c.raw)
          let new := asPBytes (atAddr c.raw) (leBytes (atSize c.raw) (atomicNew a (atSize c.raw) (pnum was) (atA c.raw) (atB c.raw)))
          ((ppoison was).isSome = true → exec (row k) s = .next (atEnd k (finishWhole k 0 u.2)))
          ∧ ((ppoison was).isSome = false → ∀ t, storePage (.atomicUnit k) k c.f c.tenant c.cls bn items 0 u.1 new u.2 = (true, t) →
              exec (row k) s = .next (updCmd k (fun c => { c with stage := 2, buf := [], old := some (pnum was), done := 1 }) t)))
      ∧ (∀ v, c.stage = 2 → c.old = some v → atResultEn c.raw = false → c.poisonAt = none → c.dstPoison = none →
        ∃ t, exec (row k) s = .next t ∧ t = { s with qe := t.qe, tu := t.tu } ∧ getPlan t (.atomicUnit k) = none
          ∧ getCmd t k = some { c with phase := .finished, status := stSuccess, detail := 0, done := 1, fault := 0 })
      ∧ (∀ v p, c.stage = 2 → c.old = some v → atResultEn c.raw = true → (atResSpace c.raw = 0 → bounceOf s c.f c.ctx = none) → getPlan s (.atomicUnit k) = some p →
        let keep := fun (it : Item) => (touchIo none (atResSpace c.raw) (atResult c.raw) (atResLen c.raw) wrRights []).any fun x => x.space = it.space && x.page = it.page
        let u := setPlan { p with items := p.items.filter keep } s
        (∀ it b, planAt u (.atomicUnit k) = .failed it b → exec (row k) s = .next (dropPlan (.atomicUnit k) (finish k stFault (if b = .timeout then 1 else 0) 1 (atResult c.raw) u)))
        ∧ ∀ items, planAt u (.atomicUnit k) = .ready items → (isHost items (atResSpace c.raw) (atResult c.raw) = true → hostLoss k u = none) →
          ioOpen u (.atomicUnit k) = false →
          let w := storePage (.atomicUnit k) k c.f c.tenant c.cls none items (atResSpace c.raw) c.buf (asPBytes (atResult c.raw) (leBytes (atResLen c.raw) v)) u
          w.1 = true → exec (row k) s = .next (if atResultOpen w.2 k then updCmd k (fun c => { c with stage := 4 }) w.2 else atResultDone k c w.2))
      ∧ (c.aux = 1 → c.old = none →
        (∀ v, ∃ t, exec (.hostAtomicCompletion k (.old v)) s = .next t ∧ t = { s with qe := t.qe }
          ∧ getCmd t k = some { c with old := some (v % 2 ^ (8 * atSize c.raw)), done := 1 })
        ∧ (∃ t, exec (.hostAtomicCompletion k .unsupported) s = .next t ∧ t = { s with qe := t.qe, tu := t.tu }
          ∧ getCmd t k = some { c with phase := .finished, status := stFault, detail := 0, done := 0, fault := atAddr c.raw })
        ∧ ∃ t, exec (.hostAtomicTimeout k) s = .next t ∧ t = { s with qe := t.qe, tu := t.tu }
          ∧ getCmd t k = some { c with phase := .finished, status := stPoisoned, detail := 0, done := 0, fault := atAddr c.raw }))

/-- A non-idempotent request is performed once (R552, R553). A JOURNALED_REQUEST whose ID the home has journalled changes neither memory nor the journal; one with a new ID,
while the home has room, is performed and journalled; with the home's journal full it waits in its queue, with memory as it was. JOURNAL_ACK frees the entry
of its ID and no other. Here the request is an atomic of a quiet line of hub SRAM, and its home's journal holds no uncorrectable error (R555). -/
def Obligations.JournaledRequestsArePerformedOnce : Prop :=
  ∀ (s : State) (src seq addr tenant size a b label : Nat) (op : AOp), quietLine s (addr / 64 * 64) tenant → addr % 64 + size ≤ 64 → seq < 2 ^ 24 →
    spoilt s [.journal (homeOf s (addr / 64 * 64))] = false →
    let home := addr / 64 * 64 / 2 ^ 24
    let old := leNat (Memory.readN s.mem.bytes addr size)
    (∀ e, s.mem.journal.find? (fun e => e.src = src && e.seq = seq) = some e →
      exec (.journaledRequest src seq addr tenant ⟨.atomic op size a b, label⟩) s = .next { s with mem := { s.mem with nextOp := s.mem.nextOp + 1 } })
    ∧ (s.mem.journal.find? (fun e => e.src = src && e.seq = seq) = none → (s.mem.journal.filter fun e => e.home = home).length < 4096 →
      ∃ t, exec (.journaledRequest src seq addr tenant ⟨.atomic op size a b, label⟩) s = .next t ∧ t = { s with mem := t.mem }
        ∧ Memory.readN t.mem.bytes addr size = leBytes size (atomicNew op size old a b)
        ∧ (∀ x, x < addr ∨ addr + size ≤ x → Memory.read t.mem.bytes x = Memory.read s.mem.bytes x)
        ∧ t.mem.journal = { src := src, seq := seq, home := home, old := old, poison := none } :: s.mem.journal)
    ∧ (s.mem.journal.find? (fun e => e.src = src && e.seq = seq) = none → 4096 ≤ (s.mem.journal.filter fun e => e.home = home).length → s.mem.queue = [] →
      ∃ t, exec (.journaledRequest src seq addr tenant ⟨.atomic op size a b, label⟩) s = .next t
        ∧ t = { s with mem := { s.mem with nextOp := s.mem.nextOp + 1, queue := t.mem.queue } } ∧ t.mem.queue.map (·.jid) = [some (src, seq)])
    ∧ (s.mem.queue = [] → exec (.journalAck src seq) s =
        .next { s with mem := { s.mem with journal := s.mem.journal.filter fun e => !(e.src = src && e.seq = seq) } })

/-- The memory system's own rows. PATROL_SCRUB does nothing while SCRUB_CFG.EN is clear or core 6 is not running, and no DPA outside memory is patrolled; an access that core 6's
regions do not grant crashes core 6 (R333, R486, R493). Else an uncorrectable line outside every replica is written back as poisoned, counted, and raises MEM_UE, a correctable one is
corrected and counted, an intact one stays; a failing copy of a replicated line is rewritten from its intact copies (R330, R331, R340). REPLICA_ENABLE of an entry that R336 accepts sets EN and SYNCING, and otherwise
REJECTED, a reserved MODE leaving the mode as it was (R12); an enabled entry stays as it is. REPLICA_DISABLE stops an enabled entry at once, and writes COPIES and MODE of another (R341). REPLICA_SYNC_DONE of a syncing entry clears SYNCING (R337).
GROUP_MODE_WRITE sets the modes asked for: the requests from now on to each group whose mode is to change wait. GROUP_MODE_APPLY, with no earlier request to the
group outstanding, applies its change, and waits while one is queued; a group with no change due stays (R324). REGULATION_UPDATE moves every limit as R346 gives. -/
def Obligations.MemorySystemMaintains : Prop :=
  (∀ (s : State) (dpa : Nat),
    let line := dpa / 64 * 64
    let ph := place s line
    let on := bit (getReg s .ms 0 0x04C) 31 = true ∧ region s line ≠ 4 ∧ region s line ≠ 5 ∧ (getCore s 6).st = 0
    (¬ on → exec (.patrolScrub dpa) s = .next s)
    ∧ (on → patrolBarred s line = true → exec (.patrolScrub dpa) s = .next (crash 6 2 s))
    ∧ (on → patrolBarred s line = false →
      (replicaAt s line = none → mget s.mem.poison ph = none →
        (s.mem.uncorrectable.contains ph = true →
          ∃ t, exec (.patrolScrub dpa) s = .next t
            ∧ t.mem = { s.mem with uncorrectable := s.mem.uncorrectable.filter (· ≠ ph), poison := mset s.mem.poison ph 0 }
            ∧ getReg t .ms 0 0x058 = (getReg s .ms 0 0x058 + 1) % 2 ^ 32 ∧ bit (getReg t .ms 0 0x018) 1 = true)
        ∧ (s.mem.uncorrectable.contains ph = false → s.mem.correctable.contains ph = true →
          ∃ t, exec (.patrolScrub dpa) s = .next t ∧ t.mem = { s.mem with correctable := s.mem.correctable.erase ph }
            ∧ getReg t .ms 0 0x054 = (getReg s .ms 0 0x054 + 1) % 2 ^ 32)
        ∧ (s.mem.uncorrectable.contains ph = false → s.mem.correctable.contains ph = false → exec (.patrolScrub dpa) s = .next s))
      ∧ ∀ n i t good, replicaAt s line = some (n, i) → bit (getReg s .ms n 0x06C) 30 = false → s.mem.uncorrectable.contains ph = true →
          let first := getReg s .ms n 0x074 * 65536 + (line - getReg s .ms n (0x074 + 4 * i) * 65536)
          (copiesOf s first).findSome? (tenantOf s) = some t →
          agreed (bits (getReg s .ms n 0x06C) 25 24) (((copiesOf s first).filter fun x => lookAt s x t = .good).map (lineBytes s)) = some good →
          exec (.patrolScrub dpa) s = .next (repair n first t patrolOrigin good [(i, line)] s)))
  ∧ (∀ (s : State) (o : Origin) (v : Nat), v < 2 ^ 32 →
    let n := bankOf s .ms 0x06C
    let old := getReg s .ms n 0x06C
    let cfg := (if bits v 25 24 = 3 then bits old 25 24 else bits v 25 24) * 2 ^ 24 + b2n (bit v 16) * 2 ^ 16
    let kept := old &&& 0x7CFEFFFF
    (bit v 31 = false → exec (.replicaEnable o v) s = .next s)
    ∧ (bit v 31 = true → exec (.replicaDisable o v) s = .next s)
    ∧ (bit v 31 = true → canWrite s o .ms 0x06C →
      ∃ t, exec (.replicaEnable o v) s = .next t ∧ t.mem = s.mem
        ∧ getReg t .ms n 0x06C = if bit old 31 then old else if repRejected o n (setReg .ms n 0x06C cfg s) then 2 ^ 29 + cfg else 2 ^ 31 + 2 ^ 30 + cfg)
    ∧ (bit v 31 = false → canWrite s o .ms 0x06C →
      ∃ t, exec (.replicaDisable o v) s = .next t ∧ t.mem = s.mem ∧ getReg t .ms n 0x06C = if bit old 31 then old &&& 0x03010000 else kept ||| cfg))
  ∧ (∀ (s : State) (n : Nat), n < 16 →
    let due := bit (getReg s .ms n 0x06C) 31 = true ∧ bit (getReg s .ms n 0x06C) 30 = true ∧ (getCore s 6).st = 0
    (¬ due → exec (.replicaSyncDone n) s = .next s)
    ∧ (due → syncBarred s n = true → exec (.replicaSyncDone n) s = .next (crash 6 2 s))
    ∧ (due → syncBarred s n = false → ∃ t, exec (.replicaSyncDone n) s = .next t ∧ getReg t .ms n 0x06C = getReg s .ms n 0x06C - 2 ^ 30))
  ∧ (∀ (s : State) (o : Origin) (off mask v : Nat), (off, mask) ∈ [(0x040, 0xFFFFFFFF), (0x044, 0x3FFFFFFF), (0x048, 0x7FFFFFFF)] →
    canWrite s o .ms off → v < 2 ^ 32 → s.mem.queue = [] →
    ∃ t, exec (.groupModeWrite o off v) s = .next t ∧ getReg t .ms 0 off &&& mask = v &&& mask ∧ t.mem = { s.mem with modeFrom := t.mem.modeFrom }
      ∧ ∀ g ∈ groups, mget t.mem.modeFrom (groupKey g) = if modeDue t g then some ((mget s.mem.modeFrom (groupKey g)).getD s.mem.nextOp) else none)
  ∧ (∀ (s : State) (lpddr : Bool) (g : Nat), g < (if lpddr then 31 else 62) →
    let key := groupKey (lpddr, g)
    (mget s.mem.modeFrom key = none → exec (.groupModeApply lpddr g) s = .next s)
    ∧ ∀ n, mget s.mem.modeFrom key = some n →
      (s.mem.queue = [] →
        ∃ t, exec (.groupModeApply lpddr g) s = .next t
          ∧ t = { s with mem := { s.mem with modesHbm := t.mem.modesHbm, modesLpddr := t.mem.modesLpddr, modeFrom := mdel s.mem.modeFrom key } }
          ∧ (∀ i, bit t.mem.modesHbm i = if !lpddr && i = g then bit (modesAsked s).1 g else bit s.mem.modesHbm i)
          ∧ ∀ i, bit t.mem.modesLpddr i = if lpddr && i = g then bit (modesAsked s).2 g else bit s.mem.modesLpddr i)
      ∧ ∀ o ∈ s.mem.queue, tier o.line ≠ 0 → groupOf o.line = (lpddr, g) → o.id < n → exec (.groupModeApply lpddr g) s = .next s)
  ∧ ∀ (s : State) (occ : List Nat),
    ∃ t, exec (.regulationUpdate occ) s = .next t ∧ t = { s with mem := { s.mem with limits := t.mem.limits } }
      ∧ ∀ i, i < 16 →
        let p := getReg s .ms i 0x09C
        let m := getReg s .ms i 0x0A0
        let lmax := zero1 (bits p 31 24)
        let lmin := Nat.min lmax (zero1 (bits p 23 16))
        let l := limitOf s i
        let q := occ.getD i 0
        limitOf t i = Nat.min lmax (if bits m 24 16 < q then Nat.max lmin (l * zero1 (bits p 3 0) / 16)
          else if q < Nat.min (bits m 24 16) (bits m 8 0) then l + zero1 (bits p 11 8) else l)

/-- QUEUE_CREATE_SQ and QUEUE_CREATE_CQ that name a free slot, within the quota, make that queue with the entry's fields and complete SUCCESS with DONE the slot; at the
quota they complete NO_RESOURCE, on a slot in use BUSY, for another function than a VF's own NOT_PERMITTED, and for an SQ whose CQ does not exist INVALID_FIELD with DETAIL 18
(R55, R92, R93). QUEUE_DESTROY removes a CQ that no SQ names at once, and answers BUSY for one that is named; for an SQ it stops fetch, and
QUEUE_DESTROY_FINISH removes it once its dispatched commands have completed, and waits while one has not (R94). -/
def Obligations.QueuesAreCreatedAndDestroyed : Prop :=
  ∀ (s : State) (k : Nat) (c : Cmd),
    let slot := fld c.raw 16 2
    let done := fun (t : State) (q : Qe) (st d n : Nat) => t = { s with qe := { q with cmds := t.qe.cmds } } ∧ getCmd t k = some (c.ended st d n 0)
    (adminAt s k 0x80 = some c → (fld c.raw 21 1 ≠ 1 ∨ inOneTier s (fld c.raw 32 8) (128 * 2 ^ fld c.raw 20 1) = true) → fld c.raw 23 1 = 0xFF →
      let f := namedFn c 26
      let n := (s.qe.sqs.filter fun p => 64 ≤ p.1 && p.2.f = f).length
      (c.f ≠ 0 → f ≠ c.f → ∃ t, exec (.queueCreateSq k) s = .next t ∧ done t s.qe stNotPermitted 0 0)
      ∧ (c.f = 0 ∨ f = c.f →
        (mget s.qe.cqs (fld c.raw 18 2) = none → ∃ t, exec (.queueCreateSq k) s = .next t ∧ done t s.qe stField 18 0)
        ∧ ∀ cq x, mget s.qe.cqs (fld c.raw 18 2) = some cq → cq.f = f → 64 ≤ fld c.raw 18 2 → mget s.qe.ctxs (fld c.raw 24 2) = some x → x.f = f →
          (quota s f 0x054 28 16 ≤ n → ∃ t, exec (.queueCreateSq k) s = .next t ∧ done t s.qe stNoResource 0 0)
          ∧ (n < quota s f 0x054 28 16 → slot ≠ 0xFFFF → mhas s.qe.sqs slot = true → ∃ t, exec (.queueCreateSq k) s = .next t ∧ done t s.qe stBusy 0 0)
          ∧ (n < quota s f 0x054 28 16 → slot ≠ 0xFFFF → mhas s.qe.sqs slot = false →
            let q : Sq := { f := f, base := fld c.raw 32 8, log2 := fld c.raw 20 1, device := decide (fld c.raw 21 1 = 1), weight := fld c.raw 22 1, berth := none,
                            owner := fld c.raw 24 2, cq := fld c.raw 18 2, en := true }
            ∃ t, exec (.queueCreateSq k) s = .next t ∧ done t { s.qe with sqs := mset s.qe.sqs slot q } stSuccess 0 slot)))
    ∧ (adminAt s k 0x81 = some c → (fld c.raw 21 1 ≠ 1 ∨ inOneTier s (fld c.raw 32 8) (32 * 2 ^ fld c.raw 20 1) = true) → fld c.raw 28 1 = 0xFF →
      let f := namedFn c 29
      let n := (s.qe.cqs.filter fun p => 64 ≤ p.1 && p.2.f = f).length
      (c.f = 0 ∨ f = c.f → quota s f 0x054 12 0 ≤ n → ∃ t, exec (.queueCreateCq k) s = .next t ∧ done t s.qe stNoResource 0 0)
      ∧ (c.f = 0 ∨ f = c.f → n < quota s f 0x054 12 0 → slot ≠ 0xFFFF → mhas s.qe.cqs slot = false →
        let q : Cq := { f := f, base := fld c.raw 32 8, log2 := fld c.raw 20 1, device := decide (fld c.raw 21 1 = 1), vector := fld c.raw 22 2,
                        irqCount := fld c.raw 24 2, irqTime := fld c.raw 26 2, berth := none }
        ∃ t, exec (.queueCreateCq k) s = .next t ∧ done t { s.qe with cqs := mset s.qe.cqs slot q } stSuccess 0 slot))
    ∧ (adminAt s k 0x82 = some c → 64 ≤ slot →
      (∀ q, fld c.raw 18 1 = 1 → mget s.qe.cqs slot = some q → q.f = c.f →
        ((s.qe.sqs.any fun p => p.2.cq = slot) = true → ∃ t, exec (.queueDestroy k) s = .next t ∧ done t s.qe stBusy 0 0)
        ∧ ((s.qe.sqs.any fun p => p.2.cq = slot) = false → ∃ t, exec (.queueDestroy k) s = .next t ∧ done t { s.qe with cqs := mdel s.qe.cqs slot } stSuccess 0 0))
      ∧ ∀ q, fld c.raw 18 1 = 0 → mget s.qe.sqs slot = some q → q.f = c.f →
        ∃ t, exec (.queueDestroy k) s = .next t
          ∧ t = { s with qe := { s.qe with sqs := mupd s.qe.sqs slot fun q => { q with en := false, destroying := true }, cmds := t.qe.cmds } }
          ∧ getCmd t k = some { c with phase := .running, stage := 1 })
    ∧ (adminIn s k 0x82 = some c →
      ((s.qe.cmds.any fun p => p.2.sq = slot) = true → exec (.queueDestroyFinish k) s = .next s)
      ∧ ((s.qe.cmds.any fun p => p.2.sq = slot) = false → ∃ t, exec (.queueDestroyFinish k) s = .next t ∧ done t { s.qe with sqs := mdel s.qe.sqs slot } stSuccess 0 0))

/-- Contexts and fence blocks (R50, R92, R95, R96, R106, R190). CONTEXT_CREATE that names a free number makes the context and completes with DONE the number; with a PASID for a
function whose PASID Enable or ATS Enable is clear it completes INVALID_FIELD with DETAIL 20. CONTEXT_DRAIN of a drained context completes
at once; of another, with no entry of an I/O SQ waiting for dispatch, it disables every SQ the context owns and aborts its commands that wait on fences. CONTEXT_DRAIN_FINISH
goes on when the owned SQs have given up their entries, waits for the context's commands, and then, without a PASID to invalidate, completes with DONE the entries aborted and the context
drained. CONTEXT_DESTROY of a drained context without fence blocks and grants removes it, and answers BUSY for one that was used and not drained.
FENCE_ALLOC gives the context N consecutive free blocks, their fences zero and OK and their OWNER registers the function's; FENCE_FREE abandons every fence of the block. -/
def Obligations.ContextsAndFenceBlocks : Prop :=
  ∀ (s : State) (k : Nat) (c : Cmd),
    let n := fld c.raw 16 2
    let done := fun (t : State) (q : Qe) (st d m : Nat) => t = { s with qe := { q with cmds := t.qe.cmds } } ∧ getCmd t k = some (c.ended st d m 0)
    (adminAt s k 0x84 = some c → bit (fld c.raw 20 4) 31 = true → ((fnCfg s (namedFn c 25)).pasid = false ∨ (fnCfg s (namedFn c 25)).ats = false) →
      ∃ t, exec (.contextCreate k) s = .next t ∧ done t s.qe stField 20 0)
    ∧ (adminAt s k 0x84 = some c → (bit (fld c.raw 20 4) 31 = true → (fnCfg s (namedFn c 25)).pasid = true ∧ (fnCfg s (namedFn c 25)).ats = true) →
      (c.f = 0 ∨ namedFn c 25 = c.f) → (s.qe.ctxs.filter fun p => p.2.f = namedFn c 25).length < quota s (namedFn c 25) 0x058 28 16 →
      n ≠ 0xFFFF → mhas s.qe.ctxs n = false →
      let p := fld c.raw 20 4
      let x : Ctx := { f := namedFn c 25, pasid := if bit p 31 then some (p % 2 ^ 20) else none, report := bit (fld c.raw 24 1) 0, drop := bit (fld c.raw 24 1) 1 }
      ∃ t, exec (.contextCreate k) s = .next t ∧ done t { s.qe with ctxs := mset s.qe.ctxs n x } stSuccess 0 n)
    ∧ (∀ x, adminAt s k 0x86 = some c → mget s.qe.ctxs n = some x → x.f = c.f →
      (x.drained = true → ∃ t, exec (.contextDrain k) s = .next t ∧ done t s.qe stSuccess 0 0)
      ∧ (x.drained = false → (∀ p ∈ s.qe.sqs, 64 ≤ p.1 → p.2.ready = []) →
        ∃ t, exec (.contextDrain k) s = .next t
          ∧ (mget t.qe.ctxs n).any (fun y => y.draining) = true
          ∧ (∀ q sq, mget t.qe.sqs q = some sq → 64 ≤ q → sq.owner = n → sq.en = false ∧ sq.draining = true)
          ∧ (∀ j d, getCmd s j = some d → 64 ≤ d.sq → d.ctx = n → d.phase = .fence → getCmd t j = some (d.ended stAborted 0 0 0))
          ∧ getCmd t k = some { c with phase := .running, stage := 1 } ∧ t.qe.cqs = s.qe.cqs ∧ t.mem.bytes = s.mem.bytes))
    ∧ (∀ x, adminIn s k 0x86 = some c → mget s.qe.ctxs n = some x →
      (c.stage = 1 → ((s.qe.sqs.filter fun p => 64 ≤ p.1 && p.2.owner = n).all fun p => p.2.drainedOut) = true →
        exec (.contextDrainFinish k) s = .next (updCmd k (fun c => { c with stage := 2, aux := x.aborted }) s))
      ∧ (c.stage = 2 → (s.qe.cmds.any fun p => 64 ≤ p.2.sq && p.2.ctx = n && p.2.phase ≠ .finished) = true → exec (.contextDrainFinish k) s = .next s)
      ∧ (c.stage = 2 → (s.qe.cmds.any fun p => 64 ≤ p.2.sq && p.2.ctx = n && p.2.phase ≠ .finished) = false → x.pasid = none →
          (∀ p ∈ s.qe.blocks, p.2.ctx ≠ n) →
          ∃ t, exec (.contextDrainFinish k) s = .next t ∧ done t { s.qe with ctxs := mupd s.qe.ctxs n fun x => { x with drained := true } } stSuccess 0 c.aux))
    ∧ (∀ x, adminAt s k 0x85 = some c → mget s.qe.ctxs n = some x → x.f = c.f →
      (x.drained = false → x.used = true → ∃ t, exec (.contextDestroy k) s = .next t ∧ done t s.qe stBusy 0 0)
      ∧ (x.drained = true → (∀ p ∈ s.qe.blocks, p.2.ctx ≠ n) → (∀ b, b < 8 → (getBerth s b).grants.contains n = false) →
        ∃ t, exec (.contextDestroy k) s = .next t ∧ done t { s.qe with ctxs := mdel s.qe.ctxs n } stSuccess 0 0))
    ∧ (∀ x, adminAt s k 0x88 = some c → mget s.qe.ctxs n = some x → x.f = c.f → c.f < 64 →
      let m := fld c.raw 18 1
      (s.qe.blocks.filter fun p => p.2.f = x.f).length + m ≤ quota s x.f 0x058 8 0 → m ≤ 16 → (∃ b, b + m ≤ 256 ∧ ∀ i, i < m → mhas s.qe.blocks (b + i) = false) →
      ∃ t b, exec (.fenceAlloc k) s = .next t ∧ b + m ≤ 256 ∧ getCmd t k = some (c.ended stSuccess 0 b 0)
        ∧ (∀ i, i < m → mhas s.qe.blocks (b + i) = false ∧ mget t.qe.blocks (b + i) = some { f := x.f, ctx := n }
            ∧ getReg t (.qeFb (b + i)) 0 0x008 = if x.f = 0 then 0x0D else x.f * 65536 + 0x0F)
        ∧ (∀ i, i < 256 * m → getFence t (256 * b + i) = {}) ∧ t.qe.ctxs = s.qe.ctxs ∧ t.mem = s.mem)
    ∧ (∀ x, adminAt s k 0x89 = some c → mget s.qe.blocks (fld c.raw 16 1) = some x → x.f = c.f →
      ∃ t, exec (.fenceFree k) s = .next t ∧ mhas t.qe.blocks (fld c.raw 16 1) = false ∧ getCmd t k = some (c.ended stSuccess 0 0 0)
        ∧ (∀ i, i < 256 → 2 ≤ (getFence t (256 * fld c.raw 16 1 + i)).status) ∧ (∀ b, b ≠ fld c.raw 16 1 → mget t.qe.blocks b = mget s.qe.blocks b))

/-- Recipes, remote windows, key sessions and streams (R277 to R279, R410 to R412, R417, R459, R462, R465). RECIPE_STORE from host memory asks for its steps; read
whole and clean, valid steps are stored under the named number, and the first invalid step is named in CH.RECIPE_ERR with INVALID_FIELD, DETAIL 24; a full store takes none and answers NO_RESOURCE. RECIPE_DELETE removes a recipe of
its function that no CHURN_STORED uses. WINDOW_CREATE of a named inbound window on the manager's hub opens it and enters it in the directory; WINDOW_DESTROY shuts the window and
then removes it and its entry. KEY_SESSION_OPEN of a memory session allots a free slot with a new key, completes with DONE the slot, or ends NO_RESOURCE where the random source fails its test, and answers BUSY for a tenant that has one; KEY_SESSION_CLOSE of a bounce
session no command uses retires its key. STREAM_CREATE on an Ethernet link makes the channel with its ring and descriptors in hub SRAM; STREAM_DESTROY ends it, and completes once it has stopped. -/
def Obligations.RecipesWindowsSessionsStreams : Prop :=
  ∀ (s : State) (k : Nat) (c : Cmd),
    let done := fun (t u : State) (st d n : Nat) => t = { u with qe := { u.qe with cmds := t.qe.cmds } } ∧ getCmd t k = some (c.ended st d n 0)
    (∀ n, n = fld c.raw 16 2 → n ≠ 0xFFFF → getCmd s k = some c → c.sq < 64 → c.op = 0x8C → adminCoreUp s c.f = true →
      (c.phase = .ready → s.tg.ckpt = false → mget s.qe.recipes n = none → fld c.raw 19 1 = 0 → s.gw.detached = false →
        exec (.recipeStore k) s = .next (toStage k 2 (hostRead (plainTag c.f) (.recipe k) (sideAt 0 (fld c.raw 24 8)) (fld c.raw 24 8) (4 * fld c.raw 18 1) s)))
      ∧ (∀ steps : List Word, c.phase = .running → c.stage = 2 → ioOpen s (.recipe k) = false → c.stop = none →
        steps = ((List.range (fld c.raw 18 1)).map fun i => BitVec.ofNat 32 (pnum (bufBytes c.buf 0 (fld c.raw 24 8 + 4 * i) 4))) → ppoison c.buf = none →
        (firstBadStep steps = none → mget s.qe.recipes n = none → s.qe.recipes.length < 1024 →
          ∃ t, exec (.recipeStore k) s = .next t ∧ t = { s with qe := t.qe, tu := t.tu } ∧ getCmd t k = some (c.ended stSuccess 0 n 0)
            ∧ t.qe.recipes = mset s.qe.recipes n { f := c.f, steps := steps })
        ∧ (firstBadStep steps = none → mget s.qe.recipes n = none → freeNums s.qe.recipes 0 1024 = [] → 1024 ≤ s.qe.recipes.length →
          ∃ t, exec (.recipeStore k) s = .next t ∧ t.qe.recipes = s.qe.recipes ∧ getCmd t k = some (c.ended stNoResource 0 0 0))
        ∧ ∀ i, firstBadStep steps = some i → c.f < 65536 → i < 64 →
          ∃ t, exec (.recipeStore k) s = .next t ∧ t.qe.recipes = s.qe.recipes ∧ getCmd t k = some (c.ended stField 24 0 0)
            ∧ getReg t .ch 0 0x044 = i * 2 ^ 16 + c.f ∧ bit (getReg t .ch 0 0x018) 0 = true))
    ∧ (adminAt s k 0x8D = some c →
      (mget s.qe.recipes (fld c.raw 16 2) = none → ∃ t, exec (.recipeDelete k) s = .next t ∧ done t s stRecipe 0 0)
      ∧ ∀ r, mget s.qe.recipes (fld c.raw 16 2) = some r → r.f = c.f →
        (s.qe.cmds.any fun p => p.2.op = 0x21 && 64 ≤ p.2.sq && fld p.2.raw 48 2 = fld c.raw 16 2 && p.2.phase ≠ .finished) = false →
        ∃ t, exec (.recipeDelete k) s = .next t ∧ done t { s with qe := { s.qe with recipes := mdel s.qe.recipes (fld c.raw 16 2) } } stSuccess 0 (fld c.raw 16 2))
    ∧ (adminAt s k 0x8A = some c → (c.f = 0 ∨ namedFn c 30 = c.f) → fld c.raw 16 1 = 0 → s.hl.role = 3 → s.hl.manager.isSome = true → s.hl.idValid = true →
      fld c.raw 18 2 ≠ 0xFFFF → mhas s.hl.inw (fld c.raw 18 2) = false →
      let n := fld c.raw 18 2
      let w : InWin := { f := namedFn c 30, base := fld c.raw 32 8, len := fld c.raw 40 8, rights := codeRights (fld c.raw 24 1), tag := fld c.raw 20 4,
                         allowId := fld c.raw 26 2, allowMask := fld c.raw 28 2, open_ := true }
      ∃ t, exec (.windowCreate k) s = .next t ∧ t = { s with qe := { s.qe with cmds := t.qe.cmds }, hl := { s.hl with inw := t.hl.inw, dir := t.hl.dir, known := t.hl.known } }
        ∧ mget t.hl.inw n = some w ∧ (∀ i, i ≠ n → mget t.hl.inw i = mget s.hl.inw i)
        ∧ { hub := s.hl.hubId, win := n, tag := w.tag, len := w.len, rights := w.rights, allowId := w.allowId, allowMask := w.allowMask } ∈ t.hl.dir
        ∧ (getCmd t k).any (fun d => d.phase = .finished ∧ d.status = stSuccess ∧ d.done = n) = true)
    ∧ (∀ w, fld c.raw 16 1 = 0 → mget s.hl.inw (fld c.raw 18 2) = some w → w.f = namedFn c 30 → (c.f = 0 ∨ w.f = c.f) →
      (adminAt s k 0x8B = some c →
        ∃ t, exec (.windowDestroy k) s = .next t ∧ t = { s with qe := { s.qe with cmds := t.qe.cmds }, hl := { s.hl with inw := t.hl.inw } }
          ∧ mget t.hl.inw (fld c.raw 18 2) = some { w with open_ := false } ∧ getCmd t k = some { c with phase := .running, stage := 1 })
      ∧ (adminAt s k 0x8B = none → adminIn s k 0x8B = some c → (s.hl.ins.any fun i => i.req.win = fld c.raw 18 2) = false → s.hl.manager.isSome = true → s.hl.role = 3 →
        ∃ t, exec (.windowDestroy k) s = .next t ∧ mhas t.hl.inw (fld c.raw 18 2) = false
          ∧ (∀ d ∈ t.hl.dir, ¬(d.hub = s.hl.hubId ∧ d.win = fld c.raw 18 2)) ∧ getCmd t k = some (c.ended stSuccess 0 (fld c.raw 18 2) 0)))
    ∧ (adminAt s k 0x8E = some c → fld c.raw 16 1 = 0 → (∀ p ∈ s.sp.slots, p.2.st = 1) → (s.sp.teardowns.any fun t => t.f = fld c.raw 17 1) = false →
      ((s.sp.slots.any fun p => p.2.st = 1 && (!p.2.bounce && p.2.f = fld c.raw 17 1)) = true → ∃ t, exec (.keySessionOpen k) s = .next t ∧ done t s stBusy 0 0)
      ∧ ((s.sp.slots.any fun p => p.2.st = 1 && (!p.2.bounce && p.2.f = fld c.raw 17 1)) = false → freeNums s.sp.slots 0 128 ≠ [] → s.sp.slots.length < 124 →
        let passes := s.sp.trngOk && (Config.freeWord s.fresh).getLsbD 0
        ∃ t, exec (.keySessionOpen k) s = .next t
          ∧ (passes = true → ∃ n, n < 128 ∧ mhas s.sp.slots n = false ∧ getCmd t k = some (c.ended stSuccess 0 n 0)
            ∧ t = { s with qe := { s.qe with cmds := t.qe.cmds }, fresh := t.fresh, sp := { s.sp with nextKey := s.sp.nextKey + 1, slots := t.sp.slots } }
            ∧ t.sp.slots = mset s.sp.slots n { st := 1, bounce := false, f := fld c.raw 17 1, ctx := 0, key := 2 * (s.sp.nextKey + 1) })
          ∧ (passes = false → getCmd t k = some (c.ended stNoResource 0 0 0) ∧ t.sp = s.sp ∧ t.mem = s.mem ∧ bit (getReg t .sp 0 0x018) 3 = true
            ∧ (bit (getReg s .sp 0 0x024) 31 = false → getReg t .sp 0 0x024 = (2 ^ 31 + 1 * 2 ^ 16 + originCode (fnOrigin c.f)) % 2 ^ 32))))
    ∧ (∀ x, adminAt s k 0x8F = some c → fld c.raw 16 2 ≠ 0 → mget s.sp.slots (fld c.raw 16 2) = some x → x.st = 1 → x.bounce = true →
      (s.qe.cmds.any fun p => 64 ≤ p.2.sq && p.2.ctx = x.ctx && p.2.phase ≠ .finished) = false →
      ∃ t, exec (.keySessionClose k) s = .next t ∧ done t { s with sp := { s.sp with slots := mupd s.sp.slots (fld c.raw 16 2) Slot.retire } } stSuccess 0 (fld c.raw 16 2)
        ∧ mget t.sp.slots (fld c.raw 16 2) = some { x with st := 2, key := 0 })
    ∧ (∀ ch : Chan, adminAt s k 0x90 = some c → isEther s (fld c.raw 17 1) = true → fld c.raw 16 1 ≠ 0xFF → mhas s.st.chans (fld c.raw 16 1) = false →
      ch = { link := fld c.raw 17 1, kind := fld c.raw 18 1, sample := fld c.raw 19 1, streamId := fld c.raw 20 8, width := fld c.raw 28 2, height := fld c.raw 30 2,
             ring := fld c.raw 32 8, pitch := if fld c.raw 40 2 = 0 then cdiv (fld c.raw 28 2 * (if fld c.raw 19 1 = 0 then 1 else 2)) 64 * 64 else fld c.raw 40 2,
             slots := fld c.raw 42 1, cls := bits (fld c.raw 43 1) 2 0, deadline := fld c.raw 44 4, desc := fld c.raw 48 8, descLog2 := fld c.raw 56 1, vector := fld c.raw 58 2 } →
      ch.ring + ch.slotBytes * ch.slots ≤ 0x1FE000000 → ch.desc + 32 * 2 ^ ch.descLog2 ≤ 0x1FE000000 →
      ∃ t, exec (.streamCreate k) s = .next t ∧ done t { s with st := { s.st with chans := mset s.st.chans (fld c.raw 16 1) ch } } stSuccess 0 (fld c.raw 16 1))
    ∧ (adminAt s k 0x91 = some c → mhas s.st.chans (fld c.raw 16 1) = true →
      ∃ t, exec (.streamDestroy k) s = .next t ∧ t = { s with qe := { s.qe with cmds := t.qe.cmds }, st := { s.st with chans := t.st.chans } }
        ∧ (mget t.st.chans (fld c.raw 16 1)).any (·.ending) = true ∧ getCmd t k = some { c with phase := .running, stage := 1 })
    ∧ (adminAt s k 0x91 = none → adminIn s k 0x91 = some c → mhas s.st.chans (fld c.raw 16 1) = false → (s.mem.queue.any fun o => o.who = .stream (fld c.raw 16 1)) = false →
      ∃ t, exec (.streamDestroy k) s = .next t ∧ done t s stSuccess 0 (fld c.raw 16 1))

/-- The life of a CHURN command (R248, R264, R265, R268 to R273, R280 to R282, R285). CHURN_INLINE and CHURN_STORED begin it with the entry's or the stored recipe's steps and ask for its
pages. With every page translated, every window placed and no broadcast line to read, WINDOW_PLAN_DONE places the windows, and with the broadcast lines read it takes them, the windows translated anew where they died meanwhile; SEQUENCER_START gives a free cluster the first planned command
that has windows there, where none is over already; WINDOW_START starts an idle engine's next window at step 0; BARRIER_RELEASE moves every engine of the round on once all have arrived and their writes are performed.
ENGINE_FAULT quarantines the engine, ends its window, counts the fault and raises the cluster's event 0; CLUSTER_RESET of an idle cluster with a quarantined engine begins the reset, CLUSTER_REMAP maps the engine to a
spare, or retires it when there is none, and clears the cluster's engines; CLUSTER_RESET_REQUEST asks for a reset. -/
def Obligations.ChurnCommandsRun : Prop :=
  (∀ (s : State) (k : Nat) (c : Cmd), (chBcast c.raw ≠ 0 ∨ chLines c.raw = 0 ∨ s.gw.detached = false) → c.stop = none →
    let begun := fun (t : State) (steps : List Word) => getRun t k = some { steps := steps } ∧ getCmd t k = some { c with phase := .running }
      ∧ (getPlan t (.churn k)).isSome = true ∧ t.mem = s.mem
    (startable s k 0x20 = some c → ∃ t, exec (.churnInline k) s = .next t ∧ begun t (inlineSteps c.raw))
    ∧ (startable s k 0x21 = some c →
      (∀ r, mget s.qe.recipes (bits (fld c.raw 48 2) 9 0) = some r → r.f = c.f → ∃ t, exec (.churnStored k) s = .next t ∧ begun t r.steps)
      ∧ (mget s.qe.recipes (bits (fld c.raw 48 2) 9 0) = none →
        ∃ t, exec (.churnStored k) s = .next t ∧ t = { s with qe := t.qe } ∧ getCmd t k = some (c.ended stRecipe 0 0 0))))
  ∧ (∀ (s : State) (k : Nat) (c : Cmd) (r : Run) (p : Plan) (wins : List Win), getCmd s k = some c → getRun s k = some r → r.planned = false → r.reading = false → c.stop = none →
    chLines c.raw = 0 → getPlan s (.churn k) = some p → (∀ it ∈ p.items, it.isOk = true) →
    ((List.range (chWindows c.raw + chExtra c.raw)).map fun w => (w, placeWin c.raw p.items w)) = wins.map (fun w => (w.w, Placed.at_ w.dpa)) →
    (∀ w ∈ wins, w = { w := w.w, dpa := w.dpa, runs := decide (w.w < chWindows c.raw) }) →
    (∀ w ∈ wins, (getCluster s w.cluster).retired = []) →
    exec (.windowPlanDone k) s = .next (updRun k (fun r => { r with wins := wins, clusters := ((wins.filter (·.runs)).map Win.cluster).dedup, planned := true }) s))
  ∧ (∀ (s : State) (k : Nat) (c : Cmd) (r : Run) (p : Plan) (wins : List Win), getCmd s k = some c → getRun s k = some r → r.planned = false → r.reading = true → c.stop = none → ioOpen s (.churn k) = false →
    bounceOf s c.f c.ctx = none → getPlan s (.churn k) = some p → (∀ it ∈ p.items, isWinPage c.raw it = true → it.isOk = true) →
    ((List.range (chWindows c.raw + chExtra c.raw)).map fun w => (w, placeWin c.raw (p.items.filter fun it => isWinPage c.raw it) w)) = wins.map (fun w => (w.w, Placed.at_ w.dpa)) →
    (∀ w ∈ wins, w = { w := w.w, dpa := w.dpa, runs := decide (w.w < chWindows c.raw) }) →
    (∀ w ∈ wins, (getCluster s w.cluster).retired = []) →
    exec (.windowPlanDone k) s = .next (updRun k (fun r => { r with wins := wins, clusters := ((wins.filter (·.runs)).map Win.cluster).dedup, buf := [], reading := false, planned := true, bcast := (List.range (chLines c.raw)).map fun i =>
      let bs := bufBytes r.buf 0 (fld c.raw 32 8 + 64 * i) 64
      (BitVec.ofNat 512 (pnum bs), (ppoison bs).isSome) }) s))
  ∧ (∀ (s : State) (cl k : Nat) (c : Cmd) (r : Run), cl < 512 → (getCluster s cl).run = none → (getCluster s cl).resetting = false → (getCluster s cl).asked = false →
    (getCluster s cl).quar = [] → (getCluster s cl).retired = [] → s.sl.h = 0 → rampHolds s = false → (∀ p ∈ s.ch.runs, p.2.clusters.contains cl = true → runCheck p.1 s = s) →
    (s.qe.cmds.find? fun p => (p.2.op = 0x20 || p.2.op = 0x21) && 64 ≤ p.2.sq && (p.2.phase = .ready || p.2.phase = .running)
      && (match getRun s p.1 with
          | some r => !r.planned || (r.clusters.contains cl && (r.wins.any fun w => w.cluster = cl && !winOver s p.1 r w))
          | none => true)) = some (k, c) → getRun s k = some r →
    (r.planned = true → exec (.sequencerStart cl) s = .next (updCluster cl (fun x => { x with run := some k }) s))
    ∧ (r.planned = false → exec (.sequencerStart cl) s = .next s))
  ∧ (∀ (s : State) (e k n : Nat) (c : Cmd) (r : Run) (w : Win), e < 32768 → (getCluster s (e / 64)).run = some k → (getCluster s (e / 64)).quar = [] → getCmd s k = some c → getRun s k = some r →
    (getEng s e).win = none → r.stop = none → c.stop = none → rampHolds s = false → writesPerformed s k = true → ((engWins r e).zipIdx.find? fun w => !w.1.started && !w.1.ended) = some (w, n) →
    ∃ t, exec (.windowStart e) s = .next t ∧ t = { s with ch := { s.ch with runs := t.ch.runs, engines := t.ch.engines } }
      ∧ getEng t e = { win := some w.w, k := k, round := n } ∧ (∀ i, i ≠ e → getEng t i = getEng s i)
      ∧ getRun t k = some { r with wins := r.wins.map fun x => if x.w = w.w then { x with started := true } else x })
  ∧ (∀ (s : State) (cl k n : Nat) (r : Run), cl < 512 → (getCluster s cl).run = some k → getRun s k = some r → rampHolds s = false → writesPerformed s k = true →
    let arrived := fun (i : Nat) => i / 64 = cl ∧ (getEng s i).win.isSome = true ∧ (getEng s i).atBar = true
    (∃ i, arrived i ∧ (getEng s i).round = n) → (∀ i, arrived i → n ≤ (getEng s i).round) →
    (∀ i w, i / 64 = cl → roundWin r i n = some w → winOver s k r w = true ∨ ((getEng s i).win = some w.w ∧ (getEng s i).atBar = true)) →
    ∃ t, exec (.barrierRelease cl) s = .next t ∧ t.mem = s.mem
      ∧ (∀ i, (arrived i ∧ (getEng s i).round = n) →
        { getEng t i with win := (getEng s i).win } = { getEng s i with atBar := false, step := (getEng s i).step + 1 } ∧ (r.steps.length ≤ (getEng s i).step + 1 → (getEng t i).win = none))
      ∧ (∀ i, ¬(arrived i ∧ (getEng s i).round = n) → { getEng t i with win := (getEng s i).win, atBar := (getEng s i).atBar } = getEng s i)
      ∧ ((∀ i, arrived i → (getEng s i).step + 1 < r.steps.length) → t = { s with ch := { s.ch with engines := t.ch.engines } }
        ∧ ∀ i, (getEng t i).win = (getEng s i).win ∧ (¬(arrived i ∧ (getEng s i).round = n) → getEng t i = getEng s i)))
  ∧ (∀ (s : State) (e : Nat), e < 32768 → (getEng s e).win = none → (getCluster s (e / 64)).run = none →
    ∃ t, exec (.engineFault e) s = .next t ∧ e % 64 ∈ (getCluster t (e / 64)).quar ∧ t.mem = s.mem ∧ t.qe = s.qe
      ∧ getReg t (.chCluster (e / 64)) 0 0x064 = (getReg s (.chCluster (e / 64)) 0 0x064 + 1) % 2 ^ 32 ∧ bit (getReg t (.chCluster (e / 64)) 0 0x018) 0 = true)
  ∧ (∀ (s : State) (e w : Nat) (c : Cmd) (r : Run), e < 32768 → (getEng s e).win = some w → getCmd s (getEng s e).k = some c → getRun s (getEng s e).k = some r →
    ∃ t, exec (.engineFault e) s = .next t ∧ (getEng t e).win = none ∧ e % 64 ∈ (getCluster t (e / 64)).quar
      ∧ getReg t (.chCluster (e / 64)) 0 0x064 = (getReg s (.chCluster (e / 64)) 0 0x064 + 1) % 2 ^ 32 ∧ bit (getReg t (.chCluster (e / 64)) 0 0x018) 0 = true)
  ∧ (∀ (s : State) (cl : Nat), cl < 512 →
    ((getCluster s cl).run = none → (getCluster s cl).resetting = false → (getCluster s cl).quar ≠ [] →
      exec (.clusterReset cl) s = .next (updCluster cl (fun x => { x with resetting := true }) s))
    ∧ ((getCluster s cl).run.isSome = true → exec (.clusterReset cl) s = .next s)
    ∧ (∀ i, (getCluster s cl).resetting = true → (getCluster s cl).quar = [i] → i < 64 →
      ∃ t, exec (.clusterRemap cl) s = .next t ∧ (getCluster t cl).resetting = false ∧ (getCluster t cl).asked = false ∧ (getCluster t cl).quar = []
        ∧ (∀ e, e / 64 = cl → getEng t e = {}) ∧ t.mem.bytes = s.mem.bytes
        ∧ ((getCluster s cl).spares = 0 → i ∈ (getCluster t cl).retired ∧ bit (getReg t (.chCluster cl) 0 0x018) 2 = true)
        ∧ ((getCluster s cl).spares ≠ 0 → (getCluster t cl).spares = (getCluster s cl).spares - 1 ∧ mget (getCluster t cl).map i = some (66 - (getCluster s cl).spares)
            ∧ bit (getReg t (.chCluster cl) 0 0x018) 1 = true))
    ∧ ∀ (o : Origin) (v : Nat), canWrite s o (.chCluster cl) 0x044 → v < 2 ^ 32 → bit v 0 = true →
      ∃ t, exec (.clusterResetRequest o cl v) s = .next t ∧ t = { s with regs := t.regs, lb := t.lb, ch := { s.ch with clusters := t.ch.clusters } }
        ∧ getCluster t cl = { getCluster s cl with asked := true })

/-- The register steps of a recipe on engine e that stands at such a step: the engine's Vd lanes, registers, counters or accumulators become what the step's operator gives (R252 to R260,
R264, R299 to R304), the engine goes on to the next step, its window ends behind the recipe's last, and the hub's step count rises; every other register of the engine, the registers of every other engine and memory stay as they
were, and before the last step, with no poisoned broadcast line, every command too. Lane steps take the lanes of VA, VB and Vd, and Vd's poison from theirs; a step that reads broadcast lines takes their poison. -/
def Obligations.RegisterStepsCompute : Prop :=
  ∀ (s : State) (e : Nat) (q : Ctx6), e < 32768 →
    let landed := fun (t : State) (x : Eng) (n : Nat) =>
      getEng t e = { x with step := n, win := if n < q.r.steps.length then q.x.win else none }
      ∧ (∀ i, i ≠ e → { getEng t i with win := (getEng s i).win, atBar := (getEng s i).atBar } = getEng s i) ∧ t.mem = s.mem
      ∧ getReg t .ch 0 0x050 = (getReg s .ch 0 0x050 + 1) % 2 ^ 32
      ∧ (n < q.r.steps.length → (∀ p ∈ q.r.bcast, p.2 = false) → t = { s with regs := t.regs, ch := { s.ch with engines := t.ch.engines } } ∧ ∀ i, i ≠ e → getEng t i = getEng s i)
    let moved := fun (t : State) (x : Eng) => landed t x (q.x.step + 1)
    let d := stD q.w
    let a := stA q.w
    let b := stB q.w
    (∀ (row : Nat → Instr) (op : Nat) (f : Word → Word → Word → Word) (useB useD : Bool),
      (row, op, f, useB, useD) ∈ [
        ((.fma : Nat → Instr), 0x08, (fun u v w => if q.int then u * v + w else ffma32 u v w), true, true), (.mul, 0x09, (fun u v _ => if q.int then u * v else fmul32 u v), true, false),
        (.add, 0x0A, (fun u v _ => if q.int then u + v else fadd32 u v), true, false), (.max, 0x0B, (fun u v _ => if q.int then (if u.slt v then v else u) else fmax32 u v), true, false),
        (.min, 0x0C, (fun u v _ => if q.int then (if v.slt u then v else u) else fmin32 u v), true, false), (.exp, 0x10, (fun u _ _ => exp32 u), false, false),
        (.rcp, 0x11, (fun u _ _ => rcp32 u), false, false)] → atStep op e s = some q →
      ∃ t x, exec (row e) s = .next t ∧ moved t x
        ∧ (∀ i, i < 16 → lane (x.reg d) i = f (lane (q.x.reg a) i) (lane (q.x.reg b) i) (lane (q.x.reg d) i))
        ∧ x.bad d = (q.x.bad a || (useB && q.x.bad b) || (useD && q.x.bad d))
        ∧ (∀ i, i ≠ d → x.reg i = q.x.reg i ∧ x.bad i = q.x.bad i) ∧ x.acc = q.x.acc ∧ x.g = q.x.g)
    ∧ (atStep 0x00 e s = some q → ∃ t, exec (.recipeNop e) s = .next t ∧ moved t q.x)
    ∧ (atStep 0x01 e s = some q → ∃ t, exec (.loopb e) s = .next t
        ∧ (chIter q.c.raw ≠ 0 → moved t { q.x with iter := 0 }) ∧ (chIter q.c.raw = 0 → landed t q.x (loopIdx q.r 0x02 + 1)))
    ∧ (atStep 0x02 e s = some q → chIter q.c.raw ≤ q.x.iter + 1 → ∃ t, exec (.loope e) s = .next t ∧ moved t { adjust q q.x with iter := 0 })
    ∧ (atStep 0x02 e s = some q → q.x.iter + 1 < chIter q.c.raw →
      ∃ t, exec (.loope e) s = .next t ∧ landed t { adjust q q.x with iter := q.x.iter + 1 } (loopIdx q.r 0x01 + 1))
    ∧ (atStep 0x03 e s = some q →
      let p : Int := if bit q.w.toNat 20 then (lane (q.line 63).1 (d % 4)).toInt else 0
      ∃ t, exec (.setg e) s = .next t ∧ moved t { q.x with g := mset q.x.g (d % 4) (((bits q.w.toNat 19 8 + p) % (q.lines : Int)).toNat, stX q.w) })
    ∧ (atStep 0x06 e s = some q → ∃ t x, exec (.ldb e) s = .next t ∧ moved t x
        ∧ (∀ i, i ≤ stF q.w → x.reg (d + i) = (q.line (stX q.w + i)).1 ∧ x.bad (d + i) = (q.line (stX q.w + i)).2)
        ∧ ∀ i, i < d ∨ d + stF q.w < i → x.reg i = q.x.reg i ∧ x.bad i = q.x.bad i)
    ∧ (atStep 0x07 e s = some q → ∃ t x, exec (.dotb e) s = .next t ∧ moved t x
        ∧ (∀ i, i < 16 → lane (x.reg d) i = if i ≠ b % 16 then lane (q.x.reg d) i
            else if bit b 4 then dotSum q else if stF q.w = 5 then lane (q.x.reg d) i + dotSum q else fadd32 (lane (q.x.reg d) i) (dotSum q))
        ∧ ∀ i, i ≠ d → x.reg i = q.x.reg i)
    ∧ (atStep 0x0D e s = some q → ∃ t x, exec (.scale e) s = .next t ∧ moved t x
        ∧ (∀ i j, i ≤ stX q.w / 16 → j < 16 → lane (x.reg (d + i)) j = fmul32 (lane (q.x.reg (a + i)) j) (lane (q.x.reg b) (stX q.w % 16)))
        ∧ ∀ i, i < d ∨ d + stX q.w / 16 < i → x.reg i = q.x.reg i)
    ∧ (atStep 0x0E e s = some q → ∃ t x, exec (.wfma e) s = .next t ∧ moved t x
        ∧ ∀ i j, i < (stX q.w / 16 + 1) * stepElems (stF q.w) / 16 → j < 16 →
          lane (x.reg (d + i)) j = ffma32 (to32 (exactValue (fmtOf (stepFmt (stF q.w))) (q.x.elem a (fmtWidth (stepFmt (stF q.w))) (16 * i + j))))
            (lane (q.x.reg b) (stX q.w % 16)) (lane (q.x.reg (d + i)) j))
    ∧ (atStep 0x0F e s = some q → stX q.w % 32 ≤ 16 →
      let n := stX q.w % 32
      let start := bit b 4 || lane (q.x.reg d) 3 = 0
      let m0 : Word := if start then 0xFF800000 else lane (q.x.reg d) 0
      let l0 : Word := if start then 0 else lane (q.x.reg d) 1
      let xs := (List.range n).map (lane (q.x.reg a))
      let m := xs.foldl fmax32 m0
      let c : Word := if m = 0xFF800000 then 0x3F800000 else exp32 (fadd32 m0 (fneg32 m))
      let p : Word → Word := fun v => if m = 0xFF800000 then 0 else exp32 (fadd32 v (fneg32 m))
      let nan := isNan32 m0 || xs.any isNan32
      ∃ t x, exec (.smax e) s = .next t ∧ moved t x ∧ (∀ i, i ≠ d → i ≠ a → x.reg i = q.x.reg i)
        ∧ (a ≠ d →
          lane (x.reg d) 3 = lane (q.x.reg d) 3 + BitVec.ofNat 32 n ∧ x.bad d = (q.x.bad d || q.x.bad a) ∧ x.bad a = x.bad d
          ∧ (nan = false → lane (x.reg d) 0 = m ∧ lane (x.reg d) 1 = (xs.map p).foldl fadd32 (fmul32 l0 c) ∧ lane (x.reg d) 2 = c)
          ∧ (nan = true → lane (x.reg d) 0 = qnan32 ∧ lane (x.reg d) 1 = qnan32 ∧ lane (x.reg d) 2 = qnan32)
          ∧ ∀ i, i < 16 → lane (x.reg a) i = if i < n then (if nan then qnan32 else p (lane (q.x.reg a) i)) else lane (q.x.reg a) i))
    ∧ (atStep 0x12 e s = some q → ∃ t x, exec (.poly e) s = .next t ∧ moved t x
        ∧ x.bad d = (q.x.bad a || (q.line (stX q.w)).2)
        ∧ ∀ i, i < 16 → lane (x.reg d) i = (List.range (b % 8 + 1)).reverse.foldl (fun y j => ffma32 y (lane (q.x.reg a) i) (lane (q.line (stX q.w)).1 j)) (lane (q.line (stX q.w)).1 (b % 8 + 1)))
    ∧ (atStep 0x13 e s = some q → 0 < fmtWidth (stX q.w % 16) →
      ∃ t x, exec (.cvt e) s = .next t ∧ moved t x
        ∧ ∀ j, j < stepElems (stF q.w) → x.elem d (fmtWidth (stX q.w % 16)) j =
          roundTo (fmtOf (stX q.w % 16)) (exactValue (fmtOf (stepFmt (stF q.w))) (q.x.elem a (fmtWidth (stepFmt (stF q.w))) j)) (q.rnd (bits (stX q.w) 6 4) j) (bit (stX q.w) 7)
            % 2 ^ fmtWidth (stX q.w % 16))
    ∧ (atStep 0x14 e s = some q → ∃ t, exec (.sumx e) s = .next t
        ∧ moved t (q.x.putAcc (d % 8) (let r := ((List.range (stepElems (stF q.w))).map fun j =>
            exactValue (fmtOf (stepFmt (stF q.w))) (q.x.elem a (fmtWidth (stepFmt (stF q.w))) j)).foldl accAdd (q.x.accu (d % 8))
            { r with poison := r.poison || q.x.bad a })))
    ∧ (atStep 0x15 e s = some q → ∃ t x, exec (.accrnd e) s = .next t ∧ moved t x
        ∧ let r := accRound (q.x.accu (a % 8)) 1 (q.rnd (bits (stX q.w) 6 4) (stX q.w % 16)) false
          (∀ i, i < 16 → lane (x.reg d) i = if i = stX q.w % 16 then BitVec.ofNat 32 r.1 else lane (q.x.reg d) i) ∧ x.bad d = (r.2 || q.x.bad d))
    ∧ (atStep 0x17 e s = some q → ∃ t, exec (.accadd e) s = .next t
        ∧ moved t (q.x.putAcc (d % 8) (accMerge (q.x.accu (d % 8)) (accOfPacket (q.x.reg a) (q.x.bad a) false))))
    ∧ (atStep 0x18 e s = some q → ∃ t, exec (.accclr e) s = .next t ∧ moved t (q.x.putAcc (d % 8) {}))
    ∧ (atStep 0x19 e s = some q → stX q.w % 32 ≤ 16 →
      let k := stX q.w % 32
      let base := 16 * (b % 16) + (if bit (stX q.w) 5 then 256 * q.x.iter else 0)
      let held := if bit b 4 then [] else (List.range k).map fun i => (lane (q.x.reg d) i, lane (q.x.reg (d + 1)) i)
      ∃ (t : State) (x : Eng) (best : List (Word × Word)), exec (.topk e) s = .next t ∧ moved t x ∧ best.length = k
        ∧ (∀ i, i < k → best[i]? = some (lane (x.reg d) i, lane (x.reg (d + 1)) i))
        ∧ best = ((held ++ (List.range 16).map fun i => (lane (q.x.reg a) i, BitVec.ofNat 32 (base + i))).insertionSort
            fun u v => topBefore q.int u v || !topBefore q.int v u).take k
        ∧ (q.int = true → bit b 4 = true → bit (stX q.w) 5 = false → best.Pairwise fun u v => v.1.slt u.1 = true ∨ (v.1 = u.1 ∧ u.2.toNat < v.2.toNat))
        ∧ ∀ i, k ≤ i → i < 16 → lane (x.reg (d + 1)) i = 0xFFFFFFFF ∧ lane (x.reg d) i = if q.int then 0x80000000 else 0xFF800000)

/-- The steps that reach beyond the engine's registers, on engine e at such a step (R261 to R267, R282, R301). On lines of hub SRAM that nothing holds, reachable through the command's plan, LD reads the window's
lines from its counter on, ST and ACCST write them, and the counter advances; GATH reads and SCAT writes the line its index names, and a null index lane reads zero, writes nothing and is counted. FADD adds to the 4-byte words
its index lanes name and returns the old values. XCH and ACCX take what the partner showed for the same step of the same round, zero and nothing when it runs no window then, poison where its window is lost, and wait while it has yet to show; BAR
makes the engine wait at the barrier. -/
def Obligations.SliceAndExchangeSteps : Prop :=
  ∀ (s : State) (e : Nat) (q : Ctx6), e < 32768 →
    let d := stD q.w
    let a := stA q.w
    let open_ := fun (w : Win) (off : Nat) => winReach q w off s = .ok ∧ quietLine s (w.dpa + off) q.c.tenant ∧ (s.mem.queue.any fun o => o.line = w.dpa + off) = false
    let same := fun (t : State) (at_ n : Nat) => ∀ x, x < at_ ∨ at_ + n ≤ x → Memory.read t.mem.bytes x = Memory.read s.mem.bytes x
    let moved := fun (t : State) (x : Eng) =>
      getEng t e = { x with step := q.x.step + 1, win := if q.x.step + 1 < q.r.steps.length then q.x.win else none }
      ∧ (∀ i, i ≠ e → { getEng t i with win := (getEng s i).win, atBar := (getEng s i).atBar } = getEng s i)
      ∧ (q.x.step + 1 < q.r.steps.length → (∀ i, i ≠ e → getEng t i = getEng s i) ∧ getCmd t q.k = getCmd s q.k)
    let row := fun (i j : Nat) => (q.counter i + j) % q.lines * 64
    (atStep 0x04 e s = some q → (∀ j, j ≤ stF q.w → open_ q.win (row (a % 4) j)) →
      ∃ t x, exec (.ld e) s = .next t ∧ moved t (q.advance x (a % 4) (stF q.w + 1)) ∧ t.mem.bytes = s.mem.bytes ∧ x = { q.x with v := x.v, vp := x.vp }
        ∧ (∀ j, j ≤ stF q.w → x.reg (d + j) = vecOf (lineBytes s (q.win.dpa + row (a % 4) j)) ∧ x.bad (d + j) = false)
        ∧ ∀ j, j < d ∨ d + stF q.w < j → x.reg j = q.x.reg j ∧ x.bad j = q.x.bad j)
    ∧ (atStep 0x05 e s = some q → stF q.w < q.lines → (∀ j, j ≤ stF q.w → open_ q.win (row (d % 4) j) ∧ q.x.bad (a + j) = false) →
      ∃ t, exec (.st e) s = .next t ∧ moved t (q.advance q.x (d % 4) (stF q.w + 1))
        ∧ (∀ j, j ≤ stF q.w → Memory.readN t.mem.bytes (q.win.dpa + row (d % 4) j) 64 = vecBytes (q.x.reg (a + j)))
        ∧ ∀ y, (∀ j, j ≤ stF q.w → y < q.win.dpa + row (d % 4) j ∨ q.win.dpa + row (d % 4) j + 64 ≤ y) → Memory.read t.mem.bytes y = Memory.read s.mem.bytes y)
    ∧ (atStep 0x16 e s = some q → open_ q.win (q.counter (d % 4) * 64) → (q.x.accu (a % 8)).poison = false →
      ∃ t, exec (.accst e) s = .next t ∧ moved t (q.advance q.x (d % 4) 1)
        ∧ Memory.readN t.mem.bytes (q.win.dpa + q.counter (d % 4) * 64) 64 = vecBytes (packetOf (q.x.accu (a % 8))) ∧ same t (q.win.dpa + q.counter (d % 4) * 64) 64)
    ∧ (atStep 0x1A e s = some q →
      (∀ w off, regionAt q 64 (lane (q.x.reg a) (stX q.w % 16)) = some (w, off) → open_ w off →
        ∃ t, exec (.gath e) s = .next t ∧ moved t (q.x.put d (vecOf (lineBytes s (w.dpa + off))) (q.x.bad a)) ∧ t.mem.bytes = s.mem.bytes)
      ∧ (regionAt q 64 (lane (q.x.reg a) (stX q.w % 16)) = none →
        ∃ t, exec (.gath e) s = .next t ∧ moved t (q.x.put d 0 (q.x.bad a)) ∧ t.mem = s.mem
          ∧ getReg t (.chCluster (e / 64)) 0 0x060 = (getReg s (.chCluster (e / 64)) 0 0x060 + 1) % 2 ^ 32))
    ∧ (atStep 0x1B e s = some q →
      (∀ w off, regionAt q 64 (lane (q.x.reg a) (stX q.w % 16)) = some (w, off) → open_ w off → q.x.bad (stB q.w) = false → q.x.bad a = false →
        ∃ t, exec (.scat e) s = .next t ∧ moved t q.x ∧ Memory.readN t.mem.bytes (w.dpa + off) 64 = vecBytes (q.x.reg (stB q.w)) ∧ same t (w.dpa + off) 64)
      ∧ (regionAt q 64 (lane (q.x.reg a) (stX q.w % 16)) = none → ∃ t, exec (.scat e) s = .next t ∧ moved t q.x ∧ t.mem = s.mem))
    ∧ (atStep 0x1C e s = some q → q.x.bad a = false → q.x.bad (stB q.w) = false → s.mem.journal = [] → stX q.w % 32 ≤ 16 →
      let n := stX q.w % 32
      let word := fun (i : Nat) => (regionAt q 4 (lane (q.x.reg a) i)).map fun p => p.1.dpa + p.2
      let old := fun (x : Nat) => BitVec.ofNat 32 (leNat (Memory.readN s.mem.bytes x 4))
      (∀ i w off, i < n → regionAt q 4 (lane (q.x.reg a) i) = some (w, off) → winReach q w off s = .ok ∧ quietLine s ((w.dpa + off) / 64 * 64) q.c.tenant ∧ spoilt s [.journal (homeOf s ((w.dpa + off) / 64 * 64))] = false ∧ (w.dpa + off) % 4 = 0
        ∧ (s.mem.queue.any fun o => o.line = (w.dpa + off) / 64 * 64) = false) →
      (∀ i j x, i < n → j < n → word i = some x → word j = some x → i = j) →
      ∃ t v, exec (.fadd e) s = .next t ∧ moved t (q.x.put d v (q.x.bad d))
        ∧ (∀ i, i < 16 → lane v i = if i < n then (match word i with | some x => old x | none => 0xFFFFFFFF) else lane (q.x.reg d) i)
        ∧ (∀ i x, i < n → word i = some x → Memory.readN t.mem.bytes x 4 = leBytes 4 (old x + lane (q.x.reg (stB q.w)) i).toNat)
        ∧ ∀ y, (∀ i x, i < n → word i = some x → y < x ∨ x + 4 ≤ y) → Memory.read t.mem.bytes y = Memory.read s.mem.bytes y)
    ∧ (atStep 0x1D e s = some q →
      (∀ y, (s.ch.shown.find? fun y => y.k = q.k && y.round = q.x.round && y.engine = q.partner && y.step = q.x.step && y.iter = q.x.iter) = some y → q.partner ≠ e →
        ∃ t, exec (.xch e) s = .next t ∧ moved t (q.x.put d y.vec y.poison) ∧ t.mem = s.mem)
      ∧ ((s.ch.shown.find? fun y => y.k = q.k && y.round = q.x.round && y.engine = q.partner && y.step = q.x.step && y.iter = q.x.iter) = none → q.partner ≠ e →
        (roundWin q.r q.partner q.x.round = none → ∃ t, exec (.xch e) s = .next t ∧ moved t (q.x.put d 0 false))
        ∧ (∀ w, roundWin q.r q.partner q.x.round = some w → w.started = true → w.ended = true → ∃ t, exec (.xch e) s = .next t ∧ moved t (q.x.put d 0 true))
        ∧ ∀ w, roundWin q.r q.partner q.x.round = some w → w.ended = false → winOver s q.k q.r w = false →
          ∃ t, exec (.xch e) s = .next t ∧ t = { s with ch := { s.ch with shown := t.ch.shown } }
            ∧ (t.ch.shown.any fun y => y.k = q.k && y.round = q.x.round && y.engine = q.e && y.step = q.x.step && y.iter = q.x.iter) = true))
    ∧ (atStep 0x1E e s = some q → q.partner ≠ e →
      (∀ y, (s.ch.shown.find? fun y => y.k = q.k && y.round = q.x.round && y.engine = q.partner && y.step = q.x.step && y.iter = q.x.iter) = some y →
        ∃ t, exec (.accx e) s = .next t ∧ moved t (q.x.putAcc (d % 8) (accMerge (q.x.accu (d % 8)) y.acc)))
      ∧ ((s.ch.shown.find? fun y => y.k = q.k && y.round = q.x.round && y.engine = q.partner && y.step = q.x.step && y.iter = q.x.iter) = none →
        roundWin q.r q.partner q.x.round = none → ∃ t, exec (.accx e) s = .next t ∧ moved t q.x))
    ∧ (atStep 0x1F e s = some q →
      ∃ t, exec (.bar e) s = .next t ∧ t = { s with regs := t.regs, ch := { s.ch with engines := t.ch.engines } } ∧ getEng t e = { q.x with atBar := true }
        ∧ ∀ i, i ≠ e → getEng t i = getEng s i)

/-- Host accesses to device memory and the host's answers about lines (R128, R159, R160, R325, R440 to R443). Awake and with the access counters off, a BAR2 write within one quiet line of hub SRAM
changes exactly its bytes where nothing of the host waits, and a poisoned one stores the line poisoned and raises event 3; a BAR2 read answers the bytes; a read of the Logbook carve-out answers zeros and marks LB denied; a PF that is not in
D0 answers Unsupported Request. A CXL.mem access is made at the decoder's DPA under the decoder's tenant, and its lines may be cached by the host; outside every decoder it is unsupported. HDM_COMMIT is a write of the decoder's control register: it waits behind
the host's posted writes, is dropped and logged where OWNER refuses it, refused by a Logbook full under hold, and else logged; it commits a legal decoder at the DPA R442 gives, notes an illegal one, and leaves a committed one (R35, R47). A snoop of a host line misses unless the hub writes the line. An observation leaves no command waiting for it, and a back-invalidated line is the hub's again. -/
def Obligations.HostAccessesReachDeviceMemory : Prop :=
  ∀ (s : State),
    let off := bit (getReg s .tu 0 0x048) 31 = false
    let same := fun (t : State) (at_ n : Nat) => ∀ x, x < at_ ∨ at_ + n ≤ x → Memory.read t.mem.bytes x = Memory.read s.mem.bytes x
    let external := fun (line tenant key : Nat) => 0x4000000000 ≤ line ∧ line < 0x7E00000000 ∧ line % 64 = 0 ∧ tenantKey s tenant = some key ∧ sfEntry s line = none
      ∧ snoopOpen s line = false ∧ s.mem.queue = [] ∧ (∀ i, 0 < limitOf s i) ∧ replicaAt s line = none ∧ groupBusy s line = false ∧ reachable s line = true
    (∀ a : HostAcc, a.link < 4 → linkUp s a.link = true → s.hm.stage ≠ 0 →
      let at_ := fun (n : Nat) => 0 < n ∧ a.addr % 64 + n ≤ 64
      (hostReaches s a.link = true → wakeUp s = s → off → hostLate s = false →
        (∀ d, a.data = some d → at_ d.length → quietLine s (a.addr / 64 * 64) 0 →
          (a.poison = false → ∃ t, exec (.bar2Access a) s = .next t ∧ Memory.readN t.mem.bytes a.addr d.length = d ∧ same t a.addr d.length ∧ t.qe = s.qe ∧ t.out = s.out)
          ∧ (a.poison = true → ∃ t, exec (.bar2Access a) s = .next t ∧ mget t.mem.poison (a.addr / 64 * 64) = some 0 ∧ bit (getReg t .gw 0 0x018) 3 = true ∧ t.qe = s.qe))
        ∧ (a.data = none → at_ a.len → quietLine s (a.addr / 64 * 64) 0 →
          ∃ t, exec (.bar2Access a) s = .next t ∧ t.mem.bytes = s.mem.bytes ∧ t.qe = s.qe
            ∧ t.out = .hostData a.link s.gw.nextId (Memory.readN s.mem.bytes a.addr a.len) false :: s.out)
        ∧ (a.data = none → at_ a.len → 0x1FE000000 ≤ a.addr → a.addr < 0x200000000 →
          ∃ t, exec (.bar2Access a) s = .next t ∧ t.mem = s.mem ∧ t.qe = s.qe ∧ t.lb.denied = true ∧ bit (getReg t .lb 0 0x018) 1 = true
            ∧ t.out = .hostData a.link s.gw.nextId (List.replicate a.len 0) false :: s.out))
      ∧ (hostReaches s a.link = false → a.data = none → at_ a.len → a.addr + a.len ≤ 0x200000000 → exec (.bar2Access a) s = .next (emit (.unsupported a.link) s))
      ∧ (linkCxl s a.link = true →
        (∀ n h d key, a.data = some d → d.length = 64 → (s.gw.hdm.find? fun d => d.2.base ≤ a.addr && a.addr + 64 ≤ d.2.base + d.2.size) = some (n, h) →
          wakeUp s = s → off → a.poison = false → external (h.dpa + (a.addr - h.base)) h.tenant key →
          let dpa := h.dpa + (a.addr - h.base)
          ∃ t, exec (.cxlMemAccess a) s = .next t ∧ Memory.readN t.mem.bytes (place s dpa) 64 = d ∧ same t (place s dpa) 64
            ∧ mget t.mem.blocks (place s dpa / 256) = some ⟨key, dpa / 256 * 256⟩ ∧ dpa ∈ t.mem.hostCopies)
        ∧ (a.data = none → 0 < a.len → (s.gw.hdm.find? fun d => d.2.base ≤ a.addr && a.addr + a.len ≤ d.2.base + d.2.size) = none →
          exec (.cxlMemAccess a) s = .next (emit (.unsupported a.link) s))))
    ∧ (∀ d base size x ways, d < 8 →
      let g : HdmRegs := ⟨base, size, x, ways⟩
      let old := regValue s .gwCxl (hdmCtlOff d)
      let asked := waysCode ways * 2 ^ 4 + 2 ^ 9
      (hostLate s = true → exec (.hdmCommit d base size x ways) s = .next (laterDrain { s with gw := { s.gw with later := s.gw.later ++ [(s.mem.nextOp, .commit d g)] } }))
      ∧ (hostLate s = false → originUp s hostOrigin = true →
        (logHolds s = true → logFull s = true → exec (.hdmCommit d base size x ways) s = .next (logRefuse hostOrigin s))
        ∧ (logFull s = false → admitted s hostOrigin .gwCxl (hdmCtlOff d) = false →
          exec (.hdmCommit d base size x ways) s = .next (logAppend hostOrigin 1 (some .gwCxl) (hdmCtlOff d) old asked s))
        ∧ (logFull s = false → admitted s hostOrigin .gwCxl (hdmCtlOff d) = true →
          (mhas s.gw.hdm d = true → ∃ t, exec (.hdmCommit d base size x ways) s = .next t ∧ t = { s with regs := t.regs, lb := t.lb } ∧ t.lb.seq = (s.lb.seq + 1) % 2 ^ 32)
          ∧ (mhas s.gw.hdm d = false →
            let bad := ways ≠ 1 ∨ size = 0 ∨ size % 2 ^ 28 ≠ 0 ∨ (x < 248 * 2 ^ 30 ∧ 248 * 2 ^ 30 < x + size) ∨ 1240 * 2 ^ 30 < x + size
            (bad → ∃ t, exec (.hdmCommit d base size x ways) s = .next t ∧ t = { s with regs := t.regs, lb := t.lb, gw := { s.gw with hdmErr := t.gw.hdmErr, hdmRegs := mset s.gw.hdmRegs d g } }
              ∧ d ∈ t.gw.hdmErr ∧ t.lb.seq = (s.lb.seq + 1) % 2 ^ 32)
            ∧ (¬bad → ∃ t, exec (.hdmCommit d base size x ways) s = .next t
              ∧ t = { s with regs := t.regs, lb := t.lb, gw := { s.gw with hdm := t.gw.hdm, hdmErr := t.gw.hdmErr, hdmRegs := mset s.gw.hdmRegs d g } } ∧ d ∉ t.gw.hdmErr
              ∧ mget t.gw.hdm d = some { base := base, size := size, dpa := if x < 248 * 2 ^ 30 then 0x4000000000 + x else 0x10000000000 + (x - 248 * 2 ^ 30),
                                         tenant := getReg s .gw 0 (0x180 + 4 * d) % 64 } ∧ t.lb.seq = (s.lb.seq + 1) % 2 ^ 32)))))
    ∧ (∀ addr, anyCxl s = true →
      ((∀ o ∈ s.gw.observes, o.addr + o.len ≤ addr / 64 * 64 ∨ addr / 64 * 64 + 64 ≤ o.addr) → exec (.hostSnoop addr) s = .next (emit (.snoopMiss (addr / 64 * 64)) s))
      ∧ ((∃ o ∈ s.gw.observes, o.addr < addr / 64 * 64 + 64 ∧ addr / 64 * 64 < o.addr + o.len) → exec (.hostSnoop addr) s = .next s))
    ∧ (∀ id, ∃ t, exec (.globalObservationResponse id) s = .next t
      ∧ t = { s with gw := { s.gw with observes := s.gw.observes.filter fun o => o.id ≠ id }, qe := { s.qe with cmds := t.qe.cmds, sqs := t.qe.sqs } }
      ∧ (∀ k c, getCmd s k = some c → getCmd t k = some { c with observing := c.observing.filter (· ≠ id) })
      ∧ ∀ q sq, mget s.qe.sqs q = some sq → mget t.qe.sqs q = some { sq with trailObs := sq.trailObs.filter (· ≠ id) })
    ∧ (∀ line, s.mem.biOpen.contains line = true → s.mem.queue = [] → s.gw.later = [] →
      let u := { s with mem := { s.mem with biOpen := s.mem.biOpen.erase line, hostCopies := s.mem.hostCopies.erase line } }
      exec (.backInvalidateResponse line none) s = .next u
      ∧ ∀ d h key, d.length = 64 → hdmOf s line = some h → external line h.tenant key → off →
        ∃ t, exec (.backInvalidateResponse line (some d)) s = .next t ∧ t.qe = s.qe ∧ t.out = s.out ∧ Memory.readN t.mem.bytes (place s line) 64 = d ∧ same t (place s line) 64
          ∧ t.mem.hostCopies = s.mem.hostCopies.erase line)

/-- Host reads, links and host loss (R142, R435, R436, R441, R451 to R453), where only movers wait on plans. A completion brings a mover its bytes, poisoned with EP set; a short one stops the command FAULT; one that is
late brings poisoned bytes, once the completion timeout has passed. HOST_LINK_UP brings up a link the topology has and raises ATTACH. DETACH counts the epoch, records cause and time, brings link 0 down, ends host reads and fetches, and forgets SVA
translations; DETACH_HOLD_EXPIRY ends the commands that wait, HOST_DETACHED. RESUME and RESET of the present epoch attach the hub again; for another epoch the write decides nothing and is captured with code 4.
The loss of another link ends the commands that read over it HOST_DETACHED, and raises LINK_LOST where the host is attached (log entry 111). FLR of a VF takes its queues and fence blocks and begins its teardown; of function 0 every stream goes too. -/
def Obligations.HostLinksComeAndGo : Prop :=
  ∀ (s : State), (∀ p ∈ s.tu.plans, ∃ m, p.who = .mover m) →
    (∀ id r m j data poison, (s.gw.reads.find? fun r => r.id = id) = some r → r.who = .mover m → mget s.gm.movers m = some j → j.phase ≠ .auxRead →
      let closed := s.gw.reads.filter fun r => r.id ≠ id
      (r.len ≤ data.length → ∃ t, exec (.hostReadCompletion id data poison) s = .next t
        ∧ t = { s with gw := { s.gw with reads := closed }, gm := { s.gm with movers := t.gm.movers } }
        ∧ mget t.gm.movers m = some { j with buf := ((asPBytes r.va (data.take r.len)).map fun b => { b with poison := if poison then some 0 else none }) ++ j.buf })
      ∧ (∀ c, data.length < r.len → getCmd s j.k = some c → c.stop = none → ∃ t, exec (.hostReadCompletion id data poison) s = .next t
        ∧ t = { s with gw := { s.gw with reads := closed }, qe := { s.qe with cmds := t.qe.cmds } } ∧ getCmd t j.k = some { c with stop := some (stFault, 0), fault := r.va % 2 ^ 64 })
      ∧ ((∀ x ∈ s.gw.reads, x.id = id → dieNs s < x.sent + hostTimeout s) → exec (.hostReadTimeout id) s = .next s)
      ∧ (r.sent + hostTimeout s ≤ dieNs s → ∃ (t : State) (bs : List Byte), exec (.hostReadTimeout id) s = .next t ∧ bs.length = r.len
        ∧ t = { s with gw := { s.gw with reads := closed }, gm := { s.gm with movers := t.gm.movers }, fresh := s.fresh + r.len }
        ∧ mget t.gm.movers m = some { j with buf := ((asPBytes r.va bs).map fun b => { b with poison := some 0 }) ++ j.buf }))
    ∧ (∀ l cxl width rate, l < 4 → linkExists s l = true → linkUp s l = false → s.sl.power = 6 → 1 ≤ width → width ≤ linkWidest s l → 1 ≤ rate → rate ≤ 7 →
      ∃ t, exec (.hostLinkUp l cxl width rate) s = .next t ∧ mget t.gw.links l = some { up := true, cxl := cxl, width := width, rate := rate }
        ∧ bit (getReg t .gw 0 0x018) 1 = true ∧ (l = 0 → t.gw.perst = false) ∧ t.qe = s.qe ∧ t.mem = s.mem)
    ∧ (∀ cause, (cause = 1 ∨ cause = 3) ∧ linkUp s 0 = true ∨ cause = 2 ∧ s.gw.perst = false → s.gw.flushes = [] → s.gw.observes = [] → (∀ r ∈ s.gw.reads, ∃ m, r.who = .mover m) →
      ∃ t, exec (.detach cause) s = .next t ∧ t.gw.detached = true ∧ linkUp t 0 = false ∧ t.gw.reads = [] ∧ t.tu.ats = [] ∧ t.tu.prgs = [] ∧ (∀ x ∈ t.tu.central, x.space ≠ 0)
        ∧ getReg t .gw 0 0x050 = (getReg s .gw 0 0x050 + 1) % 2 ^ 32 ∧ getReg t .gw 0 0x054 = cause ∧ bit (getReg t .gw 0 0x018) 0 = true
        ∧ (∀ q sq, mget t.qe.sqs q = some sq → sq.berth = none → sq.device = false → sq.issued = []) ∧ t.mem = s.mem ∧ t.qe.cqs = s.qe.cqs)
    ∧ ((s.gw.detached = false → exec .detachHoldExpiry s = .next s)
      ∧ (s.gw.detached = true → s.gw.heldOver = false → getReg s .gw 0 0x068 ≠ 0 → (∀ p ∈ s.qe.cqs, p.2.held = []) →
          (∀ p ∈ s.gm.lanes, ∀ c, getCmd s p.2.k = some c → c.op = 0x34 → p.2.tile = 0) →
        ∃ t, exec .detachHoldExpiry s = .next t ∧ t.gw.heldOver = true ∧ t.gw.detached = true ∧ t.mem = s.mem
          ∧ ∀ k c, getCmd s k = some c → c.waitsHost = true → c.phase ≠ .finished →
            getCmd t k = some (c.ended stDetached 0 (if c.drop then c.atDetach.getD c.done else c.done) 0)))
    ∧ (∀ (o : Origin) v row mode, (row, mode) ∈ [(Instr.reattachResume, 1), (Instr.reattachReset, 2)] → canWrite s o .gw 0x06C → v < 2 ^ 32 → bits v 31 30 = mode →
      (bits v 29 0 ≠ getReg s .gw 0 0x050 % 2 ^ 30 → ∃ t, exec (row o v) s = .next t ∧ t = { s with regs := t.regs, lb := t.lb } ∧ (bit (getReg s .gw 0 0x024) 31 = false →
        getReg t .gw 0 0x024 = (2 ^ 31 + 4 * 2 ^ 16 + originCode o) % 2 ^ 32))
      ∧ (bits v 29 0 = getReg s .gw 0 0x050 % 2 ^ 30 → s.gw.detached = true → linkUp s 0 = true →
        (mode = 1 → (∀ p ∈ s.qe.cqs, p.2.held = [] ∧ p.2.irqWaits = false) → s.gw.heldMsi = [] → s.gw.vfsAtDetach ≤ (if s.gw.vfEnable then s.gw.numVfs else 0) →
          ∃ t, exec (row o v) s = .next t ∧ t.gw.detached = false ∧ t.gw.heldOver = false ∧ t.qe.cqs = s.qe.cqs ∧ t.mem = s.mem
            ∧ ∀ k c, getCmd s k = some c → getCmd t k = some { c with waitsHost := false, atDetach := none })
        ∧ (mode = 2 → s.tu.plans = [] → ∃ t, exec (row o v) s = .next t ∧ t.gw.detached = false ∧ t.gw.heldOver = false ∧ t.st.chans = [] ∧ t.gw.heldMsi = []
          ∧ ∀ p ∈ t.qe.sqs, 64 ≤ p.2.f)))
    ∧ (∀ l, 1 ≤ l → l < 4 →
      (linkUp s l = false → exec (.linkLost l) s = .next s)
      ∧ (∀ r m j c, linkUp s l = true → s.gw.reads = [r] → r.link = l → r.who = .mover m → mget s.gm.movers m = some j → getCmd s j.k = some c → c.stop = none → c.held = false →
        c.phase = .running → s.gw.flushes = [] → s.gw.observes = [] → atomicsOver s l = [] →
        ∃ t, exec (.linkLost l) s = .next t ∧ linkUp t l = false ∧ linkUp t 0 = linkUp s 0 ∧ t.gw.reads = [] ∧ t.gw.detached = s.gw.detached ∧ t.mem = s.mem
          ∧ getCmd t j.k = some { c with stop := some (stDetached, 0), fault := 0 } ∧ (s.gw.detached = false → bit (getReg t .gw 0 0x018) 2 = true)))
    ∧ (∀ f, f < 64 →
      (fnPresented s f = false → exec (.flr f) s = .next s)
      ∧ (fnPresented s f = true → (∃ l, l < 4 ∧ linkUp s l = true) →
        ∃ t, exec (.flr f) s = .next t ∧ (∀ p ∈ t.qe.sqs, p.2.f ≠ f) ∧ (∀ p ∈ t.qe.cqs, p.2.f ≠ f) ∧ (∀ p ∈ t.qe.blocks, p.2.f ≠ f) ∧ t.mem = s.mem ∧ t.lb = s.lb
          ∧ (f ≠ 0 → (∃ d ∈ t.sp.teardowns, d.f = f) ∧ t.st = s.st) ∧ (f = 0 → t.st.chans = [] ∧ t.gw.vfEnable = false)))

/-- Power by the host's states and by idleness (R438, R444 to R449, R490, R521 to R525). IDLE_ENTRY of an idle hub enters H1 at once at a tolerance of 2 µs and more, and with its ports quiet starts the ramp to H2 from 75 µs
and to H3 from 3,125 µs on, as far as MAX_STATE admits; with a smaller tolerance, or with work, nothing. D3HOT_ENTRY marks the PF, raises event 4, and starts the ramp to H3, or H4 with D3HOT_H4, when no work remains. D0_ENTRY ends D3hot in H0, and from H4 starts the rails with cause 9. WAKE goes to a state
nearer H0, and an exit from H3 loses hub SRAM outside the island, a checkpoint's own H3 apart; in D3cold it drives WAKE# too and starts the rails (R450). CONFIG_SPACE_WRITE sets VF Enable and NumVFs, a function's enables and what the hub tells of its latency, a BAR's writable bits, or a VF's D-state; before boot it is answered with a retry, and in H4 retained configuration space takes it. -/
def Obligations.PowerFollowsHostAndWork : Prop :=
  ∀ (s : State),
    (mayLower s = true → s.gw.d3 = [] →
      (hubIdle s = false → exec .idleEntry s = .next s)
      ∧ (hubIdle s = true →
        let tol := getReg s .gw 0 0x048 % 2 ^ 20
        let most := if tol < 2 then 0 else if tol < 75 then 1 else if tol < 3125 then 2 else 3
        let h := Nat.min (if portsQuiet s then most else Nat.min most 1) (Nat.min 4 (getReg s .sl 0 0x040 % 8))
        (h ≤ s.sl.h → exec .idleEntry s = .next s)
        ∧ (s.sl.h < h → h = 1 → ∃ t, exec .idleEntry s = .next t ∧ t = { s with regs := t.regs, sl := { s.sl with h := 1 } }
          ∧ getReg t .sl 0 0x044 / 2 ^ 16 = (getReg s .sl 0 0x044 / 2 ^ 16 + 1) % 2 ^ 16)
        ∧ (s.sl.h < h → h ≠ 1 → exec .idleEntry s = .next (rampTo h s.sl.rampCause s))))
    ∧ (linkUp s 0 = true → fnPresented s 0 = true → s.gw.d3.contains 0 = false →
      ∃ t, exec .d3hotEntry s = .next t ∧ t = { s with regs := t.regs, ec := t.ec, gw := { s.gw with d3 := 0 :: s.gw.d3 }, sl := t.sl } ∧ bit (getReg t .gw 0 0x018) 4 = true
        ∧ (mayLower s = true → portsQuiet s = true → s.st.chans = [] → s.qe.cmds = [] → requestsOut s = false → (∀ p ∈ s.qe.sqs, p.2.berth = none) →
          let h := if bit (getReg s .gw 0 0x04C) 0 then 4 else 3
          t.sl = if h ≤ s.sl.h then s.sl else (rampTo h s.sl.rampCause s).sl)
        ∧ (mayLower s = false ∨ portsQuiet s = false ∨ s.st.chans ≠ [] ∨ s.qe.cmds ≠ [] → t.sl = s.sl))
    ∧ (linkUp s 0 = true → s.gw.d3.contains 0 = true →
      (s.sl.h < 4 → fnPresented s 0 = true → s.tg.ckpt = false → (∀ p ∈ s.tu.plans, ∃ m, p.who = .mover m) → (∀ p ∈ s.qe.cqs, p.2.held = [] ∧ p.2.irqWaits = false) → s.gw.heldMsi = [] →
        ∃ t, exec .d0Entry s = .next t ∧ t.gw.d3 = s.gw.d3.filter (· ≠ 0) ∧ t.sl.h = 0 ∧ bit (getReg t .gw 0 0x018) 4 = true ∧ t.qe = s.qe)
      ∧ (s.sl.h = 4 → s.sl.power = 8 → s.sl.thermalH4 = false → ckptTripped s = false → s.sl.railEn = 9 →
        ∃ t, exec .d0Entry s = .next t ∧ t.sl.power = 2 ∧ t.sl.railEn = 11 ∧ t.tg.cause = 9 ∧ t.out = .pin "RAIL_EN" 1 true :: (driveVid s).out))
    ∧ (∀ target, s.sl.power = 6 → s.tg.ckpt = false → s.sl.ramp = none → armedD3cold s = false →
      (s.sl.h ≤ target → exec (.wake target) s = .next s)
      ∧ (target < s.sl.h → s.sl.h ≤ 3 → ∃ t, exec (.wake target) s = .next t ∧ t.sl.h = target ∧ t.qe = s.qe
        ∧ (s.sl.h < 3 ∨ (s.sl.ckptH3 = true ∧ s.sl.sramGone = false) → t.mem = s.mem)
        ∧ (s.sl.h = 3 → s.sl.ckptH3 = false ∨ s.sl.sramGone = true → ∀ x, Memory.read t.mem.bytes x = if x < 0x1FC000000 then 0 else Memory.read s.mem.bytes x)))
    ∧ (∀ target, target < 4 → s.sl.power = 8 → armedD3cold s = true → s.gw.wakePin = false → s.sl.thermalH4 = false → ckptTripped s = false →
      ∃ t, exec (.wake target) s = .next t ∧ t.gw.wakePin = true ∧ t.sl.power = 1 ∧ t.sl.railEn = 1 ∧ t.tg.cause = 9
        ∧ t.out = .pin "RAIL_EN" 0 true :: (driveVid (emit (.pin "WAKE_N" 0 false) s)).out)
    ∧ (∀ l, l < 4 →
      (∀ w, linkUp s l = false → exec (.configSpaceWrite l w) s = .next s)
      ∧ (∀ w, linkUp s l = true → s.sl.h ≠ 4 → s.hm.stage = 0 → exec (.configSpaceWrite l w) s = .next (emit (.configRetry l) s))
      ∧ (linkUp s l = true → s.hm.stage ≠ 0 ∨ s.sl.h = 4 → ∀ b v, v < 2 ^ 64 →
        ((barSpec b).2.1 = none → exec (.configSpaceWrite l (.bar b v)) s = .next s)
        ∧ ∀ k, (barSpec b).2.1 = some k → ∃ t, exec (.configSpaceWrite l (.bar b v)) s = .next t ∧ t = { s with gw := { s.gw with bars := t.gw.bars } }
          ∧ barRead t l b = v / 2 ^ k * 2 ^ k + (barSpec b).2.2 ∧ ∀ c, c ≠ b → barRead t l c = barRead s l c)
      ∧ (linkUp s l = true →
        (∀ en n, l = 0 → n ≤ 63 → 1 ≤ s.hm.stage ∨ s.sl.h = 4 → exec (.configSpaceWrite l (.sriov en n)) s = .next { s with gw := { s.gw with vfEnable := en, numVfs := n } })
        ∧ (∀ f c, s.sl.h = 4 → f = 0 ∨ (s.gw.vfEnable = true ∧ f ≤ s.gw.numVfs ∧ f < 64) →
          exec (.configSpaceWrite l (.fn f c)) s = .next { s with gw := { s.gw with fns := mset s.gw.fns (64 * l + f) c } })
        ∧ (∀ f c, s.sl.h ≠ 4 → fnPresented s f = true → s.tu.plans = [] → ∃ t, exec (.configSpaceWrite l (.fn f c)) s = .next t
          ∧ t = { s with gw := { s.gw with fns := mset s.gw.fns (64 * l + f) c, ltrTold := t.gw.ltrTold }, tu := t.tu, out := t.out }
          ∧ (l = 0 → f = 0 → c.ltr = true → t.gw.ltrTold = anyRunning s) ∧ (l = 0 → f = 0 → c.ltr = false → t.gw.ltrTold = false ∧ t.out = s.out)
          ∧ (l ≠ 0 ∨ f ≠ 0 → t.gw.ltrTold = s.gw.ltrTold ∧ t.out = s.out)
          ∧ (l = 0 → (linkFnCfg s 0 f).ats = true → c.ats = false → ∀ x ∈ t.tu.central, ¬(x.f = f ∧ x.space = 0)))
        ∧ (∀ f, f ≠ 0 → s.sl.h ≠ 4 → fnPresented s f = true → s.gw.d3.contains (64 * l + f) = false →
          ∃ t, exec (.configSpaceWrite l (.dstate f true)) s = .next t ∧ t = { s with regs := t.regs, ec := t.ec, gw := { s.gw with d3 := (64 * l + f) :: s.gw.d3 } }
            ∧ bit (getReg t .gw 0 0x018) 4 = true)))

/-- Arrival and departure of an unpaired berth (R352, R354, R362 to R366, R377, R382 to R384, R388), with no access waiting at any home. BRST_N is released, training ends in CARD_WAIT, training that lasts too long starts
again; a good card makes the berth ACTIVE with what was negotiated and raises ARRIVED, a bad one leaves it REFUSED with its code captured. A card with PAIR waits for the other berth's; two equal ones make the pair ACTIVE, two that differ leave
both berths REFUSED; on an odd berth PAIR stands in the second card alone (log entry 67). A berth departs with reason LEAVE on its LEAVE, LINK_DOWN, SNOOP_LIMIT and INV_LIMIT
when those are missed, PROTOCOL without a card or at a message that R361 does not admit, EVICTED when EN is cleared or it holds no line at EVICT, RESET at PRST: its open exchanges end and its SQs are disabled. The end of the departure takes its holder bits back, a Modified line
becomes poisoned with DETAIL 3, and the berth trains again, or is OFF when EN is clear. That a supply stays on while EN is set is the model's reading (log entry 25). -/
def Obligations.BerthsArriveAndDepart : Prop :=
  ∀ (s : State) (b : Nat) (be : Berth), b < 8 → getBerth s b = be → be.paired = false → s.mem.queue = [] →
    let only := fun (t : State) (x : Berth) => getBerth t b = x ∧ ∀ i, i ≠ b → getBerth t i = getBerth s i
    let departed := fun (t : State) (reason : Nat) => (getBerth t b).st = 4 ∧ (getBerth t b).depart = reason ∧ (getBerth t b).snoops = [] ∧ (getBerth t b).invs = []
      ∧ (getBerth t b).waiting = [] ∧ (∀ i, i ≠ b → getBerth t i = getBerth s i)
      ∧ (∀ q sq, mget t.qe.sqs q = some sq → sq.berth = some b → sq.en = false ∧ sq.ready = []) ∧ t.mem.bytes = s.mem.bytes
    (∀ cxl modules half rate,
      (be.st ≠ 1 → exec (.berthLinkUp b cxl modules half rate) s = .next s)
      ∧ (be.st = 1 → modules % 16 ≠ 0 → ∃ t, exec (.berthLinkUp b cxl modules half rate) s = .next t ∧ t = { s with regs := t.regs, out := .annexChanged :: s.out, qy := { s.qy with berths := t.qy.berths } }
        ∧ only t { be with st := 2, cxl := cxl, modules := modules % 16, half := half % 16 &&& modules % 16, rate := rate % 8, carded := false, rxCredits := rxFull }))
    ∧ (be.st = 1 → ∃ t, exec (.trainLimitExpiry b) s = .next t ∧ t = { s with qy := { s.qy with berths := t.qy.berths } } ∧ only t { be with modules := 0, half := 0, rate := 0 })
    ∧ (be.powered = true → be.resetPin = true → ∃ t, exec (.partnerResetRelease b) s = .next t ∧ t = { s with regs := t.regs, out := .pin "BRST_N" b true :: (if be.st = 0 then [.annexChanged] else []) ++ s.out, qy := { s.qy with berths := t.qy.berths } }
      ∧ only t { be with resetPin := false, edge := s.tclk, st := if be.st = 0 then 1 else be.st } ∧ bit (getReg t (.qyBerth b) 0 0x044) 2 = false)
    ∧ (∀ m : BresaMsg, be.st = 2 → be.cxl = false → be.carded = false → m.cls = 5 → m.typ = 1 → bresaBad be m = false → s.sl.h = 0 → s.sl.ramp = none →
      let card := fitBytes 64 m.payload
      let lo := b / 2 * 2
      let mate := if b = lo then lo + 1 else lo
      let paired := bit (fld card 7 1) 0
      let waits := decide ((getBerth s mate).st = 2) && (getBerth s mate).carded
      let pairOk := bit (getReg s (.qyBerth lo) 0 0x044) 3 && (b = lo || ((getBerth s lo).st = 2 && (getBerth s lo).carded))
      let fault := cardFault card pairOk
      let refused := fun (t : State) (code : Nat) => (getBerth t b).st = 5 ∧ bit (getReg t (.qyBerth b) 0 0x018) 2 = true ∧ t.qe = s.qe ∧ t.mem = s.mem
        ∧ (bit (getReg s .qy 0 0x024) 31 = false → getReg t .qy 0 0x024 = (2 ^ 31 + code * 2 ^ 16 + originCode ⟨.partner, if code = 2 ∧ fault = none ∧ waits = true then lo else b⟩) % 2 ^ 32)
      let minor := Nat.min (fld card 6 1) 2
      let caps := fld card 8 4 &&& capsOf minor
      let level := if bit caps 3 then Nat.min (fld card 12 2) (bInit s) else fld card 12 2
      (fault = none → paired = false → waits = false → ∃ t, exec (.card b m) s = .next t ∧ (getBerth t b).st = 3 ∧ (getBerth t b).caps = caps ∧ (getBerth t b).minor = minor ∧ (getBerth t b).grants = []
        ∧ (getBerth t b).card = card ∧ (getBerth t b).granted = level ∧ (getBerth t b).counted = level ∧ (∀ i, i ≠ b → getBerth t i = getBerth s i)
        ∧ getReg t (.qyBerth b) 0 0x054 = (getReg s (.qyBerth b) 0 0x054 + 1) % 2 ^ 32 ∧ bit (getReg t (.qyBerth b) 0 0x018) 0 = true ∧ t.qe = s.qe ∧ t.mem = s.mem)
      ∧ (fault = none → paired = true → waits = false → (getBerth s mate).st ≠ 3 → ∃ t, exec (.card b m) s = .next t ∧ only t { be with card := card, carded := true } ∧ t.qe = s.qe ∧ t.mem = s.mem)
      ∧ (fault = none → paired = true → waits = false → (getBerth s mate).st = 3 → ∃ t, exec (.card b m) s = .next t ∧ refused t 2)
      ∧ (fault = none → waits = true → (getBerth s mate).paired = false → cardCore (getBerth s mate).card = cardCore card → ∃ t, exec (.card b m) s = .next t
        ∧ (getBerth t lo).st = 3 ∧ (getBerth t lo).paired = true ∧ (getBerth t (lo + 1)).st = 6 ∧ (getBerth t (lo + 1)).paired = true ∧ t.qe = s.qe ∧ t.mem = s.mem)
      ∧ (fault = none → waits = true → (getBerth s mate).paired = false → cardCore (getBerth s mate).card ≠ cardCore card → ∃ t, exec (.card b m) s = .next t ∧ refused t 2 ∧ (getBerth t mate).st = 5)
      ∧ ∀ code, fault = some code → ∃ t, exec (.card b m) s = .next t ∧ refused t code)
    ∧ (∀ m : BresaMsg, be.st = 2 → be.cxl = true → be.carded = false → s.sl.h = 0 → s.sl.ramp = none →
      let power := bits (getReg s (.qyBerth b) 0 0x048) 25 16
      ∃ t, exec (.card b m) s = .next t ∧ (getBerth t b).st = 3 ∧ (getBerth t b).caps = 1 ∧ (getBerth t b).grants = [] ∧ (getBerth t b).card = cxlCard m.payload power
        ∧ (getBerth t b).granted = power ∧ (getBerth t b).counted = power ∧ bit (getReg t (.qyBerth b) 0 0x018) 0 = true ∧ t.qe = s.qe ∧ t.mem = s.mem)
    ∧ (∀ m : BresaMsg, be.st = 2 → be.cxl = false → s.sl.h = 0 → s.sl.ramp = none →
      (bresaBad be m = true ∨ (m.typ ≠ 0 ∧ (be.carded = true ∨ m.cls ≠ 5 ∨ m.typ ≠ 1)) →
        ∃ t, exec (.card b m) s = .next t ∧ departed t 5 ∧ bit (getReg t (.qyBerth b) 0 0x018) 4 = true)
      ∧ (bresaBad be m = false → m.typ = 0 → exec (.card b m) s = .next s))
    ∧ (be.st = 2 → be.carded = false → ∃ t, exec (.cardTimeout b) s = .next t ∧ departed t 5 ∧ bit (getReg t (.qyBerth b) 0 0x018) 4 = true)
    ∧ (be.st = 2 ∨ be.st = 3 → ∃ t, exec (.berthLinkDown b) s = .next t ∧ departed t 2 ∧ (getBerth t b).modules = 0)
    ∧ (be.st = 4 → ∃ t, exec (.berthLinkDown b) s = .next t ∧ t = { s with qy := { s.qy with berths := t.qy.berths } } ∧ only t { be with modules := 0, half := 0 })
    ∧ (be.st < 2 ∨ be.st = 5 → exec (.berthLinkDown b) s = .next s)
    ∧ (be.snoops ≠ [] → ∃ t, exec (.snoopLimit b) s = .next t ∧ departed t 3)
    ∧ (be.invs ≠ [] → ∃ t, exec (.invLimit b) s = .next t ∧ departed t 4)
    ∧ (∀ m, berthHears s b m 5 2 → ∃ t, exec (.leave b m) s = .next t ∧ departed t 1)
    ∧ (∀ o, canWrite s o (.qyBerth b) 0x044 →
      (be.st = 5 → ∃ t, exec (.berthEnable o b 1) s = .next t ∧ only t { be with st := 1, carded := false } ∧ berthEn t b = true ∧ t.qe = s.qe ∧ t.mem = s.mem)
      ∧ (berthEn s b = true →
        (be.attached = true → ∃ t, exec (.berthDisable o b 0) s = .next t ∧ departed t 6 ∧ berthEn t b = false)
        ∧ (be.attached = false → be.st ≠ 4 → ∃ t, exec (.berthDisable o b 0) s = .next t ∧ only t (unpowered be) ∧ berthEn t b = false ∧ t.qe = s.qe ∧ t.mem = s.mem))
      ∧ (bit (getReg s (.qyBerth b) 0 0x044) 1 = false →
        (be.st = 3 → be.snoops = [] → (∀ e ∈ s.qy.filter, e.holders.contains b = false) → ∃ t, exec (.berthEvict o b 3) s = .next t ∧ departed t 6)
        ∧ (be.st ≠ 3 → be.st ≠ 5 → ∃ t, exec (.berthEvict o b 3) s = .next t ∧ t.qy = s.qy ∧ bit (getReg t (.qyBerth b) 0 0x044) 1 = false ∧ t.qe = s.qe ∧ t.mem = s.mem))
      ∧ (bit (getReg s (.qyBerth b) 0 0x044) 2 = false → be.attached = true →
        ∃ t, exec (.partnerReset o b 5) s = .next t ∧ departed t 7 ∧ (getBerth t b).resetPin = true ∧ t.out = .pin "BRST_N" b false :: .annexChanged :: s.out))
    ∧ (be.st = 4 → ∃ t, exec (.berthDepartureEnd b) s = .next t ∧ (getBerth t b).st = (if berthEn s b then 1 else 0) ∧ (getBerth t b).grants = [] ∧ (getBerth t b).evicting = false
      ∧ (getBerth t b).powered = (berthEn s b && be.powered) ∧ (∀ line e, sfEntry t line = some e → e.holders.contains b = false) ∧ bit (getReg t (.qyBerth b) 0 0x018) 1 = true
      ∧ (∀ line e, sfEntry s line = some e → e.holders.contains b = true → e.modified = true → replicaAt s line = none → mget t.mem.poison (place s line) = some 3)
      ∧ t.mem.bytes = s.mem.bytes ∧ t.qe = s.qe)

/-- Requests of an active, unpaired partner in the DPA space of a granted context of function 0, on a quiet line of hub SRAM, the access counters off and with credits for the answer (R358 to R360, R369, R373 to R376).
RD answers the line, WR stores the bytes its mask names and nothing else, ATOMIC leaves what R172 gives and answers the old value, PKT_ADD adds its packet; RD_SHARED and RD_OWN answer a GRANT and enter the berth in the snoop filter. A context
that is not granted answers CONTEXT_INVALID, a reserved space UNSUPPORTED. EVICT_CLEAN takes the holder out, EVICT_DIRTY and SNP_RSP with a Modified line also store it; INV_ACK and CREDIT settle what they name. A read or a write of a CXL partner that
its function's map does not translate answers poisoned data or is dropped, and is counted; with a live map that no ATC covers it starts a walk (R371). -/
def Obligations.PartnerRequestsAreServed : Prop :=
  ∀ (s : State) (b : Nat) (m : BresaMsg), b < 8 →
    let be := getBerth s b
    let line := m.addr / 64 * 64
    let opens := fun (x : Ctx) => bits m.ctx 13 12 = 2 ∧ mget s.qe.ctxs (m.ctx % 4096) = some x ∧ x.f = 0 ∧ be.grants.contains (m.ctx % 4096) = true ∧ bresaOdd m = false
      ∧ quietLine s line 0 ∧ bit (getReg s .tu 0 0x048) 31 = false ∧ s.mem.journal = [] ∧ 3 ≤ be.txCredits.getD m.cls 0
    let same := fun (t : State) (at_ n : Nat) => ∀ x, x < at_ ∨ at_ + n ≤ x → Memory.read t.mem.bytes x = Memory.read s.mem.bytes x
    let told := fun (t : State) (a : BresaMsg) => t.out = .bresa b a :: .bresa b (creditMsg m) :: s.out ∧ t.qe = s.qe
    (∀ x, berthHears s b m 0 1 → opens x → bits m.aux 2 0 = 1 →
      ∃ t, exec (.rd b m) s = .next t ∧ told t (bmsg 0 0x10 m.tag 0 0 0 0 0 (lineBytes s line) false) ∧ t.mem.bytes = s.mem.bytes)
    ∧ (∀ x, berthHears s b m 0 2 → opens x → m.len = 1 → m.flags = 0 →
      ∃ t, exec (.wr b m) s = .next t ∧ told t (bmsg 0 0x11 m.tag 0 0 0 0 0 [] false) ∧ same t line 64
        ∧ ∀ i, i < 64 → Memory.read t.mem.bytes (line + i) = if bit m.aux i then (fitBytes 64 m.payload).getD i 0 else Memory.read s.mem.bytes (line + i))
    ∧ (∀ x op, berthHears s b m 0 3 → opens x → spoilt s [.journal (homeOf s line)] = false → aopOf (bits m.aux 7 0) = some op →
      let n := 4 * 2 ^ bits m.aux 9 8
      let old := leNat (Memory.readN s.mem.bytes m.addr n)
      ∃ t, exec (.bresaAtomic b m) s = .next t ∧ told t (bmsg 0 0x10 m.tag 0 0 0 0 0 (leBytes n old) false) ∧ same t m.addr n
        ∧ Memory.readN t.mem.bytes m.addr n = leBytes n (atomicNew op n old (fld m.payload 0 n) (fld m.payload 16 n)))
    ∧ (∀ x, berthHears s b m 0 4 → opens x → spoilt s [.journal (homeOf s line)] = false → m.flags = 0 →
      ∃ t, exec (.pktAdd b m) s = .next t ∧ told t (bmsg 0 0x11 m.tag 0 0 0 0 0 [] false) ∧ same t line 64
        ∧ Memory.readN t.mem.bytes line 64 = vecBytes (packetOf (accMerge (accOfPacket (vecOf (lineBytes s line)) false false) (accOfPacket (vecOf (fitBytes 64 m.payload)) false false))))
    ∧ (∀ x (row : Nat → BresaMsg → Instr) typ own, (row, typ, own) ∈ [((.rdShared : Nat → BresaMsg → Instr), 1, false), (.rdOwn, 2, true)] → berthHears s b m 1 typ → opens x → sfSetFull s line = false →
      ∃ t, exec (row b m) s = .next t ∧ told t (bmsg 1 0x10 m.tag 0 0 0 line (b2n own) (lineBytes s line) false) ∧ t.mem.bytes = s.mem.bytes
        ∧ sfEntry t line = some ⟨line, [b], own, 0⟩ ∧ ∀ l, l ≠ line → sfEntry t l = sfEntry s l)
    ∧ (∀ (row : Nat → BresaMsg → Instr) cls typ ans, (row, cls, typ, ans) ∈ [((.rd : Nat → BresaMsg → Instr), 0, 1, 0x10), (.wr, 0, 2, 0x11), (.bresaAtomic, 0, 3, 0x10), (.pktAdd, 0, 4, 0x11), (.rdShared, 1, 1, 0x10), (.rdOwn, 1, 2, 0x10)] →
      berthHears s b m cls typ → 1 ≤ be.txCredits.getD m.cls 0 →
      let refuse := fun (st : Nat) => ∃ t, exec (row b m) s = .next t ∧ told t (bmsg cls ans m.tag 0 0 st 0 (if cls = 1 ∧ typ = 2 then 1 else 0) [] false) ∧ t.mem = s.mem
      (be.grants.contains (m.ctx % 4096) = false ∨ mget s.qe.ctxs (m.ctx % 4096) = none → refuse 5)
      ∧ (∀ x, mget s.qe.ctxs (m.ctx % 4096) = some x → be.grants.contains (m.ctx % 4096) = true → bits m.ctx 13 12 = 3 ∨ (bits m.ctx 13 12 = 2 ∧ x.f ≠ 0) → refuse 6))
    ∧ (∀ e, sfEntry s line = some e → e.holders = [b] → s.mem.queue = [] → be.evicting = false →
      let gone := fun (t : State) => sfEntry t line = none ∧ (∀ l, l ≠ line → sfEntry t l = sfEntry s l) ∧ t.qe = s.qe
      let stored := fun (t : State) => Memory.readN t.mem.bytes line 64 = fitBytes 64 m.payload ∧ same t line 64
      let plain := line < 0x1FE000000 ∧ replicaAt s line = none ∧ e.modified = true ∧ m.flags = 0 ∧ bit (getReg s .tu 0 0x048) 31 = false
      (berthHears s b m 1 3 → 1 ≤ be.txCredits.getD 1 0 → ∃ t, exec (.evictClean b m) s = .next t ∧ gone t ∧ told t (bmsg 1 0x12 m.tag 0 0 0 0 0 [] false) ∧ t.mem.bytes = s.mem.bytes)
      ∧ (berthHears s b m 1 4 → 1 ≤ be.txCredits.getD 1 0 → plain → ∃ t, exec (.evictDirty b m) s = .next t ∧ gone t ∧ told t (bmsg 1 0x12 m.tag 0 0 0 0 0 [] false) ∧ stored t)
      ∧ (berthHears s b m 1 5 ∨ (be.st = 3 ∧ be.cxl = true ∧ be.paired = false) → (be.snoops.find? fun p => p.1 = m.tag) = some (m.tag, line) →
        (m.status ≠ 2 → ∃ t, exec (.snpRsp b m) s = .next t ∧ gone t ∧ (getBerth t b).snoops = be.snoops.filter (fun p => p.1 ≠ m.tag) ∧ t.mem.bytes = s.mem.bytes)
        ∧ (m.status = 2 → plain → ∃ t, exec (.snpRsp b m) s = .next t ∧ gone t ∧ (getBerth t b).snoops = be.snoops.filter (fun p => p.1 ≠ m.tag) ∧ stored t)))
    ∧ (berthHears s b m 1 6 → ∃ t, exec (.invAck b m) s = .next t ∧ (getBerth t b).invs = be.invs.filter (fun i => i.1 % 4096 ≠ m.tag) ∧ t.mem = s.mem ∧ t.qe = s.qe)
    ∧ (berthHears s b m m.cls 0 → ∃ t, exec (.credit b m) s = .next t ∧ t = { s with regs := t.regs, qy := { s.qy with berths := t.qy.berths } }
      ∧ getBerth t b = { be with txCredits := be.txCredits.set m.cls (be.txCredits.getD m.cls 0 + m.aux % 2 ^ 16) })
    ∧ (∀ addr data own f, be.st = 3 → be.cxl = true → s.sl.h = 0 → s.sl.ramp = none → f = getReg s (.qyBerth b) 0 0x048 % 64 → mget be.opens be.nextTag = none → addr < 2 ^ 48 →
      (mapLive s f = false → ∃ t, exec (.cxlPartnerRequest b addr data own) s = .next t ∧ t.mem = s.mem ∧ t.qe = s.qe
        ∧ getReg t (.qyBerth b) 0 0x060 = (getReg s (.qyBerth b) 0 0x060 + 1) % 2 ^ 32
        ∧ if data = none then ∃ bs, bs.length = 64 ∧ t.out = .cxlData b addr bs true :: s.out else t.out = s.out)
      ∧ (mapLive s f = true → s.tu.central = [] → s.tu.region = [] → s.tu.invs = [] → ∃ t, exec (.cxlPartnerRequest b addr data own) s = .next t ∧ t.mem = s.mem ∧ t.qe = s.qe ∧ t.out = s.out
        ∧ t.tu.walks = { id := s.tu.nextId, f := f, page := addr / 4096 * 4096, who := .cxl b be.nextTag, cls := bits (getReg s (.qyBerth b) 0 0x048) 10 8, lookahead := none } :: s.tu.walks ∧ mhas (getBerth t b).opens be.nextTag = true))

/-- What a partner does in its own name through an active, unpaired berth (R97, R98, R179, R358, R368, R379 to R381, R508, R527, R531). A DOORBELL and a CQ_HEAD for its own queue act as the host's do, and for another queue are dropped and counted;
FENCE_SIGNAL signals a fence of a function its queues serve, and no other. UNBIND_ACK ends an unbinding. An EVENT within the card's sources becomes pending, another is counted and raises event 3. PWR REQUEST raises the grant as far as the
window's room allows, from 10 µs ahead, and RELEASE lowers it, ballast taking up the difference. TRACE records while there is room, and counts what there is none for. CONTEXT_GRANT adds a context, up to the card's CTX_CACHE;
CONTEXT_REVOKE takes it away. BERTH_TIME_TIMER sends TIME to the active berth. The start time, the room formula and the ballast at a release are the model's choices (log entries 33 and 34). -/
def Obligations.PartnersUseQueuesFencesAndPower : Prop :=
  ∀ (s : State) (b : Nat) (m : BresaMsg), b < 8 →
    let be := getBerth s b
    let heldBy := fun (x : Option Nat) => x = some b
    (berthHears s b m 2 1 →
      let q := bits m.addr 12 0
      let tail := bits m.aux 15 0
      (∀ sq, mget s.qe.sqs q = some sq → heldBy sq.berth → tail < 2 ^ sq.log2 → sq.stalled = false → spoilt s [.sq q] = false →
        let k := (tail + 2 ^ sq.log2 - sq.tailCount % 2 ^ sq.log2) % 2 ^ sq.log2
        k ≠ 0 → bits m.aux 31 16 = stampOf (sq.tailCount + k - 1) →
        ∃ t, exec (.tskDoorbell b m) s = .next t ∧ mget t.qe.sqs q = some { sq with tailCount := sq.tailCount + k } ∧ t.lb.doorbells = (s.lb.doorbells + 1) % 2 ^ 64 ∧ t.mem = s.mem)
      ∧ (mget s.qe.sqs q = none → ∃ t, exec (.tskDoorbell b m) s = .next t ∧ t.qe = s.qe ∧ t.mem = s.mem ∧ getReg t .qe 0 0x05C = (getReg s .qe 0 0x05C + 1) % 2 ^ 32))
    ∧ (berthHears s b m 2 2 →
      let q := bits m.addr 12 0
      let head := bits m.aux 15 0
      (∀ cq, mget s.qe.cqs q = some cq → heldBy cq.berth → head < 2 ^ cq.log2 → cq.held = [] → spoilt s [.cq q] = false →
        let d := (head + 2 ^ cq.log2 - cq.head) % 2 ^ cq.log2
        d ≤ cq.unread → ∃ t, exec (.cqHead b m) s = .next t ∧ t.mem = s.mem
          ∧ mget t.qe.cqs q = some { cq with head := head, unread := cq.unread - d, fullPosted := if d = 0 then cq.fullPosted else false })
      ∧ (mget s.qe.cqs q = none → ∃ t, exec (.cqHead b m) s = .next t ∧ t.qe = s.qe ∧ t.mem = s.mem ∧ getReg t .qe 0 0x05C = (getReg s .qe 0 0x05C + 1) % 2 ^ 32))
    ∧ (berthHears s b m 2 3 →
      let n := bits m.addr 15 0
      ∀ x, mget s.qe.blocks (n / 256) = some x →
        ((∃ p ∈ s.qe.sqs, heldBy p.2.berth ∧ p.2.f = x.f) → advances (BitVec.ofNat 64 m.aux) (getFence s n).value = true → spoilt s [.fence n] = false →
          ∃ t, exec (.fenceSignal b m) s = .next t ∧ getFence t n = { getFence s n with value := BitVec.ofNat 64 m.aux } ∧ (∀ i, i ≠ n → getFence t i = getFence s i)
            ∧ t.lb.fences = (s.lb.fences + 1) % 2 ^ 64 ∧ t.mem = s.mem ∧ t.qe.sqs = s.qe.sqs)
        ∧ ((∀ p ∈ s.qe.sqs, p.2.f ≠ x.f) → (∀ p ∈ s.qe.cqs, p.2.f ≠ x.f) → ∃ t, exec (.fenceSignal b m) s = .next t ∧ t.qe = s.qe ∧ t.lb = s.lb ∧ t.mem = s.mem))
    ∧ (berthHears s b m 2 4 → ∃ t, exec (.unbindAck b m) s = .next t ∧ (getBerth t b).unbinds = be.unbinds.erase (m.ctx % 4096) ∧ t.qe = s.qe ∧ t.mem = s.mem)
    ∧ (berthHears s b m 3 1 →
      let n := bits m.aux 11 0
      (n < be.cardFld 16 2 → ∃ t, exec (.event b m) s = .next t ∧ 0x8000 + 4096 * b + n ∈ t.ec.pend ∧ t.qe = s.qe ∧ t.mem = s.mem)
      ∧ (be.cardFld 16 2 ≤ n → ∃ t, exec (.event b m) s = .next t ∧ getReg t (.qyBerth b) 0 0x05C = (getReg s (.qyBerth b) 0 0x05C + 1) % 2 ^ 32
        ∧ bit (getReg t (.qyBerth b) 0 0x018) 3 = true ∧ t.qe = s.qe ∧ t.mem = s.mem))
    ∧ (berthHears s b m 4 1 → (∀ i, i < 8 → i ≠ b → (getBerth s i).st ≠ 3) →
      let level := Nat.max be.granted (m.aux % 2 ^ 16)
      let r := Nat.min (level - be.granted) (riseRoom s)
      ∃ t, exec (.pwrRequest b m) s = .next t ∧ (getBerth t b).asked = level ∧ (getBerth t b).granted = be.granted + r ∧ (getBerth t b).counted = be.counted
        ∧ (getBerth t b).rises = be.rises ++ (if r = 0 then [] else [(s.time.toNat + 10000, be.granted + r)]) ∧ t.sl = s.sl ∧ t.qe = s.qe ∧ t.mem = s.mem)
    ∧ (berthHears s b m 4 2 →
      let level := m.aux % 2 ^ 16
      (be.granted ≤ level → ∃ t, exec (.pwrRelease b m) s = .next t ∧ (getBerth t b).granted = be.granted ∧ (getBerth t b).counted = be.counted ∧ t.sl = s.sl ∧ t.mem = s.mem)
      ∧ (level < be.granted → ∃ t, exec (.pwrRelease b m) s = .next t ∧ (getBerth t b).asked = level ∧ (getBerth t b).granted = level ∧ (getBerth t b).counted = Nat.min be.counted level
        ∧ (getBerth t b).rises = be.rises.map (fun x => (x.1, Nat.min x.2 level)) ∧ t.sl = { s.sl with ballast := Nat.min (ballastMax s) (s.sl.ballast + (be.counted - level)) } ∧ t.mem = s.mem))
    ∧ (berthHears s b m 6 1 →
      let n := 16 + m.payload.length
      (bit (getReg s .hm 0 0x06C) 31 = false → ∃ t, exec (.trace b m) s = .next t ∧ t.mem = s.mem ∧ t.qe = s.qe ∧ getReg t .hm 0 0x078 = getReg s .hm 0 0x078)
      ∧ (bit (getReg s .hm 0 0x06C) 31 = true → traceSize s ≤ traceUsed s + n → ∃ t, exec (.trace b m) s = .next t ∧ t.mem = s.mem ∧ t.qe = s.qe
        ∧ getReg t .hm 0 0x07C = (getReg s .hm 0 0x07C + 1) % 2 ^ 32 ∧ bit (getReg t .hm 0 0x018) 2 = true ∧ getReg t .hm 0 0x078 = getReg s .hm 0 0x078)
      ∧ (bit (getReg s .hm 0 0x06C) 31 = true → traceUsed s + n < traceSize s → traceSize s ≤ 2 ^ 32 → ∃ t, exec (.trace b m) s = .next t
        ∧ getReg t .hm 0 0x078 = (getReg s .hm 0 0x078 % traceSize s + n) % traceSize s))
    ∧ (∀ o cx x, canWrite s o (.qyBerth b) 0x04C → be.st = 3 → be.paired = false → cx < 4096 → mget s.qe.ctxs cx = some x →
      (be.grants.contains cx = false →
        (be.grants.length < be.cardFld 14 2 → ∃ t, exec (.contextGrant o b (2 ^ 31 + cx)) s = .next t ∧ (getBerth t b).grants = cx :: be.grants ∧ t.qe = s.qe ∧ t.mem = s.mem)
        ∧ (be.cardFld 14 2 ≤ be.grants.length → ∃ t, exec (.contextGrant o b (2 ^ 31 + cx)) s = .next t ∧ t.qy = s.qy ∧ t.qe = s.qe ∧ t.mem = s.mem
          ∧ (bit (getReg s .qy 0 0x024) 31 = false → getReg t .qy 0 0x024 = (2 ^ 31 + 4 * 2 ^ 16 + originCode ⟨.partner, b⟩) % 2 ^ 32)))
      ∧ (be.grants.contains cx = true → ∃ t, exec (.contextRevoke o b cx) s = .next t ∧ (getBerth t b).grants = be.grants.erase cx ∧ (bit be.caps 1 = true → cx ∈ (getBerth t b).unbinds)
        ∧ t.qe = s.qe ∧ t.mem = s.mem))
    ∧ (be.st = 3 → be.cxl = false → be.paired = false → be.waiting = [] → 1 ≤ be.txCredits.getD 5 0 → (∀ i, i < 8 → i ≠ b → (getBerth s i).st ≠ 3) →
      let slew := if s.hl.slewLeft = 0 then 0 else if s.hl.slew < 0 then 1 else 2
      ∃ t, exec .berthTimeTimer s = .next t ∧ t.mem = s.mem ∧ t.qe = s.qe
        ∧ t.out = .bresa b (bmsg 5 0x11 0 0 0 0 s.time.toNat ((s.tclk - be.edge) % 2 ^ 32 + slew * 2 ^ 32 + s.tclk % 100 * 2 ^ 34) [] false) :: s.out)

/-- The life of a link (R390, R392 to R396, R400, R424, R474, R475), with no access waiting at any home. Setting EN starts training and clearing it puts the link OFF; the vehicle profile refuses a seventeenth. Locked lanes lead a Hawser link
to HELLO, and bring an Ethernet link UP (that is the model's reading, log entry 28). A HELLO of another major leaves the link in HELLO with code 2, one that holds this hub's fixed ID while no link is UP puts the hub in CONFLICT with code 3, any other
leads to SECURING, and the session to UP, with UP raised and the epoch counted; so does one that holds it and belongs to a system, whose refusal takes every link that is UP back to HELLO. A good flit counts, and its corrected codewords do, those of an Ethernet link's
frames too; a bad one is replayed and counted, and one that is bad after its eighth replay retrains the link, as the loss of lane lock does. RETRAIN_DONE brings it back; LINK_RETRAIN_EXPIRY makes it LOST, and what it carried ends LINK_GONE at its source:
a request of this hub, one passed on for another, a WINDOW_CREATE that awaits the manager's answer. A rekey starts a new key when the flits of the key are used up or the peer asks for it.
That a neighbour of the same ID that is not turned down leaves the link in HELLO is the model's reading (log entry 71). -/
def Obligations.HawserLinksRiseAndFall : Prop :=
  ∀ (s : State) (l : Nat), l < 48 → s.mem.queue = [] →
    let k := getLink s l
    let only := fun (t : State) (x : Link) => getLink t l = x ∧ ∀ i, i ≠ l → getLink t i = getLink s i
    let framed := fun (t : State) => t = { s with regs := t.regs, ec := t.ec, out := t.out, hl := { s.hl with links := t.hl.links, role := t.hl.role, idValid := t.hl.idValid, known := t.hl.known } }
    let kept := fun (t : State) => t.hl.role = s.hl.role ∧ t.hl.idValid = s.hl.idValid ∧ t.hl.known = s.hl.known
    let err := fun (t : State) (p : Page) (code : Nat) => bit (getReg s p 0 0x024) 31 = false → getReg t p 0 0x024 = (2 ^ 31 + code * 2 ^ 16 + originCode ⟨.peer, k.peer.getD 0⟩) % 2 ^ 32
    let event := fun (t : State) (b : Nat) => bit (getReg t (.hlLink l) 0 0x018) b = true
    let unasked := (∀ x ∈ s.hl.forwards, x.link ≠ l) ∧ ∀ a ∈ s.hl.winAsks, a.2 ≠ l
    let idle := s.hl.outs.filter (fun o => o.link = l) = [] ∧ unasked
    let down := fun (st : Nat) => { k.alone with st := st, lanes := 0, replays := 0 }
    let dropped := fun (t : State) => t.mem = { s.mem with journal := s.mem.journal.filter fun j => j.src / 4096 ≠ l + 1 }
    (∀ o v, canWrite s o (.hlLink l) 0x040 → v < 2 ^ 32 →
      let others := ((List.range 48).filter fun i => i ≠ l && linkEn s i).length
      (bit v 31 = true → linkEn s l = false →
        (s.fuses.vehicle = true → 16 ≤ others → ∃ t, exec (.linkEnable o l v) s = .next t ∧ linkEn t l = false ∧ t.hl = s.hl ∧ t.qe = s.qe ∧ t.mem = s.mem
          ∧ (bit (getReg s .hl 0 0x024) 31 = false → getReg t .hl 0 0x024 = (2 ^ 31 + 1 * 2 ^ 16 + originCode o) % 2 ^ 32))
        ∧ (s.fuses.vehicle = false ∨ others < 16 → k.st = 0 → ∃ t, exec (.linkEnable o l v) s = .next t ∧ linkEn t l = true ∧ only t { k with st := 1 } ∧ t.qe = s.qe ∧ t.mem = s.mem))
      ∧ (bit v 31 = false → linkEn s l = true → k.st ≠ 0 → idle → ∃ t, exec (.linkDisable o l v) s = .next t ∧ linkEn t l = false ∧ only t (down 0) ∧ dropped t ∧ t.qe = s.qe))
    ∧ (k.st = 1 → linkEn s l = true →
      (isEther s l = false → ∃ t, exec (.lanesLocked l) s = .next t ∧ framed t ∧ kept t ∧ only t { k with st := 2, lanes := 15 } ∧ t.out = .hawser l "HELLO" (helloArgs s) :: .annexChanged :: s.out)
      ∧ (isEther s l = true → ∃ t, exec (.lanesLocked l) s = .next t ∧ framed t ∧ kept t ∧ only t { k with st := 4, lanes := 15, epoch := k.epoch + 1 } ∧ event t 0))
    ∧ (∀ h : HelloMsg, k.st = 2 →
      let heard := { k with peer := h.id, peerVersion := h.version, peerGrade := h.grade, peerHops := if h.manager.isSome then some h.hops else none, peerManager := h.manager }
      let cfg := getReg s .hl 0 0x040
      let same := s.hl.idValid = true ∧ h.id = some s.hl.hubId
      let turnedDown := bit cfg 30 = true ∧ ((∀ i, i < 48 → hawserUp s i = false) ∨ h.manager.isSome = true)
      let open_ := fun (i : Nat) => ((getLink s i).st = 4 ∨ (getLink s i).st = 5) ∧ isEther s i = false
      let caught := fun (t : State) (code : Nat) => bit (getReg s .hl 0 0x024) 31 = false → getReg t .hl 0 0x024 = (2 ^ 31 + code * 2 ^ 16 + originCode ⟨.peer, h.id.getD 0⟩) % 2 ^ 32
      (h.version / 2 ^ 24 % 256 ≠ 3 → ∃ t, exec (.hello l h) s = .next t ∧ framed t ∧ kept t ∧ only t heard ∧ caught t 2)
      ∧ (h.version / 2 ^ 24 % 256 = 3 → s.hl.role = 4 → ∃ t, exec (.hello l h) s = .next t ∧ framed t ∧ kept t ∧ only t heard)
      ∧ (h.version / 2 ^ 24 % 256 = 3 → s.hl.role ≠ 4 →
        (same → turnedDown → (s.hl.links.map Prod.fst).Pairwise (· < ·) → s.hl.outs = [] → s.hl.forwards = [] → s.hl.winAsks = [] →
          ∃ t, exec (.hello l h) s = .next t ∧ t.qe = s.qe ∧ t.mem.bytes = s.mem.bytes ∧ getLink t l = heard
            ∧ (∀ i, i ≠ l → getLink t i = if open_ i then { (getLink s i).alone with st := 2, lanes := 0, replays := 0 } else if (getLink s i).st = 3 then { getLink s i with st := 2 } else getLink s i)
            ∧ t.hl.role = 4 ∧ t.hl.idValid = false ∧ caught t 3 ∧ bit (getReg t .hl 0 0x018) 1 = true ∧ ((∀ i, ¬open_ i) → framed t))
        ∧ (same → ¬turnedDown → ∃ t, exec (.hello l h) s = .next t ∧ framed t ∧ kept t ∧ only t heard)
        ∧ (¬same → ∃ t, exec (.hello l h) s = .next t ∧ framed t ∧ kept t ∧ only t { heard with st := 3 })))
    ∧ (k.st = 3 →
      (∃ t, exec (.sessionUp l true) s = .next t ∧ framed t ∧ only t { k with st := 4, epoch := k.epoch + 1, keyGen := 1, flits := 0, replays := 0, rekeyAsked := false } ∧ event t 0
        ∧ t.hl.role = (if s.hl.role = 0 then 1 else s.hl.role) ∧ t.hl.idValid = s.hl.idValid ∧ ∀ i, k.peer = some i → i ∈ t.hl.known)
      ∧ ∃ t, exec (.sessionUp l false) s = .next t ∧ t = { s with regs := t.regs } ∧ err t .hl 4 ∧ err t .sp 5)
    ∧ (k.st = 4 →
      (isEther s l = true →
        (∀ n, ∃ t, exec (.flitReceive l (.good n)) s = .next t ∧ t = { s with regs := t.regs } ∧ if n = 0 then t.regs = s.regs else getReg t (.hlLink l) 0 0x04C = (getReg s (.hlLink l) 0 0x04C + n) % 2 ^ 32)
        ∧ (∃ t, exec (.flitReceive l .uncorrectable) s = .next t ∧ t = { s with regs := t.regs, ec := t.ec, out := t.out } ∧ getReg t (.hlLink l) 0 0x050 = (getReg s (.hlLink l) 0 0x050 + 1) % 2 ^ 32 ∧ event t 3))
      ∧ (isEther s l = false →
        (∀ n, ∃ t, exec (.flitReceive l (.good n)) s = .next t ∧ t = { s with regs := t.regs, hl := { s.hl with links := t.hl.links } } ∧ only t { k with flits := k.flits + 1, replays := 0 }
          ∧ if n = 0 then t.regs = s.regs else getReg t (.hlLink l) 0 0x04C = (getReg s (.hlLink l) 0 0x04C + n) % 2 ^ 32)
        ∧ (∃ t, exec (.flitReceive l .keyUpdate) s = .next t ∧ t = { s with hl := { s.hl with links := t.hl.links } } ∧ only t { k with flits := k.flits + 1, replays := 0, rekeyAsked := true })
        ∧ (∀ x, x = .badCrc ∨ x = .badTag ∨ x = .uncorrectable → ∃ t, exec (.flitReceive l x) s = .next t ∧ framed t ∧ kept t
          ∧ (x = .uncorrectable → getReg t (.hlLink l) 0 0x050 = (getReg s (.hlLink l) 0 0x050 + 1) % 2 ^ 32 ∧ event t 3)
          ∧ (k.replays < 8 → only t { k with replays := k.replays + 1 } ∧ getReg t (.hlLink l) 0 0x054 = (getReg s (.hlLink l) 0 0x054 + 1) % 2 ^ 32)
          ∧ (8 ≤ k.replays → only t { k with st := 5, lanes := 0 } ∧ event t 2))
        ∧ let due := k.rekeyAsked = true ∨ 2 ^ clampN 20 32 (getReg s .sp 0 0x070 % 64) ≤ k.flits
          (due → ∃ t, exec (.linkRekey l) s = .next t ∧ t = { s with hl := { s.hl with links := t.hl.links } } ∧ only t { k with keyGen := k.keyGen + 1, flits := 0, rekeyAsked := false })
          ∧ (¬due → exec (.linkRekey l) s = .next s))
      ∧ ∃ t, exec (.laneLockLost l) s = .next t ∧ framed t ∧ kept t ∧ only t { k with st := 5, lanes := 0 } ∧ event t 2)
    ∧ (k.st = 2 ∨ k.st = 3 → ∃ t, exec (.laneLockLost l) s = .next t ∧ framed t ∧ kept t ∧ only t { k.alone with st := 1, lanes := 0 })
    ∧ (k.st = 5 →
      (∃ t, exec (.retrainDone l) s = .next t ∧ framed t ∧ kept t ∧ only t { k with st := 4, lanes := 15, replays := 0 })
      ∧ (idle → ∃ t, exec (.linkRetrainExpiry l) s = .next t ∧ only t (down 6) ∧ event t 1 ∧ dropped t ∧ t.qe = s.qe)
      ∧ (∀ (x : Forwarded), s.hl.outs.filter (fun o => o.link = l) = [] → (∀ a ∈ s.hl.winAsks, a.2 ≠ l) → s.hl.forwards.filter (fun x => x.link = l) = [x] → x.inLink ≠ l → hawserUp s x.inLink = true →
        ∃ t, exec (.linkRetrainExpiry l) s = .next t ∧ only t (down 6) ∧ .remoteAck x.inLink x.src x.inTag stLinkGone 0 [] false ∈ t.out ∧ x ∉ t.hl.forwards)
      ∧ (∀ n c, s.hl.outs.filter (fun o => o.link = l) = [] → (∀ x ∈ s.hl.forwards, x.link ≠ l) → s.hl.winAsks = [(n, l)] → adminIn s n 0x8A = some c →
        ∃ t, exec (.linkRetrainExpiry l) s = .next t ∧ only t (down 6) ∧ getCmd t n = some (c.ended stLinkGone 0 0 0) ∧ t.hl.winAsks = [] ∧ (fld c.raw 16 1 = 0 → mget t.hl.inw c.aux = none))
      ∧ ∀ (x : RemOut) m j c, unasked → s.hl.outs.filter (fun o => o.link = l) = [x] → x.kind = 1 → x.who = .mover m → mget s.gm.movers m = some j → getCmd s j.k = some c → c.stop = none →
        ∃ t, exec (.linkRetrainExpiry l) s = .next t ∧ only t (down 6) ∧ event t 1 ∧ dropped t ∧ t.hl.outs = s.hl.outs.filter (fun o => o.tag ≠ x.tag)
          ∧ getCmd t j.k = some { c with stop := some (stLinkGone, 0), fault := 0, remote := c.remote.filter (· ≠ x.tag) })

/-- The manager (R399, R400, R402, R404, R405), where at most one link has heard an announcement. The 100 µs timer raises a manager's heartbeat and sends the best candidate on every UP Hawser link; an eligible hub without a candidate
puts itself forward, and one that knows none announces none (the model's form, log entry 107). A lower candidate than the present one is adopted with one hop more, and with a heartbeat it becomes the manager, with whom every inbound window is registered again; an eligible hub
of lower ID keeps its own view. An eligible hub that has heard no lower ID claims the role, enters its windows in the directory and raises ROLE. MGR_TIMEOUT leaves a worker ELECTING, with its ID and windows kept. A WINDOW_CREATE that waited for
a manager registers with it. A manager answers ID_REQUEST with the lowest ID that no known hub holds, and accepts or refuses a fixed ID; a worker relays the request and its answer; a hub takes the ID assigned to it, and one whose fixed ID is refused is in CONFLICT. That the answers go to the requests in their order (log entry 102) and that a heartbeat other than 0 marks a claimed manager is the model's reading. -/
def Obligations.HubsElectAManager : Prop :=
  ∀ (s : State),
    let links := fun (t : State) => t = { s with regs := t.regs, ec := t.ec, out := t.out, hl := t.hl } ∧ t.hl.inw = s.hl.inw ∧ t.hl.outw = s.hl.outw ∧ t.hl.outs = s.hl.outs ∧ t.hl.ins = s.hl.ins
      ∧ t.hl.hubId = s.hl.hubId ∧ t.hl.idValid = s.hl.idValid
    let tells := fun (t : State) (c hops beat : Nat) => ∀ l, l < 48 → hawserUp s l = true → .hawser l "ANNOUNCE" [c, hops, beat] ∈ t.out
    let may := eligible s && s.hl.idValid
    let waits := s.qe.cmds.filter fun p => p.2.op = 0x8A && p.2.sq < 64 && p.2.phase = .running && p.2.stage = 1
    ((∀ c, s.hl.role = 3 → s.hl.cand = some c → ∃ t, exec .announceTimer s = .next t ∧ t = { s with out := t.out, hl := { s.hl with beat := s.hl.beat + 1 } } ∧ tells t c s.hl.hops (s.hl.beat + 1))
      ∧ (∀ c, s.hl.role ≠ 3 → s.hl.cand = some c → ∃ t, exec .announceTimer s = .next t ∧ t = { s with out := t.out } ∧ tells t c s.hl.hops s.hl.beat)
      ∧ (s.hl.role ≠ 3 → s.hl.cand = none →
        (may = true → s.hl.role ≠ 4 → ∃ t, exec .announceTimer s = .next t ∧ t = { s with out := t.out, hl := { s.hl with cand := some s.hl.hubId, hops := 0, beat := 0 } } ∧ tells t s.hl.hubId 0 0)
        ∧ (may = false ∨ s.hl.role = 4 → ∃ t, exec .announceTimer s = .next t ∧ t = { s with out := t.out } ∧ tells t 4096 0 0)))
    ∧ (∀ l c h t0, l < 48 →
      (hawserUp s l = false → waits = [] → exec (.announce l c h t0) s = .next s)
      ∧ (hawserUp s l = true → s.hl.role ≠ 4 → (s.hl.links.map Prod.fst).Pairwise (· < ·) → (∀ p ∈ s.hl.links, p.1 ≠ l → p.2.heard = none) →
        let own := 4096 ≤ c ∨ (∃ d, s.hl.cand = some d ∧ d < c) ∨ may = true ∧ s.hl.hubId < c ∨ s.hl.cand = some s.hl.hubId ∧ s.hl.role = 3 ∧ s.hl.hubId ≤ c
        let heard := { getLink s l with heard := if c < 4096 then some (c, h, t0) else none, peerHops := if 0 < t0 then some h else none, peerManager := if 0 < t0 then some c else none }
        (waits = [] → ∃ t, exec (.announce l c h t0) s = .next t ∧ links t ∧ getLink t l = heard ∧ (∀ i, i ≠ l → getLink t i = getLink s i)
          ∧ (own → t.hl.cand = s.hl.cand ∧ t.hl.role = s.hl.role ∧ t.hl.manager = s.hl.manager
            ∧ t.out = (if (getLink s l).peerHops = heard.peerHops ∧ (getLink s l).peerManager = heard.peerManager then [] else [.annexChanged]) ++ s.out)
          ∧ (¬own → t.hl.cand = some c ∧ t.hl.hops = h + 1 ∧ t.hl.upstream = l
            ∧ (0 < t0 → t.hl.role = 2 ∧ t.hl.manager = some c ∧ (s.hl.manager ≠ some c → ∀ p ∈ s.hl.inw, .hawser l "REGISTER" (registerArgs s p.1 p.2) ∈ t.out))
            ∧ (t0 = 0 → if s.hl.role = 3 then t.hl.role = 1 ∧ t.hl.manager = none else t.hl.role = s.hl.role ∧ t.hl.manager = s.hl.manager)))
        ∧ (∀ k x w, waits = [(k, x)] → getCmd s k = some x → fld x.raw 16 1 = 0 → mget s.hl.inw x.aux = some w → ¬own → 0 < t0 → s.hl.idValid = true → adminCoreUp s x.f = true →
          ∃ t, exec (.announce l c h t0) s = .next t ∧ getCmd t k = some { x with stage := 2 } ∧ (k, l) ∈ t.hl.winAsks ∧ .hawser l "REGISTER" (registerArgs s x.aux w) ∈ t.out)))
    ∧ (waits = [] → (may = false ∨ s.hl.role = 3 ∨ s.hl.role = 4 ∨ (∃ c, s.hl.cand = some c ∧ c < s.hl.hubId) → exec .electTimeExpiry s = .next s)
      ∧ (may = true → s.hl.role ≠ 3 → s.hl.role ≠ 4 → (∀ c, s.hl.cand = some c → s.hl.hubId ≤ c) → (s.hl.inw.map Prod.fst).Nodup →
        ∃ t, exec .electTimeExpiry s = .next t ∧ links t ∧ t.hl.role = 3 ∧ t.hl.manager = some s.hl.hubId ∧ t.hl.cand = some s.hl.hubId ∧ t.hl.hops = 0 ∧ 0 < t.hl.beat ∧ bit (getReg t .hl 0 0x018) 0 = true
          ∧ ∀ p ∈ s.hl.inw, { hub := s.hl.hubId, win := p.1, tag := p.2.tag, len := p.2.len, rights := p.2.rights, allowId := p.2.allowId, allowMask := p.2.allowMask } ∈ t.hl.dir))
    ∧ ((s.hl.role ≠ 2 → exec .mgrTimeout s = .next s)
      ∧ (s.hl.role = 2 → ∃ t, exec .mgrTimeout s = .next t ∧ t = { s with regs := t.regs, ec := t.ec, out := t.out, hl := t.hl, qe := { s.qe with cmds := t.qe.cmds } }
        ∧ t.hl = { s.hl with role := 1, manager := none, cand := none, hops := 0, beat := 0, idAsks := [], winAsks := [], links := t.hl.links }
        ∧ (∀ i, getLink t i = { getLink s i with heard := none }) ∧ bit (getReg t .hl 0 0x018) 0 = true
        ∧ ∀ k c, getCmd s k = some c → getCmd t k = some (if c.op = 0x8A ∧ c.sq < 64 ∧ c.phase = .running ∧ c.stage = 2 then { c with stage := 1 } else c)))
    ∧ (∀ l, l < 48 → waits = [] →
      let carries := fun (i : Nat) => (getLink s i).st = 4 ∧ isEther s i = false
      (∀ id, s.hl.role = 3 → id < 4096 → id ≠ s.hl.hubId → id ∉ s.hl.known → (∀ i, i < id → i = s.hl.hubId ∨ i ∈ s.hl.known) → carries l →
        exec (.idRequest l (.ask none)) s = .next { s with out := .hawser l "ID_ASSIGN" [id] :: s.out, hl := { s.hl with known := id :: s.hl.known } })
      ∧ (∀ id, carries l →
        (s.hl.idValid = true → id = s.hl.hubId → exec (.idRequest l (.ask (some id))) s = .next { s with out := .hawser l "ID_REFUSED" [id] :: s.out })
        ∧ (s.hl.role = 3 → ¬(s.hl.idValid = true ∧ id = s.hl.hubId) →
          (id ∈ s.hl.known → (getLink s l).peer ≠ some id → mget s.hl.claims id = none → exec (.idRequest l (.ask (some id))) s = .next { s with out := .hawser l "ID_REFUSED" [id] :: s.out })
          ∧ (id ∉ s.hl.known →
            exec (.idRequest l (.ask (some id))) s = .next { s with out := .hawser l "ID_ASSIGN" [id] :: s.out, hl := { s.hl with known := id :: s.hl.known, claims := mset s.hl.claims id l } })))
      ∧ (∀ fixed, s.hl.role ≠ 3 → (∀ id, fixed = some id → ¬(s.hl.idValid = true ∧ id = s.hl.hubId)) →
        (s.hl.manager = none → exec (.idRequest l (.ask fixed)) s = .next s)
        ∧ (s.hl.manager.isSome = true → carries s.hl.upstream →
          exec (.idRequest l (.ask fixed)) s = .next { s with out := .hawser s.hl.upstream "ID_REQUEST" fixed.toList :: s.out, hl := { s.hl with idAsks := s.hl.idAsks ++ [some l] } }))
      ∧ (∀ m, (∀ fixed, m ≠ .ask fixed) → s.hl.idAsks = [] → exec (.idRequest l m) s = .next s)
      ∧ (∀ i rest, s.hl.idAsks = some i :: rest → carries i →
        (∀ id, exec (.idRequest l (.assign id)) s = .next { s with out := .hawser i "ID_ASSIGN" [id] :: s.out, hl := { s.hl with idAsks := rest, known := if s.hl.known.contains id then s.hl.known else id :: s.hl.known } })
        ∧ exec (.idRequest l .refused) s = .next { s with out := .hawser i "ID_REFUSED" [] :: s.out, hl := { s.hl with idAsks := rest } })
      ∧ ∀ rest, s.hl.idAsks = none :: rest →
        let fixed := bit (getReg s .hl 0 0x040) 30
        (∀ id, let takes := s.hl.idValid = false ∧ fixed = false ∧ s.hl.role ≠ 4
          (takes → ∃ t, exec (.idRequest l (.assign id)) s = .next t ∧ t = { s with regs := t.regs, out := .annexChanged :: s.out, hl := { s.hl with idAsks := rest, idValid := true, hubId := id % 4096 } })
          ∧ (¬takes → exec (.idRequest l (.assign id)) s = .next { s with hl := { s.hl with idAsks := rest } }))
        ∧ (¬(s.hl.idValid = true ∧ fixed = true ∧ s.hl.role ≠ 4) → exec (.idRequest l .refused) s = .next { s with hl := { s.hl with idAsks := rest } })
        ∧ (s.hl.idValid = true → fixed = true → s.hl.role ≠ 4 → s.mem.queue = [] → s.hl.outs = [] → s.hl.forwards = [] → s.hl.winAsks = [] → (s.hl.links.map Prod.fst).Pairwise (· < ·) →
          ∃ t, exec (.idRequest l .refused) s = .next t ∧ t.hl.role = 4 ∧ t.hl.idValid = false ∧ bit (getReg t .hl 0 0x018) 1 = true ∧ ∀ i, hawserUp t i = false))

/-- Remote windows and their requests (R91, R160, R396, R401, R404, R405, R408, R409, R411 to R416, R553), awake, on an UP Hawser link, with the access counters off, no plan and no invalidation in the unit. The directory takes a registration and accepts
it, and drops one that is deregistered; a hub between relays them, and the acceptance back. RESOLVE is answered from the directory, or relayed, and its answer ends WINDOW_CREATE on a running core (else the core asks again), as WIN_WAIT without a manager does. A request from a hub not admitted, to no open window, or beyond its length answers FAULT, and one that lacks a right answers RIGHTS with the
rights that lack; otherwise, where the central ATC has the page, READ answers the bytes, WRITE stores them and nothing else, an atomic answers the old value. A page the ATC lacks starts a walk. PLAN answers the first page that fails, by its window and offset. An answer ends its
request at the source: bytes reach the mover, another status stops its command, with the rights the access needed where RIGHTS names none (R467). FORWARD sends a request on with one hop less under a tag of its own, and its answer goes back the way it came; LINK_GONE goes back where its hops or its route end, the former captured with code 5. -/
def Obligations.WindowsCarryRemoteRequests : Prop :=
  ∀ (s : State), s.sl.h = 0 → s.sl.ramp = none → bit (getReg s .tu 0 0x048) 31 = false → s.tu.plans = [] → s.tu.invs = [] → s.mem.queue = [] → s.mem.journal = [] →
    let ended := fun (t : State) (k : Nat) (c : Cmd) (st n : Nat) => getCmd t k = some (c.ended st 0 n 0)
    (∀ k c, adminIn s k 0x8A = some c →
      (s.hl.manager.isSome = true → exec (.winWaitExpiry k) s = .next s)
      ∧ (s.hl.manager = none → ∃ t, exec (.winWaitExpiry k) s = .next t ∧ ended t k c stLinkGone 0
        ∧ t = { s with qe := { s.qe with cmds := t.qe.cmds }, hl := { s.hl with inw := if fld c.raw 16 1 = 0 then mdel s.hl.inw c.aux else s.hl.inw } }))
    ∧ (∀ hub win tag rights allowId allowMask,
      let mine := s.hl.idValid = true ∧ hub = s.hl.hubId
      let upOpen := (getLink s s.hl.upstream).st = 4 ∧ isEther s s.hl.upstream = false
      (∀ len, (s.hl.role = 3 → ∃ t, exec (.windowRegister hub win tag (.register len) rights allowId allowMask) s = .next t ∧ t = { s with out := t.out, hl := { s.hl with dir := t.hl.dir, known := t.hl.known } }
          ∧ { hub := hub, win := win, tag := tag, len := len, rights := codeRights rights, allowId := allowId, allowMask := allowMask } ∈ t.hl.dir
          ∧ ∀ l, route s hub = some l → t.out = .hawser l "REGISTERED" [hub, win] :: s.out)
        ∧ (s.hl.role ≠ 3 → upOpen →
          exec (.windowRegister hub win tag (.register len) rights allowId allowMask) s = .next (emit (.hawser s.hl.upstream "REGISTER" [hub, win, tag, len, rights, allowId, allowMask]) s)))
      ∧ (∀ k c, mine → waitingCreate s (fun c => fld c.raw 16 1 = 0 && c.aux = win) = some k → getCmd s k = some c → c.aux = win → c.phase = .running →
        ∃ t, exec (.windowRegister hub win tag .accepted rights allowId allowMask) s = .next t ∧ (∀ l, (k, l) ∉ t.hl.winAsks)
          ∧ (adminCoreUp s c.f = true → ended t k c stSuccess win ∧ ∀ w, mget s.hl.inw win = some w → mget t.hl.inw win = some { w with open_ := true })
          ∧ (adminCoreUp s c.f = false → getCmd t k = some { c with stage := 1 } ∧ t.hl.inw = s.hl.inw))
      ∧ (∀ l, ¬mine → route s hub = some l → exec (.windowRegister hub win tag .accepted rights allowId allowMask) s = .next (emit (.hawser l "REGISTERED" [hub, win]) s))
      ∧ (s.hl.role = 3 → exec (.windowRegister hub win tag .deregister rights allowId allowMask) s = .next { s with hl := { s.hl with dir := s.hl.dir.filter fun d => !(d.hub = hub && d.win = win) } })
      ∧ (s.hl.role ≠ 3 → upOpen → exec (.windowRegister hub win tag .deregister rights allowId allowMask) s = .next (emit (.hawser s.hl.upstream "DEREGISTER" [hub, win]) s)))
    ∧ (∀ src target tag l,
      (s.hl.role = 3 → route s src = some l →
        exec (.resolve src target tag .ask) s = .next (emit (.hawser l "RESOLVED" ([src, target, tag] ++ match dirLook s src target tag with | some (w, n, r) => [1, w, n, r] | none => [0])) s))
      ∧ (s.hl.role ≠ 3 → l = s.hl.upstream → (getLink s l).st = 4 → isEther s l = false → exec (.resolve src target tag .ask) s = .next (emit (.hawser l "RESOLVE" [src, target, tag]) s))
      ∧ (¬(s.hl.idValid = true ∧ src = s.hl.hubId) → route s src = some l →
        exec (.resolve src target tag .refused) s = .next (emit (.hawser l "RESOLVED" [src, target, tag, 0]) s)
        ∧ ∀ w n r, exec (.resolve src target tag (.ok w n r)) s = .next (emit (.hawser l "RESOLVED" [src, target, tag, 1, w, n, r]) s)))
    ∧ (∀ target tag k c, s.hl.idValid = true → waitingCreate s (fun c => fld c.raw 16 1 = 1 && fld c.raw 26 2 = target && fld c.raw 20 4 = tag) = some k → getCmd s k = some c → c.phase = .running →
      let told := { s.hl with winAsks := s.hl.winAsks.filter fun a => a.1 ≠ k }
      (∀ a, a ≠ .ask → adminCoreUp s c.f = false → ∃ t, exec (.resolve s.hl.hubId target tag a) s = .next t ∧ t = { s with qe := { s.qe with cmds := t.qe.cmds }, hl := told } ∧ getCmd t k = some { c with stage := 1 })
      ∧ (adminCoreUp s c.f = true → (∃ t, exec (.resolve s.hl.hubId target tag .refused) s = .next t ∧ t = { s with qe := { s.qe with cmds := t.qe.cmds }, hl := told } ∧ ended t k c stNotPermitted 0)
      ∧ ∀ w n r, let id := fld c.raw 18 2
        (n < fld c.raw 40 8 → ∃ t, exec (.resolve s.hl.hubId target tag (.ok w n r)) s = .next t ∧ t = { s with qe := { s.qe with cmds := t.qe.cmds }, hl := told } ∧ ended t k c stNotPermitted 0)
        ∧ (fld c.raw 40 8 ≤ n → id < 4096 → mhas s.hl.outw id = false → ∃ t, exec (.resolve s.hl.hubId target tag (.ok w n r)) s = .next t ∧ ended t k c stSuccess id
          ∧ mget t.hl.outw id = some { f := namedFn c 30, target := fld c.raw 26 2, win := w, len := if fld c.raw 40 8 = 0 then n else fld c.raw 40 8, rights := (codeRights (fld c.raw 24 1)).meet (codeRights r) })))
    ∧ (∀ r : RemReq, r.link < 48 → hawserUp s r.link = true → s.hl.idValid = true → r.dst = s.hl.hubId →
     (∀ pages, r.op = .plan pages → exec (.remoteRequest r) s = exec (.plan r.link r.src r.tag r.hops pages) s) ∧ ((∀ pages, r.op ≠ .plan pages) → s.hl.ins = [] →
      let need := (remNeeds r.op).1
      let n := (remNeeds r.op).2
      let ack := fun (st d : Nat) (bs : List Byte) => Out.remoteAck r.link r.src r.tag st d bs false
      (mget s.hl.inw r.win = none → exec (.remoteRequest r) s = .next (emit (ack stFault 0 []) s))
      ∧ ∀ w, mget s.hl.inw r.win = some w →
        let admitted := (Nat.xor r.src w.allowId) &&& w.allowMask = 0 ∧ w.open_ = true ∧ r.off + n ≤ w.len
        (¬admitted → exec (.remoteRequest r) s = .next (emit (ack stFault 0 []) s))
        ∧ (admitted → (need.lacks w.rights).any = true → exec (.remoteRequest r) s = .next (emit (ack stRights (need.lacks w.rights).code []) s))
        ∧ (admitted → (need.lacks w.rights).any = false → mapLive s w.f = true → 0 < n → (w.base + r.off) % 64 + n ≤ 64 → w.base + r.off < 2 ^ 48 →
          let dva := w.base + r.off
          let page := dva / 4096 * 4096
          ((s.tu.central.find? fun x => x.covers w.f none 1 page) = none → ∃ t, exec (.remoteRequest r) s = .next t ∧ t.mem = s.mem ∧ t.out = s.out ∧ t.hl.ins = [{ req := r, f := w.f, dva := dva }]
            ∧ t.tu.walks = { id := s.tu.nextId, f := w.f, page := page, who := .remote r.link r.src r.tag, cls := bits (getReg s .ms 0 0x090) 26 24, lookahead := none } :: s.tu.walks)
          ∧ ∀ x, (s.tu.central.find? fun x => x.covers w.f none 1 page) = some x → x.kind = .dpa → x.rights = ⟨true, true, true⟩ → x.base % 4096 = 0 → x.out % 4096 = 0 →
            let a := x.out + (page - x.base) + dva % 4096
            quietLine s (a / 64 * 64) w.f →
            ((∀ q j, r.op = .nonIdem q j → spoilt s [.journal (homeOf s (a / 64 * 64))] = false) →
             ∃ t, exec (.remoteRequest r) s = .next t ∧ t.hl = s.hl ∧ t.qe = s.qe ∧ t.tu.plans = [] ∧ t.tu.central = s.tu.central
              ∧ (∀ i, i < a ∨ a + n ≤ i → Memory.read t.mem.bytes i = Memory.read s.mem.bytes i)
              ∧ (∀ m, r.op = .read m → t.mem.bytes = s.mem.bytes ∧ t.out = ack stSuccess 0 (Memory.readN s.mem.bytes a m) :: s.out)
              ∧ (∀ d, r.op = .write d false → Memory.readN t.mem.bytes a d.length = d ∧ t.out = ack stSuccess 0 [] :: s.out)
              ∧ ∀ q aop size u v, r.op = .nonIdem q (.atomic aop size u v) → let old := leNat (Memory.readN s.mem.bytes a size)
                Memory.readN t.mem.bytes a size = leBytes size (atomicNew aop size old u v) ∧ t.out = ack stSuccess 0 (leBytes size old) :: s.out))))
    ∧ (∀ link src tag hops win pages, link < 48 → hawserUp s link = true → s.hl.ins = [] →
      (∀ w off rights, mget s.hl.inw win = some w → pages = [⟨win, off, rights⟩] → w.open_ = true → (Nat.xor src w.allowId) &&& w.allowMask = 0 →
        (w.len < off + 1 → exec (.plan link src tag hops pages) s = .next (emit (.remoteAck link src tag stFault 0 (leBytes 8 (win * 2 ^ 35 + off)) false) s))
        ∧ (off < w.len → ((codeRights rights).lacks w.rights).any = false → mapLive s w.f = true → w.base + off < 2 ^ 48 →
          ∀ x, (s.tu.central.find? fun x => x.covers w.f none 1 ((w.base + off) / 4096 * 4096)) = some x → x.kind = .dpa →
            (((codeRights rights).lacks x.rights).any = true → ∃ t, exec (.plan link src tag hops pages) s = .next t ∧ t.hl = s.hl ∧ t.tu.plans = []
              ∧ t.out = .remoteAck link src tag stRights ((codeRights rights).lacks x.rights).code (leBytes 8 (win * 2 ^ 35 + off)) false :: s.out)
            ∧ (((codeRights rights).lacks x.rights).any = false → x.out + x.len ≤ 0x1FE000000 → tagPasses s (x.out + ((w.base + off) / 4096 * 4096 - x.base)) w.f false = true →
              ∃ t, exec (.plan link src tag hops pages) s = .next t ∧ t.hl = s.hl ∧ t.tu.plans = [] ∧ t.out = .remoteAck link src tag stSuccess 0 [] false :: s.out))))
    ∧ (∀ tag status detail data poison,
      ((s.hl.outs.find? fun o => o.tag = tag) = none →
        ((s.hl.forwards.find? fun x => x.tag = tag) = none → exec (.remoteAck tag status detail data poison) s = .next s)
        ∧ ∀ x, (s.hl.forwards.find? fun x => x.tag = tag) = some x → hawserUp s x.inLink = true → s.hl.ins = [] → exec (.remoteAck tag status detail data poison) s
          = .next { s with out := .remoteAck x.inLink x.src x.inTag status detail data poison :: s.out, hl := { s.hl with forwards := s.hl.forwards.filter fun y => y.tag ≠ x.tag } })
      ∧ ∀ (o : RemOut) m j, (s.hl.outs.find? fun o => o.tag = tag) = some o → o.who = .mover m → mget s.gm.movers m = some j → j.phase ≠ .auxRead → (getLink s o.link).st = 4 → isEther s o.link = false →
        let told := if o.kind = 2 then [Out.hawser o.link "JOURNAL_ACK" [s.hl.hubId, o.seq]] else []
        let closed := s.hl.outs.filter fun x => x.tag ≠ tag
        (o.kind = 0 → (status = stSuccess ∧ poison = false ∨ status = stPoisoned) → ∃ t, exec (.remoteAck tag status detail data poison) s = .next t ∧ t.hl = { s.hl with outs := closed } ∧ t.mem = s.mem ∧ t.out = s.out
          ∧ mget t.gm.movers m = some { j with buf := ((asPBytes o.va data).map fun b => { b with poison := if status = stPoisoned then some detail else none }) ++ j.buf })
        ∧ (o.kind = 1 ∨ o.kind = 2 → status = stSuccess → ∃ t, exec (.remoteAck tag status detail data poison) s = .next t ∧ t.hl = { s.hl with outs := closed } ∧ t.gm = s.gm ∧ t.mem = s.mem ∧ t.out = told ++ s.out)
        ∧ (∀ c, o.kind ≤ 2 → status ≠ stSuccess → status ≠ stPoisoned → getCmd s j.k = some c → c.stop = none →
          ∃ t, exec (.remoteAck tag status detail data poison) s = .next t ∧ t.hl = { s.hl with outs := closed } ∧ t.gm = s.gm ∧ t.mem = s.mem ∧ t.out = told ++ s.out
            ∧ getCmd t j.k = some { c with stop := some (status, if status = stRights ∧ detail = 0 then (if o.kind = 0 then 1 else if o.kind = 1 then 2 else 3) else detail), fault := (if status = stLinkGone then 0 else o.va % 2 ^ 64), remote := c.remote.filter (· ≠ tag) }))
    ∧ (∀ r : RemReq, r.link < 48 → hawserUp s r.link = true → (s.hl.idValid = false ∨ r.dst ≠ s.hl.hubId) →
      (r.hops ≤ 1 → s.hl.ins = [] → ∃ t, exec (.forward r) s = .next t ∧ t = { s with regs := t.regs, out := .remoteAck r.link r.src r.tag stLinkGone 0 [] false :: s.out }
        ∧ (bit (getReg s .hl 0 0x024) 31 = false → getReg t .hl 0 0x024 = (2 ^ 31 + 5 * 2 ^ 16 + originCode ⟨.peer, r.src⟩) % 2 ^ 32))
      ∧ (1 < r.hops → (∀ l, route s r.dst = some l → exec (.forward r) s
          = .next { s with out := .remote l { r with link := l, tag := s.hl.nextTag, hops := r.hops - 1 } :: s.out, hl := { s.hl with nextTag := s.hl.nextTag + 1, forwards := ⟨s.hl.nextTag, l, r.link, r.src, r.tag⟩ :: s.hl.forwards } })
        ∧ (route s r.dst = none → s.hl.ins = [] → exec (.forward r) s = .next (emit (.remoteAck r.link r.src r.tag stLinkGone 0 [] false) s))))

/-- Time over links, gPTP, and streams (R391, R406, R407, R418 to R422). A worker more than 1 µs behind its upstream neighbour steps its time forward by the offset and counts the step; a smaller lag slews it fast, a lead slows it, until the offset is removed; an exchange with any
other link changes nothing. A MASTER link sends hub global time plus the epoch; a SLAVE link measures its offset; with GPTP off, and for any other frame, the frame is dropped and counted. An AVTP frame of no channel, or beyond 9,216 bytes (with headers as log entry 100 counts them), is dropped and counted; one of a channel joins its buffer with the
hub's time of arrival, or, beyond 32 KiB, is dropped whole, counted, and marks GAP. A slot of the engine without a channel only passes; a slot of a TSCF or 8-bit RVF channel with one packet of at most 256 bytes in one quiet line places the payload at its record or pixel and nothing else. -/
def Obligations.TimeAndStreamsArriveOverLinks : Prop :=
  ∀ (s : State),
    (∀ l behind offset, l < 48 →
      (s.hl.role ≠ 2 ∨ l ≠ s.hl.upstream ∨ hawserUp s l = false → exec (.timeSyncExchange l behind offset) s = .next s)
      ∧ (s.hl.role = 2 → l = s.hl.upstream → hawserUp s l = true → (∀ b, b < 8 → (getBerth s b).st ≠ 3) →
        (behind = true → 1000 < offset → ∃ t, exec (.timeSyncExchange l behind offset) s = .next t ∧ t = { s with regs := t.regs, time := s.time + BitVec.ofNat 64 offset, hl := { s.hl with offset := offset, slewLeft := 0 } }
          ∧ getReg t .hl 0 0x060 = (getReg s .hl 0 0x060 + 1) % 2 ^ 32)
        ∧ (behind = true → offset ≤ 1000 → exec (.timeSyncExchange l behind offset) s = .next { s with hl := { s.hl with offset := offset, slew := 1, slewLeft := offset } })
        ∧ (behind = false → exec (.timeSyncExchange l behind offset) s = .next { s with hl := { s.hl with offset := -(offset : Int), slew := -1, slewLeft := offset } })))
    ∧ (∀ l gtime (f : Avtp), l < 48 → isEther s l = true → (getLink s l).st = 4 →
      let dropped := fun (t : State) => t = { s with regs := t.regs } ∧ getReg t (.hlLink l) 0 0x058 = (getReg s (.hlLink l) 0 0x058 + 1) % 2 ^ 32
      (∃ t, exec (.frameDropped l) s = .next t ∧ dropped t)
      ∧ (gptpRole s l = 0 → ∃ t, exec (.gptpFrame l gtime) s = .next t ∧ dropped t)
      ∧ (gptpRole s l = 1 → exec (.gptpSync l) s = .next (emit (.gptp l ((s.time.toNat + gptpEpoch s) % 2 ^ 64)) s))
      ∧ (gptpRole s l = 2 → ∃ t, exec (.gptpFrame l gtime) s = .next t ∧ t = { s with hl := { s.hl with links := t.hl.links } }
        ∧ getLink t l = { getLink s l with gptpOfs := BitVec.ofNat 64 gtime - s.time } ∧ ∀ i, i ≠ l → getLink t i = getLink s i)
      ∧ (9216 < avtpBytes f ∨ chanOf s l f = none → ∃ t, exec (.avtpFrame l f) s = .next t ∧ dropped t)
      ∧ (∀ n c, n < 16 → chanOf s l f = some (n, c) → mget s.st.chans n = some c → s.tg.ckpt = false → avtpBytes f ≤ 9216 →
        let held := (c.input.map fun p => p.frame.payload.length - p.taken).sum
        let gap := match c.lastAvtp with | some q => decide ((q + 1) % 256 ≠ f.seq % 256) | none => false
        (held + f.payload.length ≤ 32768 → ∃ t, exec (.avtpFrame l f) s = .next t ∧ t = { s with st := { s.st with chans := t.st.chans } }
          ∧ mget t.st.chans n = some { c with lastAvtp := some f.seq, input := c.input ++ [{ frame := f, arrival := s.time.toNat, present := presentOf s l f.stamp, gap := gap }] })
        ∧ (32768 < held + f.payload.length → ∃ t, exec (.avtpFrame l f) s = .next t ∧ t = { s with regs := t.regs, ec := t.ec, st := { s.st with chans := t.st.chans } }
          ∧ mget t.st.chans n = some { c with lastAvtp := some f.seq, gap := true } ∧ getReg t (.stChan n) 0 0x054 = (getReg s (.stChan n) 0 0x054 + 1) % 2 ^ 32 ∧ bit (getReg t (.stChan n) 0 0x018) 2 = true)))
    ∧ (s.st.slot ≠ 0 →
      let e := bits (s.st.map.getD (s.st.slot / 4) 0) (8 * (s.st.slot % 4) + 7) (8 * (s.st.slot % 4))
      (bit e 7 = false → exec .streamSlot s = .next { s with st := { s.st with slot := (s.st.slot + 1) % 64 } })
      ∧ ∀ c slot p, bit e 7 = true → mget s.st.chans (bits e 3 0) = some c → c.cur = some slot → c.dead = false → c.closing = false → c.input = [p] → p.taken = 0 → s.mem.queue = [] →
        let n := p.frame.payload.length
        let at_ := if c.kind = 1 then c.ring + slot * c.slotBytes + c.bytes else c.ring + slot * c.slotBytes + p.frame.lineNo * c.pitch + p.frame.pixel
        0 < n → n ≤ 256 → at_ % 64 + n ≤ 64 → quietLine s (at_ / 64 * 64) 0 →
        (c.kind = 1 ∧ c.bytes + n < c.height * c.recBytes) ∨ (c.kind = 0 ∧ c.sample = 0 ∧ p.frame.eof = false ∧ p.frame.lineNo < c.height ∧ p.frame.pixel + n ≤ c.width) →
        ∃ t, exec .streamSlot s = .next t ∧ t.st.slot = (s.st.slot + 1) % 64 ∧ Memory.readN t.mem.bytes at_ n = p.frame.payload ∧ (∀ x, x < at_ ∨ at_ + n ≤ x → Memory.read t.mem.bytes x = Memory.read s.mem.bytes x)
          ∧ t.qe = s.qe ∧ (∀ i, i ≠ bits e 3 0 → mget t.st.chans i = mget s.st.chans i) ∧ ∃ d, mget t.st.chans (bits e 3 0) = some d ∧ d.input = [] ∧ d.cur = some slot ∧ d.bytes = (if c.kind = 1 then c.bytes + n else c.bytes))

/-- SPDM on the DOE mailbox (R477 to R479), once the hub is booted and a host is attached on link 0; before that a request reaches nothing. GET_VERSION, GET_CAPABILITIES and NEGOTIATE_ALGORITHMS are answered in their order, the requests of an authenticated connection
after them; a request out of order, in no open session, for a certificate slot other than 0, or for a seventeenth session is answered ERROR, and so is GET_MEASUREMENTS with every other request. KEY_EXCHANGE begins a handshake, FINISH opens its session when it verifies, END_SESSION closes
it. No request changes anything but the responder's state. The order and the error codes are SPDM 1.3's, which the model presumes (log entry 30); the chain of slot 0 is the die's identity certificate and the alias certificate of the boot, shown as its fields' numbers (log entry 102). -/
def Obligations.SpdmRequestsAreAnswered : Prop :=
  ∀ (s : State),
    let reaches := s.hm.stage ≠ 0 ∧ s.gw.detached = false ∧ linkUp s 0 = true
    let answers := fun (name : String) (args : List Nat) (s : State) => ({ s with out := .spdm name args :: s.out } : State)
    let at_ := fun (n : Nat) => { s with sp := { s.sp with negotiated := n } }
    let late := [Instr.spdmGetDigests, .spdmGetCertificate 0 0 64, .spdmChallenge 5, .spdmKeyExchange 1, .spdmFinish 1 true, .spdmKeyUpdate 1, .spdmHeartbeat 1, .spdmEndSession 1]
    let chain := Config.identityCert.map BitVec.toNat ++ s.sp.alias_.fields
    let isOpen := fun (session : Nat) => s.sp.sessions.any (fun x => x.1 = session) = true
    (¬reaches → ∀ i ∈ [Instr.spdmGetVersion, .spdmGetCapabilities, .spdmNegotiateAlgorithms, .spdmUnsupportedRequest 0xE0] ++ late, exec i s = .next s)
    ∧ (reaches →
      exec .spdmGetVersion s = .next (answers "VERSION" [0x13] (at_ 1))
      ∧ (∀ code, exec (.spdmUnsupportedRequest code) s = .next (answers "ERROR" [7, code] s))
      ∧ exec .spdmGetCapabilities s = .next (if s.sp.negotiated < 1 then answers "ERROR" [4, 0] s else answers "CAPABILITIES" [] (at_ 2))
      ∧ exec .spdmNegotiateAlgorithms s = .next (if s.sp.negotiated < 2 then answers "ERROR" [4, 0] s else answers "ALGORITHMS" [] (at_ 3))
      ∧ (s.sp.negotiated < 3 → ∀ i ∈ late, exec i s = .next (answers "ERROR" [4, 0] s))
      ∧ (3 ≤ s.sp.negotiated →
        exec .spdmGetDigests s = .next (answers "DIGESTS" [0, (Config.chainDigest chain).toNat] s)
        ∧ (∀ slot off len, exec (.spdmGetCertificate slot off len) s = .next (if slot = 0 then answers "CERTIFICATE" ([off, len] ++ chain) s else answers "ERROR" [1, 0] s))
        ∧ (∀ nonce, exec (.spdmChallenge nonce) s = .next (answers "CHALLENGE_AUTH" [nonce, s.sp.alias_.key.toNat] s))
        ∧ (∀ reqId, let id := reqId % 2 ^ 16 + 2 ^ 16 * (s.sp.nextSession % 2 ^ 16)
          exec (.spdmKeyExchange reqId) s = .next (if 16 ≤ s.sp.sessions.length + s.sp.handshakes.length then answers "ERROR" [10, 0] s
            else answers "KEY_EXCHANGE_RSP" [id] { s with sp := { s.sp with nextSession := s.sp.nextSession + 1, handshakes := (id, s.sp.nextSession) :: s.sp.handshakes } }))
        ∧ (∀ session ok, let rest := s.sp.handshakes.filter fun y => y.1 ≠ session
          ((∀ x ∈ s.sp.handshakes, x.1 ≠ session) → exec (.spdmFinish session ok) s = .next (answers "ERROR" [2, 0] s))
          ∧ ∀ n, (s.sp.handshakes.find? fun y => y.1 = session) = some (session, n) →
            exec (.spdmFinish session true) s = .next (answers "FINISH_RSP" [session] { s with sp := { s.sp with handshakes := rest, sessions := (session, n) :: s.sp.sessions } })
            ∧ exec (.spdmFinish session false) s = .next (answers "ERROR" [6, 0] { s with sp := { s.sp with handshakes := rest } }))
        ∧ ∀ session,
          (isOpen session → exec (.spdmKeyUpdate session) s = .next (answers "KEY_UPDATE_ACK" [session] s) ∧ exec (.spdmHeartbeat session) s = .next (answers "HEARTBEAT_ACK" [session] s)
            ∧ exec (.spdmEndSession session) s = .next (answers "END_SESSION_ACK" [session] { s with sp := { s.sp with sessions := s.sp.sessions.filter fun x => x.1 ≠ session } }))
          ∧ (¬isOpen session → ∀ i ∈ [Instr.spdmKeyUpdate session, .spdmHeartbeat session, .spdmEndSession session], exec i s = .next (answers "ERROR" [2, 0] s))))

/-- Retags and the teardown of a tenant (R435, R461, R466, R468, R469, R481, R482). GO takes the range and the tag and shows BUSY; a host's retag over an FW page or to an FW tag is refused whole, with code 4. Its pages are retagged in ascending order up to one with an access outstanding; at its end every page of the range has the tag, no other page's has changed, no byte of memory
has, and BUSY and GO are clear. At TEARDOWN_LIMIT the function's commands stop ABORTED. Once they have ended its keys are zeroed, its slots go to QUARANTINE, and its contexts, recipes, windows and translations are gone. When its movers have written all, no line of it is held and no request of it waits, the scrub's end leaves its
hub-SRAM pages zero and tagged 0, its external ranges zero, its quarantined slots FREE, and raises TEARDOWN_DONE. -/
def Obligations.TenantsAreRetaggedAndTornDown : Prop :=
  ∀ (s : State),
    (∀ o v, canWrite s o .sp 0x054 → v < 2 ^ 32 → bit v 8 = true → bit (getReg s .sp 0 0x054) 31 = false → s.sp.retag = none →
      let first := getReg s .sp 0 0x04C % 2 ^ 21
      let n := getReg s .sp 0 0x050 % 2 ^ 22
      let last := Nat.min (first + if n = 0 then 1 else n) (2 ^ 21)
      let bad := isFw o = false ∧ (bit v 6 = true ∨ fwPages s first last ≠ 0)
      (bad → ∃ t, exec (.retag o v) s = .next t ∧ t.sp = s.sp ∧ t.mem = s.mem ∧ t.qe = s.qe ∧ bit (getReg t .sp 0 0x054) 31 = false
        ∧ (bit (getReg s .sp 0 0x024) 31 = false → getReg t .sp 0 0x024 = (2 ^ 31 + 4 * 2 ^ 16 + originCode o) % 2 ^ 32))
      ∧ (¬bad → ∃ t, exec (.retag o v) s = .next t ∧ t.sp = { s.sp with retag := some (first, last, v % 128) } ∧ t.mem = s.mem ∧ t.qe = s.qe
        ∧ getReg t .sp 0 0x054 = 2 ^ 31 + 2 ^ 8 + v % 128))
    ∧ ((s.sp.retag = none → exec .retagDone s = .next s)
      ∧ ∀ lo hi tag, s.sp.retag = some (lo, hi, tag) → hi ≤ 2 ^ 21 →
        (∀ g, lo ≤ g → g < hi → (∃ x ∈ s.mem.queue, x.line / 4096 = g) → (∀ x ∈ s.mem.queue, x.line / 4096 < lo ∨ g ≤ x.line / 4096) →
          ∃ t, exec .retagDone s = .next t ∧ t = { s with mem := { s.mem with tags := t.mem.tags }, sp := { s.sp with retag := some (g, hi, tag) } } ∧ ∀ p, pageTag t p = if lo ≤ p ∧ p < g then tag else pageTag s p)
        ∧ ((∀ x ∈ s.mem.queue, x.line < 4096 * lo ∨ 4096 * hi ≤ x.line) →
        ∃ t, exec .retagDone s = .next t ∧ t = { s with regs := t.regs, mem := { s.mem with tags := t.mem.tags }, sp := { s.sp with retag := none } }
          ∧ (∀ p, pageTag t p = if lo ≤ p ∧ p < hi then tag else pageTag s p) ∧ getReg t .sp 0 0x054 = getReg s .sp 0 0x054 % 128))
    ∧ (∀ f, f < 64 →
      ((∀ x ∈ s.sp.teardowns, x.f ≠ f ∨ x.step ≠ 2) → exec (.teardownLimitExpiry f) s = .next s)
      ∧ ((∃ x ∈ s.sp.teardowns, x.f = f ∧ x.step = 2) → ∃ t, exec (.teardownLimitExpiry f) s = .next t
        ∧ t = { s with sp := { s.sp with teardowns := s.sp.teardowns.map fun x => if x.f = f then { x with step := 3 } else x }, qe := { s.qe with cmds := t.qe.cmds } }
        ∧ ∀ k c, getCmd s k = some c → getCmd t k = some (if c.f = f ∧ c.phase ≠ .finished ∧ c.stop = none ∧ ¬(0x40 ≤ c.op ∧ c.op < 0x50 ∧ 2 ≤ c.stage) then { c with stop := some (stAborted, 0) } else c))
      ∧ ((∀ x ∈ s.sp.teardowns, x.f ≠ f ∨ 4 ≤ x.step) ∨ (∃ p ∈ s.qe.cmds, p.2.f = f ∧ p.2.phase ≠ .finished) → exec (.teardownKeyZero f) s = .next s)
      ∧ ((∃ x ∈ s.sp.teardowns, x.f = f ∧ x.step < 4) → (∀ p ∈ s.qe.cmds, p.2.f = f → p.2.phase = .finished) →
        ∃ t, exec (.teardownKeyZero f) s = .next t ∧ t.mem = s.mem
          ∧ (∀ n x, mget s.sp.slots n = some x → mget t.sp.slots n = some (if x.f = f ∧ x.st = 1 then { x with st := 2, key := 0 } else x))
          ∧ (∃ x ∈ t.sp.teardowns, x.f = f ∧ x.step = 5) ∧ (∀ x ∈ t.sp.teardowns, x.f = f → x.step = 5)
          ∧ (∀ p ∈ t.qe.cmds, p.2.f ≠ f) ∧ (∀ p ∈ t.qe.ctxs, p.2.f ≠ f) ∧ (∀ p ∈ t.qe.recipes, p.2.f ≠ f) ∧ (∀ p ∈ t.hl.inw, p.2.f ≠ f) ∧ (∀ p ∈ t.hl.outw, p.2.f ≠ f) ∧ (∀ x ∈ t.tu.central, x.f ≠ f)
          ∧ (∀ p ∈ s.qe.ctxs, p.2.f ≠ f → p ∈ t.qe.ctxs))
      ∧ ((∀ x ∈ s.sp.teardowns, x.f ≠ f ∨ x.step ≠ 5) → exec (.teardownDone f) s = .next s)
      ∧ ∀ td, (s.sp.teardowns.find? fun x => x.f = f && x.step = 5) = some td → (td.left ≠ 0 → exec (.teardownDone f) s = .next s) ∧ (td.left = 0 → (∀ e ∈ s.qy.filter, td.covers s e.line = false) → (∀ l ∈ s.mem.hostCopies, td.covers s l = false) →
        (∀ x ∈ s.mem.queue, x.tenant ≠ f ∨ x.firmware = true) → (∀ i ∈ s.hl.ins, i.f ≠ f) → (s.mem.tags.map Prod.fst).Nodup →
        ∃ t, exec (.teardownDone f) s = .next t ∧ t.qe = s.qe ∧ t.tu = s.tu
          ∧ (∀ a, a < 0x1FE000000 → (pageTag s (a / 4096) = f → Memory.read t.mem.bytes a = 0 ∧ pageTag t (a / 4096) = 0)
            ∧ (pageTag s (a / 4096) ≠ f → Memory.read t.mem.bytes a = Memory.read s.mem.bytes a ∧ pageTag t (a / 4096) = pageTag s (a / 4096)))
          ∧ (∀ ph, 0x4000000000 ≤ ph → Memory.read t.mem.bytes ph = if inRanges td.exts (dpaAt s ph) then 0 else Memory.read s.mem.bytes ph)
          ∧ (∀ p ∈ t.sp.slots, p.2.f = f → p.2.st ≠ 2) ∧ (∀ x ∈ t.sp.teardowns, x.f ≠ f) ∧ bit (getReg t .sp 0 0x018) 0 = true))

/-- Boot, resets, firmware and flash (R321, R460, R480, R489 to R492, R495 to R499, R509 to R511, R542). BOOT takes slot A, else slot B, else recovery; it releases the cores, keeps the image it read in the island, makes tenant 0's key, records what it did, unlocks debug only for a token and an intact fuse, and gives
no other core a region that holds one of the Keeper's pages (R494). DIE_RESET asks for a reset by its one
value, as a whole-die reset of causes 1 to 5 does: its ramp first, then it leaves Tidegauge, the flash and the fused counter, and the cause. Exit from H4 waits for a hot die and brings the rails up. SVN_COMMIT of the PF raises the fused counter to the image's, or sets ERR. A flash operation goes BUSY and ends with READ filling the buffer, ERASE clearing one sector, PROGRAM writing the buffer, PROTECTED, ALIGN, or DEVICE. A kick restarts the writing core's watchdog, which expires PERIOD later. A
crash resets its core alone, empties its stack and makes its sources pending again; the Keeper's, a failed reload, or too many within a second ask for a reset. A driver's version decides REFUSED. An erased byte reading as 0xFF and the order of PROTECTED and ALIGN are the model's (log entry 40). -/
def Obligations.FirmwareBootsAndResets : Prop :=
  ∀ (s : State),
    let drawn := s.sl.hubW + s.sl.ballast
    let low := Nat.min (getReg s .sl 0 0x070) drawn
    let ramps := fun (t : State) (cause : Nat) => t.sl = if s.sl.ramp = some 1 ∨ s.sl.thermalH4 = true then s.sl else { s.sl with ramp := some 1, rampCause := cause, hubW := low, ballast := drawn - low }
    let flash := fun (t : State) (x : Nat) => mgetD t.hm.flash x 0xFF
    (∀ trngOk hbm lpddr debug,
      (s.hm.stage ≠ 0 ∨ s.sl.power ≠ 6 → exec (.boot trngOk hbm lpddr debug) s = .next s)
      ∧ (s.hm.stage = 0 → s.sl.power = 6 → s.tg.cause < 16 →
        let okA := slotOk s 0
        let run := (okA || slotOk s 0x2000000) && trngOk
        let used := if run then (if okA then 0 else 1) else 2
        ∃ t, exec (.boot trngOk hbm lpddr debug) s = .next t ∧ t.hm.stage = (if run then 2 else 1) ∧ t.hm.slotUsed = used ∧ t.mem.hbmAbsent = !hbm ∧ t.mem.lpddrAbsent = !lpddr ∧ t.sl = { s.sl with mpwr := 15, lpwr := 15 }
          ∧ (∀ x, x < imageBase ∨ imageBase + 4096 + 2 ^ 24 ≤ x → Memory.read t.mem.bytes x = Memory.read s.mem.bytes x)
          ∧ (∀ a, (okA = true ∧ a = 0) ∨ (okA = false ∧ slotOk s 0x2000000 = true ∧ a = 0x2000000) → Memory.readN t.mem.bytes imageBase (4096 + slotSize s a) = slotImage s a)
          ∧ (∀ c, c < 24 → (getCore t c).st = (if run ∨ c = 0 then 0 else 1) ∧ (getCore t c).kicked = 10 * s.tclk) ∧ (trngOk = true → (mget t.sp.slots 0).map (fun x => (x.st, x.bounce, x.f)) = some (1, false, 0)) ∧ (trngOk = false → t.sp.slots = s.sp.slots)
          ∧ bits (getReg t .hm 0 0x044) 31 30 = used ∧ bit (getReg t .hm 0 0x044) 29 = !trngOk ∧ bits (getReg t .hm 0 0x044) 3 0 = s.tg.cause ∧ (okA = true → bits (getReg t .hm 0 0x044) 23 16 = 0)
          ∧ getReg t .sp 0 0x074 = (if debug ∧ s.fuses.debugLock = false then 2 else getReg s .sp 0 0x074) ∧ (∀ x, flash t x = flash s x)
          ∧ t.sp.alias_.svn = s.hm.fusedSvn ∧ (run = false → t.sp.alias_.images = [])
          ∧ (∀ c, c < 24 → (getCore t c).regions.length ≤ 16 ∧ (run = false → (getCore t c).regions = []) ∧ ∀ g ∈ (getCore t c).regions, c ≠ 0 → ∀ k ∈ Config.keeperPages, g.limit < k.1 ∨ k.2 < g.base)))
    ∧ (∀ o v, canWrite s o .hm 0x068 → v < 2 ^ 32 → ∃ t, exec (.dieResetWrite o v) s = .next t ∧ t.qe = s.qe ∧ t.mem = s.mem ∧ (v ≠ 0xA5A5 → t.sl = s.sl) ∧ (v = 0xA5A5 → ramps t 1))
    ∧ (∀ cause, cause ≤ 10 →
      (s.sl.h ≠ 4 → s.sl.power ≠ 6 ∨ cause = 0 ∨ 5 < cause → exec (.wholeDieReset cause) s = .next s)
      ∧ (s.sl.power = 6 → s.sl.h ≠ 4 → 1 ≤ cause → cause ≤ 5 → ¬(s.sl.ramp = some 1 ∧ s.sl.rampCause = cause) →
        (cause = 5 → exec (.wholeDieReset cause) s = exec .keelLockLoss s) ∧ (cause ≠ 5 → ∃ t, exec (.wholeDieReset cause) s = .next t ∧ t = { s with sl := t.sl } ∧ ramps t cause))
      ∧ (s.sl.power = 6 → s.sl.h ≠ 4 → 1 ≤ cause → cause ≤ 5 → s.sl.ramp = some 1 → s.sl.rampCause = cause → ∃ t, exec (.wholeDieReset cause) s = .next t ∧ t.sl.power = (if cause = 5 then 5 else 6) ∧ t.time = 0 ∧ t.tclk = 0 ∧ t.regs = [] ∧ t.mem = State.reset.mem ∧ t.qe = State.reset.qe ∧ t.tu = State.reset.tu
        ∧ t.gm = State.reset.gm ∧ t.ch = State.reset.ch ∧ t.qy = State.reset.qy ∧ t.hl = State.reset.hl ∧ t.st = State.reset.st ∧ t.gw = State.reset.gw ∧ t.ec = State.reset.ec ∧ t.lb = State.reset.lb ∧ t.fuses = s.fuses
        ∧ t.tg = { s.tg with ckpt := false, wake := none, cause := cause } ∧ t.hm.stage = 0 ∧ t.hm.fusedSvn = s.hm.fusedSvn ∧ (∀ x, flash t x = flash s x) ∧ t.sp.slots = [] ∧ t.sp.sessions = [])
      ∧ (s.sl.h = 4 →
        let due := if s.sl.thermalH4 then 6 else 9
        let hot := s.sl.thermalH4 = true ∧ coolEnough s = false
        (cause ≠ due → exec (.wholeDieReset cause) s = .next s)
        ∧ (cause = due → hot → exec (.wholeDieReset cause) s = .next { s with tg := { s.tg with wake := some 0 } })
        ∧ (cause = due → ¬hot → ∃ t, exec (.wholeDieReset cause) s = .next t ∧ t.tg = { s.tg with cause := cause, wake := none } ∧ t.sl.h = 0 ∧ t.mem = s.mem ∧ t.ec = s.ec
          ∧ (ckptTripped s = true → t.sl.power = 8 ∧ t.sl.railEn = s.sl.railEn)
          ∧ (ckptTripped s = false → ∀ j, j < 4 → bit s.sl.railEn j = false → (∀ i, i < j → bit s.sl.railEn i = true) → t.sl.power = j + 1 ∧ t.sl.railEn = s.sl.railEn ||| 2 ^ j ∧ .pin "RAIL_EN" j true ∈ t.out))))
    ∧ (∀ o v, canWrite s o .hm 0x04C → v < 2 ^ 32 → bit v 0 = true → ∃ t, exec (.svnCommit o v) s = .next t ∧ t.hm = (if o.cls = .hostPf then { s.hm with svnBusy := true } else s.hm) ∧ t.qe = s.qe ∧ t.mem = s.mem)
    ∧ ((s.hm.svnBusy = false → exec .svnCommitDone s = .next s)
      ∧ (s.hm.svnBusy = true → ∃ t, exec .svnCommitDone s = .next t ∧ t = { s with regs := t.regs, hm := { s.hm with svnBusy := false, fusedSvn := Nat.max s.hm.fusedSvn s.hm.imageSvn } }
        ∧ getReg t .hm 0 0x04C = (if s.hm.fusedSvn < s.hm.imageSvn then 0 else 2)))
    ∧ (∀ (row : Origin → Nat → Instr) op o v, (row, op) ∈ [(Instr.flashRead, 0), (.flashErase, 1), (.flashProgram, 2)] → canWrite s o .hm 0x064 → v < 2 ^ 32 → bit v 0 = true → bits v 2 1 = op →
      (s.hm.flashOp = none → bit (getReg s .hm 0 0x064) 31 = false → ∃ t, exec (row o v) s = .next t ∧ t.hm = { s.hm with flashOp := some (op, getReg s .hm 0 0x060) } ∧ getReg t .hm 0 0x064 = 2 ^ 31 + 2 * op + 1 ∧ t.qe = s.qe ∧ t.mem = s.mem)
      ∧ (∀ x, s.hm.flashOp = some x → ∃ t, exec (row o v) s = .next t ∧ t.hm = s.hm ∧ t.qe = s.qe ∧ t.mem = s.mem))
    ∧ ((s.hm.flashOp = none → ∀ dev, exec (.flashDone dev) s = .next s)
      ∧ ∀ op a dev, s.hm.flashOp = some (op, a) → op ≤ 2 → a < 2 ^ 26 →
        let own := op ≠ 0 ∧ bootedFrom s a = true
        let odd := op = 2 ∧ a % 2048 ≠ 0
        let err := if own then 1 else if odd then 2 else if dev then 3 else 0
        ∃ t, exec (.flashDone dev) s = .next t ∧ t.hm.flashOp = none ∧ getReg t .hm 0 0x064 = err * 2 ^ 8 + 2 * op ∧ bit (getReg t .hm 0 0x018) 1 = true ∧ t.qe = s.qe ∧ t.mem = s.mem
          ∧ (own ∨ odd ∨ op = 0 → ∀ x, flash t x = flash s x)
          ∧ (err = 0 → op = 0 → ∀ i, i < 512 → getReg t .hm 0 (0x800 + 4 * i) = fld (flashBytes s a 2048) (4 * i) 4)
          ∧ (err = 0 → op = 1 → ∀ x, flash t x = if x / 65536 = a / 65536 then 0xFF else flash s x)
          ∧ (err = 0 → op = 2 → ∀ x, flash t x = if a ≤ x ∧ x < a + 2048 then (flashBuf s).getD (x - a) 0 else flash s x))
    ∧ (∀ o v, canWrite s o .hm 0x05C → v < 2 ^ 32 → ∃ t, exec (.wdogKick o v) s = .next t ∧ t = { s with regs := t.regs, lb := t.lb, ec := t.ec, hm := { s.hm with cores := t.hm.cores } }
      ∧ ∀ c, getCore t c = if originCore o = some c then { getCore s c with kicked := 10 * s.tclk } else getCore s c)
    ∧ (∀ c, c < 24 → 10 * s.tclk < (getCore s c).kicked + wdogPeriod s ∨ 2 ≤ s.sl.h → exec (.watchdogExpiry c) s = .next s)
    ∧ (∀ c cause (i : Instr), c < 24 → (i = .watchdogExpiry c ∧ cause = 1 ∧ (getCore s c).kicked + wdogPeriod s ≤ 10 * s.tclk ∧ s.sl.h < 2) ∨ (i = .coreCrash c cause ∧ 2 ≤ cause ∧ cause ≤ 4) → s.sl.power = 6 →
      ((getCore s c).st ≠ 0 → exec i s = .next s)
      ∧ ((getCore s c).st = 0 → (8 ≤ c → s.ch.runs = []) →
        let recent := 10 * s.tclk :: (getCore s c).recent.filter fun t => 10 * s.tclk < t + 1000000000
        let limit := if bits (getReg s .hm 0 0x058) 19 16 = 0 then 1 else bits (getReg s .hm 0 0x058) 19 16
        ∃ t, exec i s = .next t ∧ t.mem = s.mem ∧ bit (getReg t .hm 0 0x018) 0 = true ∧ (getCore t c).st = 1 ∧ (getCore t c).cause = cause ∧ (getCore t c).crashes = ((getCore s c).crashes + 1) % 2 ^ 16 ∧ (getCore t c).regions = []
          ∧ (∀ j, j ≠ c → getCore t j = getCore s j)
          ∧ (c = 0 → ramps t 2) ∧ (c ≠ 0 → (getCore t c).stack = [] ∧ (getCore t c).run = 64 ∧ (∀ n ∈ (getCore s c).inService, n ∈ t.ec.pend)
            ∧ (recent.length < limit → t.sl = s.sl) ∧ (limit ≤ recent.length → ramps t 4))))
    ∧ (∀ c ok, c < 24 →
      (c = 0 ∨ (getCore s c).st = 0 → exec (.coreReload c ok) s = .next s)
      ∧ (c ≠ 0 → (getCore s c).st ≠ 0 → s.hm.stage = 2 → s.tg.ckpt = false → s.sl.power = 6 → s.sl.h < 2 →
        ∃ t, exec (.coreReload c ok) s = .next t ∧ (∀ j, j ≠ c → getCore t j = getCore s j) ∧ t.qe = s.qe ∧ t.mem = s.mem
          ∧ (ok = true → getCore t c = { getCore s c with st := 0, kicked := 10 * s.tclk, regions := regionsOf (slotImage s (0x2000000 * s.hm.slotUsed)) c } ∧ t.sl = s.sl) ∧ (ok = false → getCore t c = { getCore s c with cause := 5 } ∧ ramps t 3)))
    ∧ (∀ o f v, f < 64 → canWrite s o (.hmFn f) 0x040 → v < 2 ^ 32 →
      let major := bits (getReg s .hm 0 0x040) 31 24
      let differs := fun (x : Nat) => bits x 31 24 ≠ major
      let pf := getReg s (.hmFn 0) 0 0x040
      let refused := (bit v 0 = false ∨ differs v) ∨ (f ≠ 0 ∧ bit pf 0 = true ∧ differs pf)
      ∃ t, exec (.fIfaceWrite o f v) s = .next t ∧ getReg t (.hmFn f) 0 0x040 = v &&& 0xFFFF0001 ∧ t.qe = s.qe ∧ t.mem = s.mem
        ∧ (refused → getReg t (.hmFn f) 0 0x044 = 1) ∧ (¬refused → getReg t (.hmFn f) 0 0x044 = 0))

/-- Partner trace and the event controller (R500 to R504, R508, R512). Enabling the trace ring tags its pages FW, unless it overlaps the retention island; disabling it zeroes its pages and tags them tenant 0; the reader's HEAD moves without a Logbook entry. A message of a source that is not pending makes it pending;
of one that is, counts as coalesced; beyond RATE within a millisecond the source is masked and STORM is raised, once for a source that stays masked (the model's choice, log entry 80). Delivery takes, of the sources eligible for the core, the one of lowest PRIO and then of lowest number, clears it, masks it when ONESHOT is set, pushes the running priority, and drives VBASE + 32 × VECTOR;
with none eligible nothing happens. An EOI pops the writer's stack; with an empty stack it is counted and EOI_BAD is raised. -/
def Obligations.TraceRingsAndEvents : Prop :=
  ∀ (s : State),
    (∀ o v, canWrite s o .hm 0x06C → v < 2 ^ 32 →
      let lo := getReg s .hm 0 0x070 % 2 ^ 21
      let pages := fun (cfg : Nat) => 2 ^ Nat.max 16 (Nat.min 24 (cfg % 32)) / 4096
      (bit v 31 = true → bit (getReg s .hm 0 0x06C) 31 = false →
        (lo + pages v ≤ 0x1FC000 → ∃ t, exec (.traceEnable o v) s = .next t ∧ bit (getReg t .hm 0 0x06C) 31 = true ∧ t.mem = { s.mem with tags := t.mem.tags } ∧ t.qe = s.qe
          ∧ ∀ p, pageTag t p = if lo ≤ p ∧ p < lo + pages v then 64 else pageTag s p)
        ∧ (0x1FC000 < lo + pages v → ∃ t, exec (.traceEnable o v) s = .next t ∧ bit (getReg t .hm 0 0x06C) 31 = false ∧ t.mem = s.mem ∧ t.qe = s.qe))
      ∧ (bit v 31 = false → bit (getReg s .hm 0 0x06C) 31 = true → lo + pages (getReg s .hm 0 0x06C) ≤ 0x1FC000 →
        let inside := fun (a : Nat) => lo ≤ a / 4096 ∧ a / 4096 < lo + pages (getReg s .hm 0 0x06C)
        ∃ t, exec (.traceDisable o v) s = .next t ∧ bit (getReg t .hm 0 0x06C) 31 = false ∧ t.qe = s.qe
          ∧ ∀ a, (inside a → Memory.read t.mem.bytes a = 0 ∧ pageTag t (a / 4096) = 0) ∧ (¬inside a → Memory.read t.mem.bytes a = Memory.read s.mem.bytes a ∧ pageTag t (a / 4096) = pageTag s (a / 4096))))
    ∧ (∀ o v, canWrite s o .hm 0x074 → v < 2 ^ 32 → ∃ t, exec (.traceHeadWrite o v) s = .next t ∧ t = { s with regs := t.regs } ∧ getReg t .hm 0 0x074 = v % 2 ^ 24)
    ∧ (∀ o v, canWrite s o .ec 0x040 → v < 2 ^ 32 →
      let n := v % 2 ^ 16
      let cnt := mgetD s.ec.storm n 0 + 1
      let rate := bits (getReg s .ec 0 0x050) 15 0
      let calm := rate = 0 ∨ cnt ≤ rate ∨ (cnt ≠ rate + 1 ∧ n ∉ s.ec.unmasked)
      ∃ t, exec (.ecDoorbell o v) s = .next t ∧ n ∈ t.ec.pend ∧ (∀ m ∈ s.ec.pend, m ∈ t.ec.pend) ∧ t.qe = s.qe ∧ t.mem = s.mem ∧ t.hm = s.hm
        ∧ (calm → t.ec.unmasked = s.ec.unmasked ∧ t.ec.pend = (if n ∈ s.ec.pend then s.ec.pend else n :: s.ec.pend)
          ∧ getReg t .ec 0 0x054 = (if n ∈ s.ec.pend then (getReg s .ec 0 0x054 + 1) % 2 ^ 32 else getReg s .ec 0 0x054))
        ∧ (¬calm → s.ec.unmasked.Nodup → n ∉ t.ec.unmasked ∧ bit (getReg t .ec 0 0x018) 0 = true))
    ∧ (∀ c, c < 24 → (getCore s c).st = 0 → s.sl.h < 2 → s.sl.power = 6 →
      ((∀ n ∈ s.ec.pend, srcEligible s c n = false) → exec (.ecDeliver c) s = .next s)
      ∧ ∀ n, n ∈ s.ec.pend → srcEligible s c n = true → (∀ m ∈ s.ec.pend, srcEligible s c m = true → srcPrio s n < srcPrio s m ∨ srcPrio s n = srcPrio s m ∧ n ≤ m) →
        let cfg := srcCfg s n
        let be := getCore s c
        ∃ t, exec (.ecDeliver c) s = .next t ∧ t = { s with ec := t.ec, hm := { s.hm with cores := t.hm.cores }, out := .vector c ((getReg s .hm 0 (0x100 + 4 * c) / 32 * 32 + 32 * (cfg % 4096)) % 2 ^ 32) :: s.out }
          ∧ t.ec = { s.ec with pend := s.ec.pend.filter (· ≠ n), unmasked := if bit cfg 30 then s.ec.unmasked.filter (· ≠ n) else s.ec.unmasked }
          ∧ getCore t c = { be with stack := be.run :: be.stack, inService := n :: be.inService, run := bits cfg 29 24 } ∧ ∀ j, j ≠ c → getCore t j = getCore s j)
    ∧ (∀ o c v, canWrite s o .ec 0x044 → v < 2 ^ 32 → originCore o = some c →
      (∀ r rest, (getCore s c).stack = r :: rest → ∃ t, exec (.eoi o v) s = .next t ∧ getCore t c = { getCore s c with run := r, stack := rest, inService := (getCore s c).inService.drop 1 }
        ∧ (∀ j, j ≠ c → getCore t j = getCore s j) ∧ t.ec = s.ec ∧ t.qe = s.qe ∧ t.mem = s.mem)
      ∧ ((getCore s c).stack = [] → ∃ t, exec (.eoi o v) s = .next t ∧ t.hm = s.hm ∧ t.qe = s.qe ∧ t.mem = s.mem ∧ getReg t .ec 0 0x05C = (getReg s .ec 0 0x05C + 1) % 2 ^ 32 ∧ bit (getReg t .ec 0 0x018) 1 = true))

/-- Rails, clocks, supplies, ramps and the governor (R17, R406, R449, R469, R507, R516, R518 to R524, R526 to R531, R541, R542). VIN_AON brings Tidegauge up afresh, drives the fused VID and asserts the first rail; each RAIL_PG the next; after the last the Keel locks, the die reset is released and berths cut off show their departure. A rail that stays low takes all down with cause RAIL and FAULT; a Keel that loses lock
asks for a reset with cause CLOCK, or gives one on its way that cause. A ramp replaces running work with ballast. STAGGER_ENABLE asserts the next supply no sooner than SL.STAGGER. A finished ramp does what it was for. When the main rails fail in D3cold the hub sleeps in H4, or is Off without PME_En; else the next power-up records BROWNOUT_CKPT or BROWNOUT_LOST. A TCLK edge adds 10 ns, or 9 or 11 under a slew, counts the grants that are due, and lets a retag take six pages. The estimate keeps hub power within every limit, and
ballast holds a fall; a fall beyond it counts once. That a rail failure outside D3cold starts the rails again at once, and the ballast formula, are the model's (log entry 44). -/
def Obligations.RailsClocksAndTheGovernor : Prop :=
  ∀ (s : State),
    let rail := fun (j : Nat) => bit s.sl.railEn j
    let drawn := s.sl.hubW + s.sl.ballast
    let low := Nat.min (getReg s .sl 0 0x070) drawn
    let ramped := fun (kind cause : Nat) => { s.sl with ramp := some kind, rampCause := cause, hubW := low, ballast := drawn - low }
    let cut := (s.qy.berths.filter fun p => p.2.st ≠ 0 && p.2.st ≠ 5).map fun p => (p.1, ({ depart := 2 } : Berth))
    (s.sl.power ≠ 0 → exec .vinAonApplied s = .next s)
    ∧ (s.sl.power = 0 → ∃ t, exec .vinAonApplied s = .next t ∧ t.tg = State.reset.tg ∧ t.mem = State.reset.mem ∧ t.qe = State.reset.qe ∧ t.sl.power = 1 ∧ t.sl.railEn = 1 ∧ t.out.head? = some (.pin "RAIL_EN" 0 true)
      ∧ ∀ j, j < 4 → .pin "VID" j (bit s.fuses.vid.val j) ∈ t.out)
    ∧ (∃ t, exec .vinAonRemoved s = .next t ∧ t.tg = State.reset.tg ∧ t.mem = State.reset.mem ∧ t.qe = State.reset.qe ∧ t.gw = State.reset.gw ∧ t.sl.power = 0 ∧ t.sl.railEn = 0)
    ∧ (∀ i, i < 4 →
      (s.sl.power ≠ i + 1 → exec (.railPg i) s = .next s ∧ exec (.railPgTimeout i) s = .next s)
      ∧ (s.sl.power = i + 1 →
        (i < 3 → rail (i + 1) = false → exec (.railPg i) s = .next { s with sl := { s.sl with power := i + 2, railEn := s.sl.railEn ||| 2 ^ (i + 1) }, out := .pin "RAIL_EN" (i + 1) true :: s.out })
        ∧ ((∀ j, i < j → j < 4 → rail j = true) → exec (.railPg i) s = .next { s with sl := { s.sl with power := 5 } })
        ∧ ∃ t, exec (.railPgTimeout i) s = .next t ∧ t = { s with sl := { s.sl with power := 7, railEn := 0 }, tg := { s.tg with cause := 10, faultPin := true }, out := t.out }
          ∧ ∀ j, j < 4 → rail j = true → .pin "RAIL_EN" j false ∈ t.out))
    ∧ ((s.sl.power ≠ 5 → exec .keelLock s = .next s) ∧ (s.sl.power = 5 → ∃ t, exec .keelLock s = .next t ∧ t = { s with regs := t.regs, ec := t.ec, out := t.out, sl := { s.sl with power := 6, h := 0, thermalH4 := false } }
        ∧ ((∀ p ∈ s.qy.berths, p.2.depart = 0) → t.regs = s.regs ∧ t.ec = s.ec ∧ t.out = s.out) ∧ ∀ p ∈ s.qy.berths, p.1 < 8 → p.2.depart ≠ 0 → bit (getReg t (.qyBerth p.1) 0 0x018) 1 = true))
    ∧ ((s.sl.power ≠ 6 → exec .keelLockLoss s = .next s)
      ∧ (s.sl.power = 6 → ∃ t, exec .keelLockLoss s = .next t ∧ t = { s with sl := if s.sl.ramp = some 1 then { s.sl with rampCause := 5 } else ramped 1 5, tg := { s.tg with faultPin := true }, out := t.out }))
    ∧ (let gap := Nat.max 10 (bits (getReg s .sl 0 0x05C) 15 0) * 1000
      let early := ∃ x, s.qy.staggerLast = some x ∧ 10 * s.tclk < x + gap
      let stamped := { s.qy with staggerLast := some (10 * s.tclk) }
      let up := fun (v : Nat) => ∀ j, j < 4 → bit v j = true
      let first := fun (v i : Nat) => i < 4 ∧ bit v i = false ∧ ∀ j, j < i → bit v j = true
      (s.sl.power ≠ 6 ∨ early → exec .staggerEnable s = .next s)
      ∧ (s.sl.power = 6 → ¬early →
        (∀ i, first s.sl.mpwr i → exec .staggerEnable s = .next { s with qy := stamped, sl := { s.sl with mpwr := s.sl.mpwr ||| 2 ^ i }, out := .pin "MPWR_EN" i true :: s.out })
        ∧ (∀ i, up s.sl.mpwr → first s.sl.lpwr i → exec .staggerEnable s = .next { s with qy := stamped, sl := { s.sl with lpwr := s.sl.lpwr ||| 2 ^ i }, out := .pin "LPWR_EN" i true :: s.out })
        ∧ (up s.sl.mpwr → up s.sl.lpwr →
          let waits := fun (b : Nat) => berthEn s b = true ∧ (getBerth s b).powered = false
          ((∀ b, b < 8 → ¬waits b) → exec .staggerEnable s = .next s)
          ∧ ∀ b, b < 8 → waits b → (∀ j, j < b → ¬waits j) → ∃ t, exec .staggerEnable s = .next t ∧ t = { s with qy := { stamped with berths := t.qy.berths }, out := .pin "BPWR_EN" b true :: s.out }
            ∧ getBerth t b = { getBerth s b with powered := true, counted := bits (getReg s .sl 0 0x06C) 9 0 } ∧ ∀ j, j ≠ b → getBerth t j = getBerth s j)))
    ∧ ((s.sl.ramp = none → exec .rampDone s = .next s)
      ∧ (s.sl.ramp = some 1 → ∃ t, exec .rampDone s = .next t ∧ t.mem = State.reset.mem ∧ t.qe = State.reset.qe ∧ t.hm.stage = 0 ∧ t.tg = { s.tg with ckpt := false, wake := none, cause := s.sl.rampCause } ∧ t.sl.ramp = none
        ∧ t.sl.power = if s.sl.rampCause = 5 then 5 else 6)
      ∧ (∀ h, s.sl.ramp = some h → h = 2 ∨ h = 3 → ∃ t, exec .rampDone s = .next t ∧ t = { s with regs := t.regs, sl := { s.sl with h := h, ramp := none, hubW := getReg s .sl 0 0x070, ballast := 0 }, ch := { s.ch with engines := [] }, tu := { s.tu with region := [], central := [], ahead := [], plans := [] } }
        ∧ getReg t .sl 0 0x044 / 2 ^ 16 = (getReg s .sl 0 0x044 / 2 ^ 16 + 1) % 2 ^ 16)
      ∧ (s.sl.ramp = some 4 → ∃ t, exec .rampDone s = .next t ∧ t.sl.h = 4 ∧ t.sl.power = 8 ∧ t.mem = State.reset.mem ∧ t.qe = State.reset.qe ∧ t.ec.pend = s.ec.pend ∧ t.ec.unmasked = s.ec.unmasked ∧ t.ec.cfg = s.ec.cfg ∧ t.gw.fns = s.gw.fns
        ∧ (∀ c x, mget s.hm.cores c = some x → mget t.hm.cores c = some { stack := x.stack, inService := x.inService, run := x.run })
        ∧ t.sl.railEn = s.sl.railEn &&& (if s.gw.perst && s.gw.cold then 0 else 9))
      ∧ (s.sl.ramp = some 5 → exec .rampDone s = .next { s with sl := { s.sl with ramp := none, hubW := getReg s .sl 0 0x070, ballast := 0 } }))
    ∧ ((s.sl.power = 0 ∨ s.sl.power = 7 ∨ (s.sl.power = 8 ∧ s.sl.railEn = 0) → exec .mainRailsFail s = .next s)
      ∧ ((1 ≤ s.sl.power ∧ s.sl.power ≤ 6) ∨ (s.sl.power = 8 ∧ s.sl.railEn ≠ 0) →
        let cold := s.gw.perst = true ∧ s.gw.cold = true
        (cold → (fnCfg s 0).pmeEn = true → ∃ t, exec .mainRailsFail s = .next t ∧ t.sl.h = 4 ∧ t.sl.power = 8 ∧ t.sl.railEn = 0 ∧ t.mem = State.reset.mem ∧ t.gw.links = [] ∧ t.ec.pend = s.ec.pend ∧ t.qy.berths = cut ∧ armedD3cold t = true)
        ∧ (cold → (fnCfg s 0).pmeEn = false → exec .mainRailsFail s = exec .vinAonRemoved s)
        ∧ (¬cold → s.sl.h = 4 → ∃ t, exec .mainRailsFail s = .next t ∧ t = { s with sl := { s.sl with railEn := 0 }, gw := { s.gw with links := [] }, out := t.out })
        ∧ (¬cold → s.sl.h ≠ 4 → ∃ t, exec .mainRailsFail s = .next t ∧ t.tg = { s.tg with ckpt := false, wake := none, cause := if s.tg.ckptDone then 7 else 8 } ∧ t.mem = State.reset.mem ∧ t.qe = State.reset.qe ∧ t.qy.berths = cut
          ∧ (ckptTripped s = true → t.sl.power = 8 ∧ t.sl.railEn = 0) ∧ (ckptTripped s = false → t.sl.power = 1 ∧ t.sl.railEn = 1))))
    ∧ ((s.sl.power ≠ 6 → exec .tclkEdge s = .next s)
      ∧ (s.sl.power = 6 → (∀ x ∈ s.sp.teardowns, x.left = 0) →
        let slewed := (s.tclk + 1) % 100 = 0 ∧ s.hl.slewLeft ≠ 0
        let step := if slewed then (if s.hl.slew < 0 then 9 else 11) else 10
        ∃ t, exec .tclkEdge s = .next t ∧ t.tclk = s.tclk + 1 ∧ t.time = s.time + BitVec.ofNat 64 step ∧ t.mem.bytes = s.mem.bytes ∧ t.qe = s.qe ∧ t.lb = s.lb
          ∧ (s.sp.retag = none → t.mem = s.mem) ∧ (s.sp.retag = none → ¬slewed ∨ s.hl.slewLeft ≠ 1 ∨ (∀ b, b < 8 → (getBerth s b).st ≠ 3) → t.regs = s.regs)
          ∧ (slewed → t.hl = { s.hl with slewLeft := s.hl.slewLeft - 1 }) ∧ (¬slewed → t.hl = s.hl ∧ t.out = s.out)
          ∧ (s.time.toNat / 1000000 = (s.time.toNat + step) / 1000000 → t.ec = s.ec ∧ t.latched = s.latched) ∧ (s.time.toNat / 1000000 ≠ (s.time.toNat + step) / 1000000 → t.ec = { s.ec with storm := [] })
          ∧ (∀ lo hi tag, s.mem.queue = [] → s.sp.retag = some (lo, hi, tag) → lo < hi → t.sp.retag = (if lo + 6 < hi then some (lo + 6, hi, tag) else none) ∧ ∀ p, pageTag t p = if lo ≤ p ∧ p < Nat.min hi (lo + 6) then tag else pageTag s p)
          ∧ (∀ b x t0 w, ¬slewed → mget s.qy.berths b = some x → x.rises = [(t0, w)] → t0 ≤ t.time.toNat → mget t.qy.berths b = some { x with counted := w, rises := [] })))
    ∧ ((s.sl.power ≠ 6 → ∀ want hi lo, exec (.powerEstimate want hi lo) s = .next s)
      ∧ (∀ want hi lo, s.sl.power = 6 →
        let others := berthsCounted s
        let strict := bit (getReg s .sl 0 0x074) 0
        let limits := fun (w : Nat) => w ≤ want ∧ w ≤ pCap s ∧ w ≤ pkgCap s - others ∧ w ≤ lo + pStep s - others ∧ (s.tg.hot ≠ [] → w ≤ pCap s / 2) ∧ (strict = true → w ≤ getReg s .sl 0 0x070 + ballastMax s + pStep s) ∧ ∀ p ∈ s.tg.throttles, w ≤ p.2
        ∃ t, exec (.powerEstimate want hi lo) s = .next t ∧ limits t.sl.hubW ∧ (∀ w, limits w → w ≤ t.sl.hubW) ∧ t.sl.pkgLo = lo ∧ t.mem = s.mem ∧ t.qe = s.qe
          ∧ t.sl.ballast = Nat.min (hi - pStep s - (t.sl.hubW + others)) (ballastMax s)
          ∧ (t.sl.hubW < want → s.sl.throttledAt ≠ some (10 * s.tclk / 100000) → getReg t .sl 0 0x078 = (getReg s .sl 0 0x078 + 1) % 2 ^ 32 ∧ bit (getReg t .sl 0 0x018) 2 = true)
          ∧ let falls := strict = false ∧ t.sl.ballast < hi - pStep s - (t.sl.hubW + others)
            (falls → s.sl.falling = false → getReg t .sl 0 0x07C = (getReg s .sl 0 0x07C + 1) % 2 ^ 32 ∧ bit (getReg t .sl 0 0x018) 0 = true)
            ∧ (¬falls ∨ s.sl.falling = true → getReg t .sl 0 0x07C = getReg s .sl 0 0x07C) ∧ (t.sl.falling = true ↔ falls)))

/-- Tidegauge's inputs and rules (R175, R450, R523, R534 to R541, R543, R545, R546), where at most rule i is enabled. A sample passes through its channel's filter. A rule trips after PERSIST values beyond its threshold, acts once, and re-arms beyond its hysteresis: LOG records only, WAKE returns the hub to its target, THROTTLE caps hub power, CHECKPOINT stops
I/O commands (an atomic already issued ends with its result, R175) and starts its ramp, FAULT asserts the pin; every action but LOG raises RULE. A region sensor throttles and trips at its grade's temperatures. An EVENT rule trips on each edge of a digital input; that of PERST#'s end releases WAKE#, and signal detect counts on an enabled Hawser link only. CHECKPOINT_DONE reaches H3 with hub SRAM kept, once nothing is outstanding, and the re-armed rule ends it; hub SRAM that an ordinary H3 had lost before is lost. Writing FAULT releases the pin. Tidegauge's time
counting channel 0's samples is the model's choice (log entry 45). -/
def Obligations.TidegaugeRulesAct : Prop :=
  ∀ (s : State) (i : Nat), i < 32 → (∀ j, j < 32 → j ≠ i → bit (ruleCfg s j) 31 = false) →
    let cfg := ruleCfg s i
    let action := bits cfg 21 19
    let drawn := s.sl.hubW + s.sl.ballast
    let low := Nat.min (getReg s .sl 0 0x070) drawn
    let ramped := fun (kind : Nat) => { s.sl with ramp := some kind, hubW := low, ballast := drawn - low }
    let us := fun (ch : Nat) => if ch = 0 then s.tg.us + 10 else s.tg.us
    let hit := fun (t : State) (now v : Nat) => ruleSt t i = { tripped := true, run := 0 } ∧ t.tg.last = i ∧ mget t.tg.log s.tg.next = some ⟨now, i, action, v⟩ ∧ t.tg.next = (s.tg.next + 1) % 64 ∧ t.mem = s.mem
      ∧ (action = 0 → t = { s with tg := t.tg } ∧ t.tg.regs = s.tg.regs) ∧ (action ≠ 0 → bit (getReg t .tg 0 0x018) 0 = true)
      ∧ (action = 1 → s.sl.ramp = none → s.tg.ckpt = false → armedD3cold s = false → bits cfg 18 16 < 4 → t.sl = { s.sl with h := Nat.min s.sl.h (bits cfg 18 16), ckptH3 := t.sl.ckptH3, sramGone := t.sl.sramGone })
      ∧ (action = 2 → mget t.tg.throttles i = some (getReg s .tg i 0x05C % 1024) ∧ t.sl = s.sl)
      ∧ (action = 3 → s.tg.ckpt = false → t.tg.ckpt = true ∧ bit (getReg t .tg 0 0x018) 1 = true ∧ (s.sl.ramp ≠ some 1 → s.sl.thermalH4 = false → t.sl = ramped 5)
        ∧ ∀ k c, getCmd s k = some c → getCmd t k = some (if 64 ≤ c.sq ∧ c.phase = .running ∧ c.stop = none ∧ ¬(0x40 ≤ c.op ∧ c.op < 0x50 ∧ 2 ≤ c.stage) then { c with stop := some (stAborted, 0) } else c))
      ∧ (action = 4 → t.tg.faultPin = true ∧ t.sl = s.sl)
    let quiet := bit cfg 31 = false
    (∀ ch v, ch < 19 → v < 4096 →
      (s.sl.power = 0 → exec (.adcSample ch v) s = .next s)
      ∧ (s.sl.power = 6 →
        let c := mgetD s.tg.chans ch {}
        let f := getReg s .tg ch 0x048
        let five := (v :: c.last).take 5
        let plain := bit f 3 = false ∧ bit f 4 = false
        (ch < 3 → quiet → ∃ t, exec (.adcSample ch v) s = .next t ∧ t = { s with tg := { s.tg with chans := t.tg.chans, us := us ch } } ∧
          let d := mgetD t.tg.chans ch {}
          d.raw = v ∧ d.last = five ∧ (plain → d.out = v)
          ∧ (bit f 3 = false → bit f 4 = true → 4 ≤ c.last.length → (∀ x ∈ c.last, x < 4096) → d.out ∈ five ∧ (five.filter (· < d.out)).length ≤ 2 ∧ (five.filter (d.out < ·)).length ≤ 2)
          ∧ (bit f 3 = true → bit f 4 = false → d.y = some (match c.y with | some y => y + (v - y) / 2 ^ bits f 2 0 | none => v) ∧ ∀ y, d.y = some y → d.out = y.toNat % 4096))
        ∧ (3 ≤ ch → quiet → plain → s.tg.wake = none → ∃ t, exec (.adcSample ch v) s = .next t ∧ t.mem = s.mem ∧ t.qe = s.qe
          ∧ ((if s.fuses.vehicle then 2704 else 2544) ≤ v → ch ∈ t.tg.hot) ∧ (v + 80 ≤ (if s.fuses.vehicle then 2704 else 2544) → ch ∉ t.tg.hot)
          ∧ ((if s.fuses.vehicle then 2944 else 2784) ≤ v → s.sl.thermalH4 = false → t.tg.faultPin = true ∧ t.sl = { ramped 4 with thermalH4 := true })
          ∧ (v < (if s.fuses.vehicle then 2944 else 2784) → t.sl = s.sl))
        ∧ (∀ cmp, ch < 3 → plain → bit cfg 31 = true → bits cfg 29 24 = ch → bit cfg s.sl.h = true → s.sl.h ≤ 2 → bits cfg 23 22 = cmp → cmp < 2 →
          let r := ruleSt s i
          let thr := ruleThr s i
          let beyond := if cmp = 0 then thr < v else v < thr
          let back := if cmp = 0 then v + ruleHyst s i < thr else thr + ruleHyst s i < v
          let need := if bits cfg 15 8 = 0 then 1 else bits cfg 15 8
          let only := fun (t : State) (x : RuleSt) => t = { s with tg := { s.tg with chans := t.tg.chans, us := us ch, rules := t.tg.rules } } ∧ ruleSt t i = x
          (r.tripped = false →
            (¬beyond → ∃ t, exec (.adcSample ch v) s = .next t ∧ only t {})
            ∧ (beyond → r.run + 1 < need → ∃ t, exec (.adcSample ch v) s = .next t ∧ only t { r with run := r.run + 1 })
            ∧ (beyond → need ≤ r.run + 1 → ∃ t, exec (.adcSample ch v) s = .next t ∧ hit t (us ch) v))
          ∧ (r.tripped = true →
            (¬back → ∃ t, exec (.adcSample ch v) s = .next t ∧ only t r)
            ∧ (back → s.sl.ckptH3 = false → ∃ t, exec (.adcSample ch v) s = .next t ∧ ruleSt t i = {} ∧ mget t.tg.throttles i = none ∧ t.sl = s.sl ∧ t.mem = s.mem)))
        ∧ (s.sl.h = 3 → s.sl.ckptH3 = true → ch < 3 → plain → bit cfg 31 = true → bits cfg 29 24 = ch → bit cfg 3 = true → bits cfg 23 22 = 1 → (ruleSt s i).tripped = true → ruleThr s i + ruleHyst s i < v →
          ∃ t, exec (.adcSample ch v) s = .next t ∧ ruleSt t i = {} ∧ t.tg.ckpt = false ∧ t.sl = { s.sl with h := 0, ckptH3 := false, sramGone := false } ∧ t.qe = s.qe
            ∧ (s.sl.sramGone = false → t.mem = s.mem) ∧ (s.sl.sramGone = true → ∀ a, a < 0x1FC000000 → Memory.read t.mem.bytes a = 0))))
    ∧ (∀ n, 32 ≤ n → n < 36 →
      (s.sl.power = 0 ∨ (n = 35 ∧ ∀ l, l < 48 → linkEn s l = false) ∨ (quiet ∧ ¬(n = 34 ∧ s.gw.perst = true)) → exec (.tgDigitalInput n) s = .next s)
      ∧ (s.sl.power ≠ 0 → quiet → n = 34 → s.gw.perst = true → ∃ t, exec (.tgDigitalInput n) s = .next t ∧ t = { s with gw := { s.gw with perst := false, cold := false, wakePin := false }, out := (if s.gw.wakePin then [.pin "WAKE_N" 0 true] else []) ++ s.out })
      ∧ (s.sl.power = 6 → (n = 35 → ∃ l, l < 48 ∧ linkEn s l = true) → bit cfg 31 = true → bits cfg 29 24 = n → bit cfg s.sl.h = true → s.sl.h ≤ 2 → bits cfg 23 22 = 2 →
        ∃ t, exec (.tgDigitalInput n) s = .next t ∧ t.tg.last = i ∧ mget t.tg.log s.tg.next = some ⟨s.tg.us, i, action, 1⟩ ∧ t.mem = s.mem ∧ (action = 4 → t.tg.faultPin = true)
          ∧ (action = 2 → mget t.tg.throttles i = some (getReg s .tg i 0x05C % 1024)) ∧ (action ≠ 0 → bit (getReg t .tg 0 0x018) 0 = true)))
    ∧ (let open_ := (∃ p ∈ s.qe.cmds, 64 ≤ p.2.sq ∧ (p.2.phase = .running ∨ (p.2.phase = .finished ∧ p.2.held = false))) ∨ requestsOut s = true
      (s.tg.ckpt = false ∨ s.sl.ckptH3 = true ∨ s.sl.ramp ≠ none ∨ s.sl.power ≠ 6 ∨ open_ → exec .checkpointDone s = .next s)
      ∧ (s.tg.ckpt = true → s.sl.ckptH3 = false → s.sl.ramp = none → s.sl.power = 6 → ¬open_ →
        ∃ t, exec .checkpointDone s = .next t ∧ t.tg.ckptDone = true ∧ (ckptTripped s = true ∨ s.sl.h ≠ 3 → t.mem = s.mem) ∧ t.qe = s.qe
          ∧ (ckptTripped s = true → t.sl = { s.sl with h := 3, ramp := none, hubW := getReg s .sl 0 0x070, ballast := 0, ckptH3 := true, sramGone := s.sl.h = 3 } ∧ t.tg.ckpt = true) ∧ (ckptTripped s = false → t.sl.h = 0 ∧ t.sl.ckptH3 = false ∧ t.tg.ckpt = false)))
    ∧ (∀ o v, canWrite s o .tg 0x040 → v < 2 ^ 32 → bit v 31 = true → ∃ t, exec (.faultClear o v) s = .next t ∧ t.tg = { s.tg with regs := t.tg.regs, faultPin := false, ckptDone := if bit v 29 then false else s.tg.ckptDone }
      ∧ t.qe = s.qe ∧ t.mem = s.mem ∧ t.out = (if s.tg.faultPin then [.pin "FAULT" 0 false] else []) ++ s.out)

/-- No command changes a fuse (R480: "The fuse cannot be blown or cleared after screening."; the grade, the straps and the fused power values of R4, R429, R518 and R533 stand with it), and none adds to or takes from the queue: a step takes its front command and no other. -/
def Obligations.FusesAndQueueStand : Prop :=
  (∀ (i : Instr) (s t : State), exec i s = .next t → t.fuses = s.fuses ∧ t.pending = s.pending)
  ∧ ∀ s t : State, step s = .next t → t.fuses = s.fuses ∧ t.pending = s.pending.tail

/-- Every step keeps device memory in its canonical form: addresses strictly rising, and no entry that equals what an unlisted byte reads as. So equal memories are equal data. -/
def Obligations.MemoryStaysCanonical : Prop :=
  ∀ s t : State, memoryCanonical s → step s = .next t → memoryCanonical t

/-- State.reset: memory canonical with nothing listed and no tag but zero, no queue, command, context, berth partner, link or Hawser path, nothing pending, global time 0, and the registers whose tables in the spec give a value other than zero at that value. -/
def Obligations.ResetState : Prop :=
  memoryCanonical State.reset ∧ State.reset.mem.bytes = [] ∧ (∀ n, pageTag State.reset n = 0)
  ∧ State.reset.qe.sqs = [] ∧ State.reset.qe.cqs = [] ∧ State.reset.qe.cmds = [] ∧ State.reset.qe.ctxs = [] ∧ State.reset.ec.pend = [] ∧ State.reset.ec.unmasked = []
  ∧ State.reset.time = 0 ∧ State.reset.pending = [] ∧ State.reset.hm.stage = 0
  ∧ (∀ b, (getBerth State.reset b).st = 0) ∧ (∀ l, (getLink State.reset l).st = 0)
  ∧ (let r := getReg State.reset
    r .qe 0 0x040 = 0x408 ∧ r .tu 0 0x040 = 0x64 ∧ r .tu 0 0x044 = 0x1000008 ∧ r .tu 0 0x048 = 0x641000 ∧ r .gm 0 0x04C = 0x40404040 ∧ r .gm 0 0x050 = 0x40404040
    ∧ r .ms 0 0x090 = 0x70700 ∧ r .ms 0 0x094 = 0x44444444 ∧ r .ms 0 0x09C = 0x40020408 ∧ r .ms 0 0x0A0 = 0x600018
    ∧ r .qy 0 0x044 = 10 ∧ r .qy 0 0x050 = 20 ∧ r .qy 0 0x054 = 200 ∧ r .hl 0 0x048 = 20 ∧ r .hl 0 0x04C = 10 ∧ r .hl 0 0x050 = 50
    ∧ (∀ l, l < 4 → r (.hlLink l) 0 0x048 = 10) ∧ r .sp 0 0x058 = 50 ∧ r .sp 0 0x06C = 4 ∧ r .sp 0 0x070 = 32 ∧ r .hm 0 0x058 = 0x30064 ∧ r .ec 0 0x050 = 0x400
    ∧ r .sl 0 0x040 = 0x3203 ∧ r .sl 0 0x04C = 150 ∧ r .sl 0 0x050 = 0x140014 ∧ r .sl 0 0x054 = 0x8000012C ∧ r .sl 0 0x06C = 20
    ∧ ∀ i, i < 32 → ruleCfg State.reset i = 0)
end

