-- ==== Sys2Proof/Laws/Maps.lean ====
section
/-! SUPPORT. The laws of the sparse tables and of memory: read after write, writes elsewhere, and the canonical form, which every
operation of memory keeps. -/

namespace Sys2Proof.Machine

variable {α : Type}

@[simp] theorem mget_nil (k : Nat) : mget ([] : NMap α) k = none := rfl

@[simp] theorem mget_mset_self (m : NMap α) (k : Nat) (v : α) : mget (mset m k v) k = some v := by
  induction m with
  | nil => simp [mset, mget]
  | cons p t ih =>
    obtain ⟨a, w⟩ := p
    simp only [mset]
    split
    · simp [mget]
    · split
      · simp [mget]
      · rename_i h; simp [mget, h, ih]

theorem mget_mset_of_ne (m : NMap α) {j k : Nat} (h : j ≠ k) (v : α) : mget (mset m k v) j = mget m j := by
  induction m with
  | nil => simp [mset, mget, h.symm]
  | cons p t ih =>
    obtain ⟨a, w⟩ := p
    simp only [mset]
    split
    · simp [mget, h.symm]
    · split
      · rename_i e; subst e; simp [mget, h.symm]
      · simp [mget, ih]

theorem mget_mset (m : NMap α) (j k : Nat) (v : α) : mget (mset m k v) j = if j = k then some v else mget m j := by
  by_cases h : j = k
  · subst h; simp
  · simp [h, mget_mset_of_ne m h]

@[simp] theorem mget_mdel_self (m : NMap α) (k : Nat) : mget (mdel m k) k = none := by
  induction m with
  | nil => simp [mdel]
  | cons p t ih =>
    obtain ⟨a, w⟩ := p
    by_cases h : a = k
    · subst h; simpa [mdel] using ih
    · simpa [mdel, h, mget] using ih

theorem mget_mdel_of_ne (m : NMap α) {j k : Nat} (h : j ≠ k) : mget (mdel m k) j = mget m j := by
  induction m with
  | nil => simp [mdel]
  | cons p t ih =>
    obtain ⟨a, w⟩ := p
    by_cases e : a = k
    · subst e; simpa [mdel, mget, h.symm] using ih
    · by_cases e2 : a = j
      · subst e2; simp [mdel, e, mget]
      · simpa [mdel, e, e2, mget] using ih

theorem mget_mdel (m : NMap α) (j k : Nat) : mget (mdel m k) j = if j = k then none else mget m j := by
  by_cases h : j = k
  · subst h; simp
  · simp [h, mget_mdel_of_ne m h]

theorem mget_mupd (m : NMap α) (j k : Nat) (f : α → α) :
    mget (mupd m k f) j = if j = k then (mget m j).map f else mget m j := by
  induction m with
  | nil => simp [mupd]
  | cons p t ih =>
    obtain ⟨a, w⟩ := p
    simp only [mupd, List.map_cons] at ih ⊢
    by_cases e : a = k
    · subst e
      by_cases h : j = a
      · subst h; simp [mget]
      · simpa [mget, Ne.symm h, h] using ih
    · by_cases h : a = j
      · subst h; simp [e, mget]
      · simpa [e, h, mget] using ih

@[simp] theorem mget_mupd_self (m : NMap α) (k : Nat) (f : α → α) : mget (mupd m k f) k = (mget m k).map f := by
  simp [mget_mupd]

@[simp] theorem mhas_mset_self (m : NMap α) (k : Nat) (v : α) : mhas (mset m k v) k = true := by simp [mhas]

@[simp] theorem mgetD_mset_self (m : NMap α) (k : Nat) (v d : α) : mgetD (mset m k v) k d = v := by simp [mgetD]

theorem mgetD_mset_of_ne (m : NMap α) {j k : Nat} (h : j ≠ k) (v d : α) : mgetD (mset m k v) j d = mgetD m j d := by
  simp [mgetD, mget_mset_of_ne m h]

/-! ### The canonical form -/

/-- The keys of a table rise strictly. -/
def Rising (m : NMap α) : Prop := (m.map Prod.fst).Pairwise (· < ·)

theorem keys_mset (m : NMap α) (k : Nat) (v : α) : ∀ x ∈ (mset m k v).map Prod.fst, x = k ∨ x ∈ m.map Prod.fst := by
  induction m with
  | nil => simp [mset]
  | cons p t ih =>
    obtain ⟨a, w⟩ := p
    intro x hx
    simp only [mset] at hx
    split at hx
    · simpa using hx
    · split at hx
      · rename_i e; subst e; simp at hx ⊢; tauto
      · simp only [List.map_cons, List.mem_cons] at hx ⊢
        rcases hx with h | h
        · right; left; exact h
        · rcases ih x h with h | h
          · left; exact h
          · right; right; exact h

theorem Rising.mset {m : NMap α} (h : Rising m) (k : Nat) (v : α) : Rising (mset m k v) := by
  induction m with
  | nil => simp [Machine.mset, Rising]
  | cons p t ih =>
    obtain ⟨a, w⟩ := p
    have ht : Rising t := by simp only [Rising, List.map_cons, List.pairwise_cons] at h; exact h.2
    have ha : ∀ x ∈ t.map Prod.fst, a < x := by simp only [Rising, List.map_cons, List.pairwise_cons] at h; exact h.1
    simp only [Machine.mset]
    split
    · rename_i lt
      simp only [Rising, List.map_cons, List.pairwise_cons, List.mem_cons]
      refine ⟨?_, ha, ht⟩
      rintro x (rfl | hx)
      · exact lt
      · exact lt.trans (ha x hx)
    · split
      · rename_i e; subst e
        simp only [Rising, List.map_cons, List.pairwise_cons]
        exact ⟨ha, ht⟩
      · rename_i nlt ne
        have := ih ht
        simp only [Rising, List.map_cons, List.pairwise_cons] at this ⊢
        refine ⟨?_, this⟩
        intro x hx
        rcases keys_mset t k v x hx with rfl | hx
        · omega
        · exact ha x hx

theorem Rising.filter {m : NMap α} (h : Rising m) (p : Nat × α → Bool) : Rising (m.filter p) := by
  unfold Rising at h ⊢
  rw [List.pairwise_map] at h ⊢
  exact h.filter p

theorem mem_mset (m : NMap α) (k : Nat) (v : α) (c : Nat × α) (h : c ∈ mset m k v) : c = (k, v) ∨ c ∈ m := by
  induction m with
  | nil => left; simpa [mset] using h
  | cons p t ih =>
    obtain ⟨a, w⟩ := p
    simp only [mset] at h
    split at h
    · simpa using h
    · split at h
      · simp only [List.mem_cons] at h ⊢; tauto
      · simp only [List.mem_cons] at h ⊢
        rcases h with h | h
        · right; left; exact h
        · rcases ih h with h | h
          · left; exact h
          · right; right; exact h

/-! ### Memory -/

@[simp] theorem Memory.read_write_self (m : List Host.Cell) (a : Nat) (b : Byte) : Memory.read (Memory.write m a b) a = b := by
  by_cases h : b = Memory.blank
  · simp [Memory.read, Memory.write, mput, h, mgetD]
  · simp [Memory.read, Memory.write, mput, h]

theorem Memory.read_write_of_ne (m : List Host.Cell) {a c : Nat} (h : c ≠ a) (b : Byte) :
    Memory.read (Memory.write m a b) c = Memory.read m c := by
  by_cases e : b = Memory.blank
  · simp [Memory.read, Memory.write, mput, e, mgetD, mget_mdel_of_ne m h]
  · simp [Memory.read, Memory.write, mput, e, mgetD_mset_of_ne m h]

theorem Memory.wf_nil : Memory.wf [] := by simp [Memory.wf]

/-- Writing one byte keeps the canonical form. -/
theorem Memory.wf_write {m : List Host.Cell} (h : Memory.wf m) (a : Nat) (b : Byte) : Memory.wf (Memory.write m a b) := by
  obtain ⟨h1, h2⟩ := h
  unfold Memory.write mput
  split
  · exact ⟨Rising.filter (m := m) h1 _, fun c hc => h2 c (List.mem_of_mem_filter hc)⟩
  · rename_i hb
    refine ⟨Rising.mset (m := m) h1 a b, fun c hc => ?_⟩
    rcases mem_mset m a b c hc with rfl | hc
    · exact hb
    · exact h2 c hc

theorem foldl_keeps {β γ : Type} (P : γ → Prop) (f : γ → β → γ) (l : List β) (s : γ) (h : P s) (hf : ∀ s x, P s → P (f s x)) :
    P (l.foldl f s) := by
  induction l generalizing s with
  | nil => exact h
  | cons x t ih => exact ih (f s x) (hf s x h)

/-- Writing a run of bytes keeps the canonical form. -/
theorem Memory.wf_writeN {m : List Host.Cell} (h : Memory.wf m) (a : Nat) (bs : List Byte) : Memory.wf (Memory.writeN m a bs) :=
  foldl_keeps Memory.wf _ _ m h fun _ _ h => Memory.wf_write h _ _

theorem Memory.read_writes_of_notMem (l : List (Byte × Nat)) (m : List Host.Cell) (a c : Nat) (h : ∀ p ∈ l, c ≠ a + p.2) :
    Memory.read (l.foldl (fun m p => Memory.write m (a + p.2) p.1) m) c = Memory.read m c := by
  induction l generalizing m with
  | nil => rfl
  | cons p t ih =>
    simp only [List.foldl_cons]
    rw [ih _ fun q hq => h q (List.mem_cons_of_mem _ hq), Memory.read_write_of_ne m (h p List.mem_cons_self)]

/-- A run of written bytes leaves every other place alone. -/
theorem Memory.read_writeN_outside (m : List Host.Cell) (a c : Nat) (bs : List Byte) (h : c < a ∨ a + bs.length ≤ c) :
    Memory.read (Memory.writeN m a bs) c = Memory.read m c := by
  refine Memory.read_writes_of_notMem _ m a c ?_
  rintro ⟨b, i⟩ hp
  have : i < bs.length := by
    have := List.mem_zipIdx hp
    omega
  show c ≠ a + i
  omega

end Sys2Proof.Machine
end

