-- ==== Sys2Proof/Laws/State.lean ====
section
/-! SUPPORT. For each shared update of the state, one law per field that it leaves alone, so that no proof unfolds a record
update; and what a read of a register or of a command sees after one. -/

namespace Sys2Proof.Machine

/-! ### emit -/

@[simp] theorem emit_fuses (o : Out) (s : State) : (emit o s).fuses = s.fuses := rfl
@[simp] theorem emit_time (o : Out) (s : State) : (emit o s).time = s.time := rfl
@[simp] theorem emit_tclk (o : Out) (s : State) : (emit o s).tclk = s.tclk := rfl
@[simp] theorem emit_regs (o : Out) (s : State) : (emit o s).regs = s.regs := rfl
@[simp] theorem emit_lastRead (o : Out) (s : State) : (emit o s).lastRead = s.lastRead := rfl
@[simp] theorem emit_latched (o : Out) (s : State) : (emit o s).latched = s.latched := rfl
@[simp] theorem emit_errDpa (o : Out) (s : State) : (emit o s).errDpa = s.errDpa := rfl
@[simp] theorem emit_damaged (o : Out) (s : State) : (emit o s).damaged = s.damaged := rfl
@[simp] theorem emit_lb (o : Out) (s : State) : (emit o s).lb = s.lb := rfl
@[simp] theorem emit_mem (o : Out) (s : State) : (emit o s).mem = s.mem := rfl
@[simp] theorem emit_qe (o : Out) (s : State) : (emit o s).qe = s.qe := rfl
@[simp] theorem emit_tu (o : Out) (s : State) : (emit o s).tu = s.tu := rfl
@[simp] theorem emit_gm (o : Out) (s : State) : (emit o s).gm = s.gm := rfl
@[simp] theorem emit_ch (o : Out) (s : State) : (emit o s).ch = s.ch := rfl
@[simp] theorem emit_qy (o : Out) (s : State) : (emit o s).qy = s.qy := rfl
@[simp] theorem emit_hl (o : Out) (s : State) : (emit o s).hl = s.hl := rfl
@[simp] theorem emit_st (o : Out) (s : State) : (emit o s).st = s.st := rfl
@[simp] theorem emit_gw (o : Out) (s : State) : (emit o s).gw = s.gw := rfl
@[simp] theorem emit_sp (o : Out) (s : State) : (emit o s).sp = s.sp := rfl
@[simp] theorem emit_hm (o : Out) (s : State) : (emit o s).hm = s.hm := rfl
@[simp] theorem emit_ec (o : Out) (s : State) : (emit o s).ec = s.ec := rfl
@[simp] theorem emit_sl (o : Out) (s : State) : (emit o s).sl = s.sl := rfl
@[simp] theorem emit_tg (o : Out) (s : State) : (emit o s).tg = s.tg := rfl
@[simp] theorem emit_fresh (o : Out) (s : State) : (emit o s).fresh = s.fresh := rfl
@[simp] theorem emit_pending (o : Out) (s : State) : (emit o s).pending = s.pending := rfl

/-! ### draw -/

@[simp] theorem draw_fuses (s : State) : ((draw s).2).fuses = s.fuses := rfl
@[simp] theorem draw_time (s : State) : ((draw s).2).time = s.time := rfl
@[simp] theorem draw_tclk (s : State) : ((draw s).2).tclk = s.tclk := rfl
@[simp] theorem draw_regs (s : State) : ((draw s).2).regs = s.regs := rfl
@[simp] theorem draw_lastRead (s : State) : ((draw s).2).lastRead = s.lastRead := rfl
@[simp] theorem draw_latched (s : State) : ((draw s).2).latched = s.latched := rfl
@[simp] theorem draw_errDpa (s : State) : ((draw s).2).errDpa = s.errDpa := rfl
@[simp] theorem draw_damaged (s : State) : ((draw s).2).damaged = s.damaged := rfl
@[simp] theorem draw_lb (s : State) : ((draw s).2).lb = s.lb := rfl
@[simp] theorem draw_mem (s : State) : ((draw s).2).mem = s.mem := rfl
@[simp] theorem draw_qe (s : State) : ((draw s).2).qe = s.qe := rfl
@[simp] theorem draw_tu (s : State) : ((draw s).2).tu = s.tu := rfl
@[simp] theorem draw_gm (s : State) : ((draw s).2).gm = s.gm := rfl
@[simp] theorem draw_ch (s : State) : ((draw s).2).ch = s.ch := rfl
@[simp] theorem draw_qy (s : State) : ((draw s).2).qy = s.qy := rfl
@[simp] theorem draw_hl (s : State) : ((draw s).2).hl = s.hl := rfl
@[simp] theorem draw_st (s : State) : ((draw s).2).st = s.st := rfl
@[simp] theorem draw_gw (s : State) : ((draw s).2).gw = s.gw := rfl
@[simp] theorem draw_sp (s : State) : ((draw s).2).sp = s.sp := rfl
@[simp] theorem draw_hm (s : State) : ((draw s).2).hm = s.hm := rfl
@[simp] theorem draw_ec (s : State) : ((draw s).2).ec = s.ec := rfl
@[simp] theorem draw_sl (s : State) : ((draw s).2).sl = s.sl := rfl
@[simp] theorem draw_tg (s : State) : ((draw s).2).tg = s.tg := rfl
@[simp] theorem draw_out (s : State) : ((draw s).2).out = s.out := rfl
@[simp] theorem draw_pending (s : State) : ((draw s).2).pending = s.pending := rfl

/-! ### setReg -/

@[simp] theorem setReg_fuses (p : Page) (b o v : Nat) (s : State) : (setReg p b o v s).fuses = s.fuses := by unfold setReg; split <;> rfl
@[simp] theorem setReg_time (p : Page) (b o v : Nat) (s : State) : (setReg p b o v s).time = s.time := by unfold setReg; split <;> rfl
@[simp] theorem setReg_tclk (p : Page) (b o v : Nat) (s : State) : (setReg p b o v s).tclk = s.tclk := by unfold setReg; split <;> rfl
@[simp] theorem setReg_lastRead (p : Page) (b o v : Nat) (s : State) : (setReg p b o v s).lastRead = s.lastRead := by unfold setReg; split <;> rfl
@[simp] theorem setReg_latched (p : Page) (b o v : Nat) (s : State) : (setReg p b o v s).latched = s.latched := by unfold setReg; split <;> rfl
@[simp] theorem setReg_errDpa (p : Page) (b o v : Nat) (s : State) : (setReg p b o v s).errDpa = s.errDpa := by unfold setReg; split <;> rfl
@[simp] theorem setReg_damaged (p : Page) (b o v : Nat) (s : State) : (setReg p b o v s).damaged = s.damaged := by unfold setReg; split <;> rfl
@[simp] theorem setReg_lb (p : Page) (b o v : Nat) (s : State) : (setReg p b o v s).lb = s.lb := by unfold setReg; split <;> rfl
@[simp] theorem setReg_mem (p : Page) (b o v : Nat) (s : State) : (setReg p b o v s).mem = s.mem := by unfold setReg; split <;> rfl
@[simp] theorem setReg_qe (p : Page) (b o v : Nat) (s : State) : (setReg p b o v s).qe = s.qe := by unfold setReg; split <;> rfl
@[simp] theorem setReg_tu (p : Page) (b o v : Nat) (s : State) : (setReg p b o v s).tu = s.tu := by unfold setReg; split <;> rfl
@[simp] theorem setReg_gm (p : Page) (b o v : Nat) (s : State) : (setReg p b o v s).gm = s.gm := by unfold setReg; split <;> rfl
@[simp] theorem setReg_ch (p : Page) (b o v : Nat) (s : State) : (setReg p b o v s).ch = s.ch := by unfold setReg; split <;> rfl
@[simp] theorem setReg_qy (p : Page) (b o v : Nat) (s : State) : (setReg p b o v s).qy = s.qy := by unfold setReg; split <;> rfl
@[simp] theorem setReg_hl (p : Page) (b o v : Nat) (s : State) : (setReg p b o v s).hl = s.hl := by unfold setReg; split <;> rfl
@[simp] theorem setReg_st (p : Page) (b o v : Nat) (s : State) : (setReg p b o v s).st = s.st := by unfold setReg; split <;> rfl
@[simp] theorem setReg_gw (p : Page) (b o v : Nat) (s : State) : (setReg p b o v s).gw = s.gw := by unfold setReg; split <;> rfl
@[simp] theorem setReg_sp (p : Page) (b o v : Nat) (s : State) : (setReg p b o v s).sp = s.sp := by unfold setReg; split <;> rfl
@[simp] theorem setReg_hm (p : Page) (b o v : Nat) (s : State) : (setReg p b o v s).hm = s.hm := by unfold setReg; split <;> rfl
@[simp] theorem setReg_ec (p : Page) (b o v : Nat) (s : State) : (setReg p b o v s).ec = s.ec := by unfold setReg; split <;> rfl
@[simp] theorem setReg_sl (p : Page) (b o v : Nat) (s : State) : (setReg p b o v s).sl = s.sl := by unfold setReg; split <;> rfl
@[simp] theorem setReg_out (p : Page) (b o v : Nat) (s : State) : (setReg p b o v s).out = s.out := by unfold setReg; split <;> rfl
@[simp] theorem setReg_fresh (p : Page) (b o v : Nat) (s : State) : (setReg p b o v s).fresh = s.fresh := by unfold setReg; split <;> rfl
@[simp] theorem setReg_pending (p : Page) (b o v : Nat) (s : State) : (setReg p b o v s).pending = s.pending := by unfold setReg; split <;> rfl

/-! ### bump -/

@[simp] theorem bump_fuses (p : Page) (o n : Nat) (s : State) : (bump p o n s).fuses = s.fuses := by simp [bump]
@[simp] theorem bump_time (p : Page) (o n : Nat) (s : State) : (bump p o n s).time = s.time := by simp [bump]
@[simp] theorem bump_tclk (p : Page) (o n : Nat) (s : State) : (bump p o n s).tclk = s.tclk := by simp [bump]
@[simp] theorem bump_lastRead (p : Page) (o n : Nat) (s : State) : (bump p o n s).lastRead = s.lastRead := by simp [bump]
@[simp] theorem bump_latched (p : Page) (o n : Nat) (s : State) : (bump p o n s).latched = s.latched := by simp [bump]
@[simp] theorem bump_errDpa (p : Page) (o n : Nat) (s : State) : (bump p o n s).errDpa = s.errDpa := by simp [bump]
@[simp] theorem bump_damaged (p : Page) (o n : Nat) (s : State) : (bump p o n s).damaged = s.damaged := by simp [bump]
@[simp] theorem bump_lb (p : Page) (o n : Nat) (s : State) : (bump p o n s).lb = s.lb := by simp [bump]
@[simp] theorem bump_mem (p : Page) (o n : Nat) (s : State) : (bump p o n s).mem = s.mem := by simp [bump]
@[simp] theorem bump_qe (p : Page) (o n : Nat) (s : State) : (bump p o n s).qe = s.qe := by simp [bump]
@[simp] theorem bump_tu (p : Page) (o n : Nat) (s : State) : (bump p o n s).tu = s.tu := by simp [bump]
@[simp] theorem bump_gm (p : Page) (o n : Nat) (s : State) : (bump p o n s).gm = s.gm := by simp [bump]
@[simp] theorem bump_ch (p : Page) (o n : Nat) (s : State) : (bump p o n s).ch = s.ch := by simp [bump]
@[simp] theorem bump_qy (p : Page) (o n : Nat) (s : State) : (bump p o n s).qy = s.qy := by simp [bump]
@[simp] theorem bump_hl (p : Page) (o n : Nat) (s : State) : (bump p o n s).hl = s.hl := by simp [bump]
@[simp] theorem bump_st (p : Page) (o n : Nat) (s : State) : (bump p o n s).st = s.st := by simp [bump]
@[simp] theorem bump_gw (p : Page) (o n : Nat) (s : State) : (bump p o n s).gw = s.gw := by simp [bump]
@[simp] theorem bump_sp (p : Page) (o n : Nat) (s : State) : (bump p o n s).sp = s.sp := by simp [bump]
@[simp] theorem bump_hm (p : Page) (o n : Nat) (s : State) : (bump p o n s).hm = s.hm := by simp [bump]
@[simp] theorem bump_ec (p : Page) (o n : Nat) (s : State) : (bump p o n s).ec = s.ec := by simp [bump]
@[simp] theorem bump_sl (p : Page) (o n : Nat) (s : State) : (bump p o n s).sl = s.sl := by simp [bump]
@[simp] theorem bump_out (p : Page) (o n : Nat) (s : State) : (bump p o n s).out = s.out := by simp [bump]
@[simp] theorem bump_fresh (p : Page) (o n : Nat) (s : State) : (bump p o n s).fresh = s.fresh := by simp [bump]
@[simp] theorem bump_pending (p : Page) (o n : Nat) (s : State) : (bump p o n s).pending = s.pending := by simp [bump]

/-! ### bump64 -/

@[simp] theorem bump64_fuses (p : Page) (o n : Nat) (s : State) : (bump64 p o n s).fuses = s.fuses := by simp [bump64]
@[simp] theorem bump64_time (p : Page) (o n : Nat) (s : State) : (bump64 p o n s).time = s.time := by simp [bump64]
@[simp] theorem bump64_tclk (p : Page) (o n : Nat) (s : State) : (bump64 p o n s).tclk = s.tclk := by simp [bump64]
@[simp] theorem bump64_lastRead (p : Page) (o n : Nat) (s : State) : (bump64 p o n s).lastRead = s.lastRead := by simp [bump64]
@[simp] theorem bump64_latched (p : Page) (o n : Nat) (s : State) : (bump64 p o n s).latched = s.latched := by simp [bump64]
@[simp] theorem bump64_errDpa (p : Page) (o n : Nat) (s : State) : (bump64 p o n s).errDpa = s.errDpa := by simp [bump64]
@[simp] theorem bump64_damaged (p : Page) (o n : Nat) (s : State) : (bump64 p o n s).damaged = s.damaged := by simp [bump64]
@[simp] theorem bump64_lb (p : Page) (o n : Nat) (s : State) : (bump64 p o n s).lb = s.lb := by simp [bump64]
@[simp] theorem bump64_mem (p : Page) (o n : Nat) (s : State) : (bump64 p o n s).mem = s.mem := by simp [bump64]
@[simp] theorem bump64_qe (p : Page) (o n : Nat) (s : State) : (bump64 p o n s).qe = s.qe := by simp [bump64]
@[simp] theorem bump64_tu (p : Page) (o n : Nat) (s : State) : (bump64 p o n s).tu = s.tu := by simp [bump64]
@[simp] theorem bump64_gm (p : Page) (o n : Nat) (s : State) : (bump64 p o n s).gm = s.gm := by simp [bump64]
@[simp] theorem bump64_ch (p : Page) (o n : Nat) (s : State) : (bump64 p o n s).ch = s.ch := by simp [bump64]
@[simp] theorem bump64_qy (p : Page) (o n : Nat) (s : State) : (bump64 p o n s).qy = s.qy := by simp [bump64]
@[simp] theorem bump64_hl (p : Page) (o n : Nat) (s : State) : (bump64 p o n s).hl = s.hl := by simp [bump64]
@[simp] theorem bump64_st (p : Page) (o n : Nat) (s : State) : (bump64 p o n s).st = s.st := by simp [bump64]
@[simp] theorem bump64_gw (p : Page) (o n : Nat) (s : State) : (bump64 p o n s).gw = s.gw := by simp [bump64]
@[simp] theorem bump64_sp (p : Page) (o n : Nat) (s : State) : (bump64 p o n s).sp = s.sp := by simp [bump64]
@[simp] theorem bump64_hm (p : Page) (o n : Nat) (s : State) : (bump64 p o n s).hm = s.hm := by simp [bump64]
@[simp] theorem bump64_ec (p : Page) (o n : Nat) (s : State) : (bump64 p o n s).ec = s.ec := by simp [bump64]
@[simp] theorem bump64_sl (p : Page) (o n : Nat) (s : State) : (bump64 p o n s).sl = s.sl := by simp [bump64]
@[simp] theorem bump64_out (p : Page) (o n : Nat) (s : State) : (bump64 p o n s).out = s.out := by simp [bump64]
@[simp] theorem bump64_fresh (p : Page) (o n : Nat) (s : State) : (bump64 p o n s).fresh = s.fresh := by simp [bump64]
@[simp] theorem bump64_pending (p : Page) (o n : Nat) (s : State) : (bump64 p o n s).pending = s.pending := by simp [bump64]

/-! ### capErr -/

@[simp] theorem capErr_fuses (p : Page) (c : Nat) (o : Origin) (s : State) : (capErr p c o s).fuses = s.fuses := by unfold capErr; split <;> simp
@[simp] theorem capErr_time (p : Page) (c : Nat) (o : Origin) (s : State) : (capErr p c o s).time = s.time := by unfold capErr; split <;> simp
@[simp] theorem capErr_tclk (p : Page) (c : Nat) (o : Origin) (s : State) : (capErr p c o s).tclk = s.tclk := by unfold capErr; split <;> simp
@[simp] theorem capErr_lastRead (p : Page) (c : Nat) (o : Origin) (s : State) : (capErr p c o s).lastRead = s.lastRead := by unfold capErr; split <;> simp
@[simp] theorem capErr_latched (p : Page) (c : Nat) (o : Origin) (s : State) : (capErr p c o s).latched = s.latched := by unfold capErr; split <;> simp
@[simp] theorem capErr_errDpa (p : Page) (c : Nat) (o : Origin) (s : State) : (capErr p c o s).errDpa = s.errDpa := by unfold capErr; split <;> simp
@[simp] theorem capErr_damaged (p : Page) (c : Nat) (o : Origin) (s : State) : (capErr p c o s).damaged = s.damaged := by unfold capErr; split <;> simp
@[simp] theorem capErr_lb (p : Page) (c : Nat) (o : Origin) (s : State) : (capErr p c o s).lb = s.lb := by unfold capErr; split <;> simp
@[simp] theorem capErr_mem (p : Page) (c : Nat) (o : Origin) (s : State) : (capErr p c o s).mem = s.mem := by unfold capErr; split <;> simp
@[simp] theorem capErr_qe (p : Page) (c : Nat) (o : Origin) (s : State) : (capErr p c o s).qe = s.qe := by unfold capErr; split <;> simp
@[simp] theorem capErr_tu (p : Page) (c : Nat) (o : Origin) (s : State) : (capErr p c o s).tu = s.tu := by unfold capErr; split <;> simp
@[simp] theorem capErr_gm (p : Page) (c : Nat) (o : Origin) (s : State) : (capErr p c o s).gm = s.gm := by unfold capErr; split <;> simp
@[simp] theorem capErr_ch (p : Page) (c : Nat) (o : Origin) (s : State) : (capErr p c o s).ch = s.ch := by unfold capErr; split <;> simp
@[simp] theorem capErr_qy (p : Page) (c : Nat) (o : Origin) (s : State) : (capErr p c o s).qy = s.qy := by unfold capErr; split <;> simp
@[simp] theorem capErr_hl (p : Page) (c : Nat) (o : Origin) (s : State) : (capErr p c o s).hl = s.hl := by unfold capErr; split <;> simp
@[simp] theorem capErr_st (p : Page) (c : Nat) (o : Origin) (s : State) : (capErr p c o s).st = s.st := by unfold capErr; split <;> simp
@[simp] theorem capErr_gw (p : Page) (c : Nat) (o : Origin) (s : State) : (capErr p c o s).gw = s.gw := by unfold capErr; split <;> simp
@[simp] theorem capErr_sp (p : Page) (c : Nat) (o : Origin) (s : State) : (capErr p c o s).sp = s.sp := by unfold capErr; split <;> simp
@[simp] theorem capErr_hm (p : Page) (c : Nat) (o : Origin) (s : State) : (capErr p c o s).hm = s.hm := by unfold capErr; split <;> simp
@[simp] theorem capErr_ec (p : Page) (c : Nat) (o : Origin) (s : State) : (capErr p c o s).ec = s.ec := by unfold capErr; split <;> simp
@[simp] theorem capErr_sl (p : Page) (c : Nat) (o : Origin) (s : State) : (capErr p c o s).sl = s.sl := by unfold capErr; split <;> simp
@[simp] theorem capErr_out (p : Page) (c : Nat) (o : Origin) (s : State) : (capErr p c o s).out = s.out := by unfold capErr; split <;> simp
@[simp] theorem capErr_fresh (p : Page) (c : Nat) (o : Origin) (s : State) : (capErr p c o s).fresh = s.fresh := by unfold capErr; split <;> simp
@[simp] theorem capErr_pending (p : Page) (c : Nat) (o : Origin) (s : State) : (capErr p c o s).pending = s.pending := by unfold capErr; split <;> simp

/-! ### pendEvent -/

@[simp] theorem pendEvent_fuses (p : Page) (b : Nat) (s : State) : ((pendEvent p b s).1).fuses = s.fuses := by simp [pendEvent]
@[simp] theorem pendEvent_time (p : Page) (b : Nat) (s : State) : ((pendEvent p b s).1).time = s.time := by simp [pendEvent]
@[simp] theorem pendEvent_tclk (p : Page) (b : Nat) (s : State) : ((pendEvent p b s).1).tclk = s.tclk := by simp [pendEvent]
@[simp] theorem pendEvent_lastRead (p : Page) (b : Nat) (s : State) : ((pendEvent p b s).1).lastRead = s.lastRead := by simp [pendEvent]
@[simp] theorem pendEvent_latched (p : Page) (b : Nat) (s : State) : ((pendEvent p b s).1).latched = s.latched := by simp [pendEvent]
@[simp] theorem pendEvent_errDpa (p : Page) (b : Nat) (s : State) : ((pendEvent p b s).1).errDpa = s.errDpa := by simp [pendEvent]
@[simp] theorem pendEvent_damaged (p : Page) (b : Nat) (s : State) : ((pendEvent p b s).1).damaged = s.damaged := by simp [pendEvent]
@[simp] theorem pendEvent_lb (p : Page) (b : Nat) (s : State) : ((pendEvent p b s).1).lb = s.lb := by simp [pendEvent]
@[simp] theorem pendEvent_mem (p : Page) (b : Nat) (s : State) : ((pendEvent p b s).1).mem = s.mem := by simp [pendEvent]
@[simp] theorem pendEvent_qe (p : Page) (b : Nat) (s : State) : ((pendEvent p b s).1).qe = s.qe := by simp [pendEvent]
@[simp] theorem pendEvent_tu (p : Page) (b : Nat) (s : State) : ((pendEvent p b s).1).tu = s.tu := by simp [pendEvent]
@[simp] theorem pendEvent_gm (p : Page) (b : Nat) (s : State) : ((pendEvent p b s).1).gm = s.gm := by simp [pendEvent]
@[simp] theorem pendEvent_ch (p : Page) (b : Nat) (s : State) : ((pendEvent p b s).1).ch = s.ch := by simp [pendEvent]
@[simp] theorem pendEvent_qy (p : Page) (b : Nat) (s : State) : ((pendEvent p b s).1).qy = s.qy := by simp [pendEvent]
@[simp] theorem pendEvent_hl (p : Page) (b : Nat) (s : State) : ((pendEvent p b s).1).hl = s.hl := by simp [pendEvent]
@[simp] theorem pendEvent_st (p : Page) (b : Nat) (s : State) : ((pendEvent p b s).1).st = s.st := by simp [pendEvent]
@[simp] theorem pendEvent_gw (p : Page) (b : Nat) (s : State) : ((pendEvent p b s).1).gw = s.gw := by simp [pendEvent]
@[simp] theorem pendEvent_sp (p : Page) (b : Nat) (s : State) : ((pendEvent p b s).1).sp = s.sp := by simp [pendEvent]
@[simp] theorem pendEvent_hm (p : Page) (b : Nat) (s : State) : ((pendEvent p b s).1).hm = s.hm := by simp [pendEvent]
@[simp] theorem pendEvent_ec (p : Page) (b : Nat) (s : State) : ((pendEvent p b s).1).ec = s.ec := by simp [pendEvent]
@[simp] theorem pendEvent_sl (p : Page) (b : Nat) (s : State) : ((pendEvent p b s).1).sl = s.sl := by simp [pendEvent]
@[simp] theorem pendEvent_out (p : Page) (b : Nat) (s : State) : ((pendEvent p b s).1).out = s.out := by simp [pendEvent]
@[simp] theorem pendEvent_fresh (p : Page) (b : Nat) (s : State) : ((pendEvent p b s).1).fresh = s.fresh := by simp [pendEvent]
@[simp] theorem pendEvent_pending (p : Page) (b : Nat) (s : State) : ((pendEvent p b s).1).pending = s.pending := by simp [pendEvent]

/-! ### ecSense -/

/-- u is s but for registers and the event controller: all that sensing an event may change. -/
def Sensed (s u : State) : Prop := ∃ r x e, u = { s with regs := r, tg := { s.tg with regs := x }, ec := e }

theorem Sensed.refl (s : State) : Sensed s s := ⟨s.regs, s.tg.regs, s.ec, rfl⟩

theorem Sensed.trans {s t u : State} (h : Sensed s t) (k : Sensed t u) : Sensed s u := by
  obtain ⟨r, a, e, rfl⟩ := h
  obtain ⟨r', a', e', rfl⟩ := k
  exact ⟨r', a', e', rfl⟩

theorem Sensed.setReg (p : Page) (b o v : Nat) (s : State) : Sensed s (setReg p b o v s) := by
  unfold Machine.setReg
  split
  · exact ⟨s.regs, _, s.ec, rfl⟩
  · exact ⟨_, s.tg.regs, s.ec, rfl⟩

theorem Sensed.bump (p : Page) (o n : Nat) (s : State) : Sensed s (bump p o n s) := Sensed.setReg ..

theorem Sensed.ec (s : State) (e : Ec) : Sensed s { s with ec := e } := ⟨s.regs, s.tg.regs, e, rfl⟩

theorem Sensed.pend (p : Page) (b : Nat) (s : State) : Sensed s (pendEvent p b s).1 := Sensed.setReg ..

/-- Sensing an event changes registers, Tidegauge's registers and the event controller only. -/
theorem ecSense_only (n m : Nat) (s : State) : Sensed s (ecSense n m s) := by
  induction n generalizing m s with
  | zero => exact Sensed.refl s
  | succ n ih =>
    unfold ecSense
    extract_lets e0 s1 cnt e1 s2 rate e2 s3 s4 s5
    have h1 : Sensed s s1 := by
      dsimp only [s1]
      split
      · exact Sensed.bump ..
      · exact Sensed.ec ..
    have h2 : Sensed s s2 := h1.trans (Sensed.ec ..)
    have h4 : Sensed s s4 := (h2.trans (Sensed.ec ..)).trans (Sensed.bump ..)
    clear_value s2 s4
    have h5 : Sensed s s5 := by
      dsimp only [s5]
      split
      · exact h4.trans (Sensed.setReg ..)
      · exact h4
    clear_value s5
    have h6 := Sensed.pend .ec 0 s5
    split
    · split
      · rename_i h
        rw [h] at h6
        exact (h5.trans h6).trans (ih ..)
      · rename_i h
        rw [h] at h6
        exact h5.trans h6
    · exact h2

@[simp] theorem ecSense_fuses (n m : Nat) (s : State) : (ecSense n m s).fuses = s.fuses := by obtain ⟨_, _, _, h⟩ := ecSense_only n m s; rw [h]
@[simp] theorem ecSense_time (n m : Nat) (s : State) : (ecSense n m s).time = s.time := by obtain ⟨_, _, _, h⟩ := ecSense_only n m s; rw [h]
@[simp] theorem ecSense_tclk (n m : Nat) (s : State) : (ecSense n m s).tclk = s.tclk := by obtain ⟨_, _, _, h⟩ := ecSense_only n m s; rw [h]
@[simp] theorem ecSense_lastRead (n m : Nat) (s : State) : (ecSense n m s).lastRead = s.lastRead := by obtain ⟨_, _, _, h⟩ := ecSense_only n m s; rw [h]
@[simp] theorem ecSense_latched (n m : Nat) (s : State) : (ecSense n m s).latched = s.latched := by obtain ⟨_, _, _, h⟩ := ecSense_only n m s; rw [h]
@[simp] theorem ecSense_errDpa (n m : Nat) (s : State) : (ecSense n m s).errDpa = s.errDpa := by obtain ⟨_, _, _, h⟩ := ecSense_only n m s; rw [h]
@[simp] theorem ecSense_damaged (n m : Nat) (s : State) : (ecSense n m s).damaged = s.damaged := by obtain ⟨_, _, _, h⟩ := ecSense_only n m s; rw [h]
@[simp] theorem ecSense_lb (n m : Nat) (s : State) : (ecSense n m s).lb = s.lb := by obtain ⟨_, _, _, h⟩ := ecSense_only n m s; rw [h]
@[simp] theorem ecSense_mem (n m : Nat) (s : State) : (ecSense n m s).mem = s.mem := by obtain ⟨_, _, _, h⟩ := ecSense_only n m s; rw [h]
@[simp] theorem ecSense_qe (n m : Nat) (s : State) : (ecSense n m s).qe = s.qe := by obtain ⟨_, _, _, h⟩ := ecSense_only n m s; rw [h]
@[simp] theorem ecSense_tu (n m : Nat) (s : State) : (ecSense n m s).tu = s.tu := by obtain ⟨_, _, _, h⟩ := ecSense_only n m s; rw [h]
@[simp] theorem ecSense_gm (n m : Nat) (s : State) : (ecSense n m s).gm = s.gm := by obtain ⟨_, _, _, h⟩ := ecSense_only n m s; rw [h]
@[simp] theorem ecSense_ch (n m : Nat) (s : State) : (ecSense n m s).ch = s.ch := by obtain ⟨_, _, _, h⟩ := ecSense_only n m s; rw [h]
@[simp] theorem ecSense_qy (n m : Nat) (s : State) : (ecSense n m s).qy = s.qy := by obtain ⟨_, _, _, h⟩ := ecSense_only n m s; rw [h]
@[simp] theorem ecSense_hl (n m : Nat) (s : State) : (ecSense n m s).hl = s.hl := by obtain ⟨_, _, _, h⟩ := ecSense_only n m s; rw [h]
@[simp] theorem ecSense_st (n m : Nat) (s : State) : (ecSense n m s).st = s.st := by obtain ⟨_, _, _, h⟩ := ecSense_only n m s; rw [h]
@[simp] theorem ecSense_gw (n m : Nat) (s : State) : (ecSense n m s).gw = s.gw := by obtain ⟨_, _, _, h⟩ := ecSense_only n m s; rw [h]
@[simp] theorem ecSense_sp (n m : Nat) (s : State) : (ecSense n m s).sp = s.sp := by obtain ⟨_, _, _, h⟩ := ecSense_only n m s; rw [h]
@[simp] theorem ecSense_hm (n m : Nat) (s : State) : (ecSense n m s).hm = s.hm := by obtain ⟨_, _, _, h⟩ := ecSense_only n m s; rw [h]
@[simp] theorem ecSense_sl (n m : Nat) (s : State) : (ecSense n m s).sl = s.sl := by obtain ⟨_, _, _, h⟩ := ecSense_only n m s; rw [h]
@[simp] theorem ecSense_out (n m : Nat) (s : State) : (ecSense n m s).out = s.out := by obtain ⟨_, _, _, h⟩ := ecSense_only n m s; rw [h]
@[simp] theorem ecSense_fresh (n m : Nat) (s : State) : (ecSense n m s).fresh = s.fresh := by obtain ⟨_, _, _, h⟩ := ecSense_only n m s; rw [h]
@[simp] theorem ecSense_pending (n m : Nat) (s : State) : (ecSense n m s).pending = s.pending := by obtain ⟨_, _, _, h⟩ := ecSense_only n m s; rw [h]

/-! ### raise -/

/-- Raising an event changes what sensing one does. -/
theorem raise_only (p : Page) (b : Nat) (s : State) : Sensed s (raise p b s) := by
  have h := Sensed.pend p b s
  unfold raise
  split
  · rename_i e
    rw [e] at h
    exact h.trans (ecSense_only ..)
  · rename_i e
    rw [e] at h
    exact h

@[simp] theorem raise_fuses (p : Page) (b : Nat) (s : State) : (raise p b s).fuses = s.fuses := by obtain ⟨_, _, _, h⟩ := raise_only p b s; rw [h]
@[simp] theorem raise_time (p : Page) (b : Nat) (s : State) : (raise p b s).time = s.time := by obtain ⟨_, _, _, h⟩ := raise_only p b s; rw [h]
@[simp] theorem raise_tclk (p : Page) (b : Nat) (s : State) : (raise p b s).tclk = s.tclk := by obtain ⟨_, _, _, h⟩ := raise_only p b s; rw [h]
@[simp] theorem raise_lastRead (p : Page) (b : Nat) (s : State) : (raise p b s).lastRead = s.lastRead := by obtain ⟨_, _, _, h⟩ := raise_only p b s; rw [h]
@[simp] theorem raise_latched (p : Page) (b : Nat) (s : State) : (raise p b s).latched = s.latched := by obtain ⟨_, _, _, h⟩ := raise_only p b s; rw [h]
@[simp] theorem raise_errDpa (p : Page) (b : Nat) (s : State) : (raise p b s).errDpa = s.errDpa := by obtain ⟨_, _, _, h⟩ := raise_only p b s; rw [h]
@[simp] theorem raise_damaged (p : Page) (b : Nat) (s : State) : (raise p b s).damaged = s.damaged := by obtain ⟨_, _, _, h⟩ := raise_only p b s; rw [h]
@[simp] theorem raise_lb (p : Page) (b : Nat) (s : State) : (raise p b s).lb = s.lb := by obtain ⟨_, _, _, h⟩ := raise_only p b s; rw [h]
@[simp] theorem raise_mem (p : Page) (b : Nat) (s : State) : (raise p b s).mem = s.mem := by obtain ⟨_, _, _, h⟩ := raise_only p b s; rw [h]
@[simp] theorem raise_qe (p : Page) (b : Nat) (s : State) : (raise p b s).qe = s.qe := by obtain ⟨_, _, _, h⟩ := raise_only p b s; rw [h]
@[simp] theorem raise_tu (p : Page) (b : Nat) (s : State) : (raise p b s).tu = s.tu := by obtain ⟨_, _, _, h⟩ := raise_only p b s; rw [h]
@[simp] theorem raise_gm (p : Page) (b : Nat) (s : State) : (raise p b s).gm = s.gm := by obtain ⟨_, _, _, h⟩ := raise_only p b s; rw [h]
@[simp] theorem raise_ch (p : Page) (b : Nat) (s : State) : (raise p b s).ch = s.ch := by obtain ⟨_, _, _, h⟩ := raise_only p b s; rw [h]
@[simp] theorem raise_qy (p : Page) (b : Nat) (s : State) : (raise p b s).qy = s.qy := by obtain ⟨_, _, _, h⟩ := raise_only p b s; rw [h]
@[simp] theorem raise_hl (p : Page) (b : Nat) (s : State) : (raise p b s).hl = s.hl := by obtain ⟨_, _, _, h⟩ := raise_only p b s; rw [h]
@[simp] theorem raise_st (p : Page) (b : Nat) (s : State) : (raise p b s).st = s.st := by obtain ⟨_, _, _, h⟩ := raise_only p b s; rw [h]
@[simp] theorem raise_gw (p : Page) (b : Nat) (s : State) : (raise p b s).gw = s.gw := by obtain ⟨_, _, _, h⟩ := raise_only p b s; rw [h]
@[simp] theorem raise_sp (p : Page) (b : Nat) (s : State) : (raise p b s).sp = s.sp := by obtain ⟨_, _, _, h⟩ := raise_only p b s; rw [h]
@[simp] theorem raise_hm (p : Page) (b : Nat) (s : State) : (raise p b s).hm = s.hm := by obtain ⟨_, _, _, h⟩ := raise_only p b s; rw [h]
@[simp] theorem raise_sl (p : Page) (b : Nat) (s : State) : (raise p b s).sl = s.sl := by obtain ⟨_, _, _, h⟩ := raise_only p b s; rw [h]
@[simp] theorem raise_out (p : Page) (b : Nat) (s : State) : (raise p b s).out = s.out := by obtain ⟨_, _, _, h⟩ := raise_only p b s; rw [h]
@[simp] theorem raise_fresh (p : Page) (b : Nat) (s : State) : (raise p b s).fresh = s.fresh := by obtain ⟨_, _, _, h⟩ := raise_only p b s; rw [h]
@[simp] theorem raise_pending (p : Page) (b : Nat) (s : State) : (raise p b s).pending = s.pending := by obtain ⟨_, _, _, h⟩ := raise_only p b s; rw [h]

/-! ### updCmd -/

@[simp] theorem updCmd_fuses (k : Nat) (f : Cmd → Cmd) (s : State) : (updCmd k f s).fuses = s.fuses := rfl
@[simp] theorem updCmd_time (k : Nat) (f : Cmd → Cmd) (s : State) : (updCmd k f s).time = s.time := rfl
@[simp] theorem updCmd_tclk (k : Nat) (f : Cmd → Cmd) (s : State) : (updCmd k f s).tclk = s.tclk := rfl
@[simp] theorem updCmd_regs (k : Nat) (f : Cmd → Cmd) (s : State) : (updCmd k f s).regs = s.regs := rfl
@[simp] theorem updCmd_lastRead (k : Nat) (f : Cmd → Cmd) (s : State) : (updCmd k f s).lastRead = s.lastRead := rfl
@[simp] theorem updCmd_latched (k : Nat) (f : Cmd → Cmd) (s : State) : (updCmd k f s).latched = s.latched := rfl
@[simp] theorem updCmd_errDpa (k : Nat) (f : Cmd → Cmd) (s : State) : (updCmd k f s).errDpa = s.errDpa := rfl
@[simp] theorem updCmd_damaged (k : Nat) (f : Cmd → Cmd) (s : State) : (updCmd k f s).damaged = s.damaged := rfl
@[simp] theorem updCmd_lb (k : Nat) (f : Cmd → Cmd) (s : State) : (updCmd k f s).lb = s.lb := rfl
@[simp] theorem updCmd_mem (k : Nat) (f : Cmd → Cmd) (s : State) : (updCmd k f s).mem = s.mem := rfl
@[simp] theorem updCmd_tu (k : Nat) (f : Cmd → Cmd) (s : State) : (updCmd k f s).tu = s.tu := rfl
@[simp] theorem updCmd_gm (k : Nat) (f : Cmd → Cmd) (s : State) : (updCmd k f s).gm = s.gm := rfl
@[simp] theorem updCmd_ch (k : Nat) (f : Cmd → Cmd) (s : State) : (updCmd k f s).ch = s.ch := rfl
@[simp] theorem updCmd_qy (k : Nat) (f : Cmd → Cmd) (s : State) : (updCmd k f s).qy = s.qy := rfl
@[simp] theorem updCmd_hl (k : Nat) (f : Cmd → Cmd) (s : State) : (updCmd k f s).hl = s.hl := rfl
@[simp] theorem updCmd_st (k : Nat) (f : Cmd → Cmd) (s : State) : (updCmd k f s).st = s.st := rfl
@[simp] theorem updCmd_gw (k : Nat) (f : Cmd → Cmd) (s : State) : (updCmd k f s).gw = s.gw := rfl
@[simp] theorem updCmd_sp (k : Nat) (f : Cmd → Cmd) (s : State) : (updCmd k f s).sp = s.sp := rfl
@[simp] theorem updCmd_hm (k : Nat) (f : Cmd → Cmd) (s : State) : (updCmd k f s).hm = s.hm := rfl
@[simp] theorem updCmd_ec (k : Nat) (f : Cmd → Cmd) (s : State) : (updCmd k f s).ec = s.ec := rfl
@[simp] theorem updCmd_sl (k : Nat) (f : Cmd → Cmd) (s : State) : (updCmd k f s).sl = s.sl := rfl
@[simp] theorem updCmd_tg (k : Nat) (f : Cmd → Cmd) (s : State) : (updCmd k f s).tg = s.tg := rfl
@[simp] theorem updCmd_out (k : Nat) (f : Cmd → Cmd) (s : State) : (updCmd k f s).out = s.out := rfl
@[simp] theorem updCmd_fresh (k : Nat) (f : Cmd → Cmd) (s : State) : (updCmd k f s).fresh = s.fresh := rfl
@[simp] theorem updCmd_pending (k : Nat) (f : Cmd → Cmd) (s : State) : (updCmd k f s).pending = s.pending := rfl

/-! ### finish -/

@[simp] theorem finish_fuses (k st d n a : Nat) (s : State) : (finish k st d n a s).fuses = s.fuses := rfl
@[simp] theorem finish_time (k st d n a : Nat) (s : State) : (finish k st d n a s).time = s.time := rfl
@[simp] theorem finish_tclk (k st d n a : Nat) (s : State) : (finish k st d n a s).tclk = s.tclk := rfl
@[simp] theorem finish_regs (k st d n a : Nat) (s : State) : (finish k st d n a s).regs = s.regs := rfl
@[simp] theorem finish_lastRead (k st d n a : Nat) (s : State) : (finish k st d n a s).lastRead = s.lastRead := rfl
@[simp] theorem finish_latched (k st d n a : Nat) (s : State) : (finish k st d n a s).latched = s.latched := rfl
@[simp] theorem finish_errDpa (k st d n a : Nat) (s : State) : (finish k st d n a s).errDpa = s.errDpa := rfl
@[simp] theorem finish_damaged (k st d n a : Nat) (s : State) : (finish k st d n a s).damaged = s.damaged := rfl
@[simp] theorem finish_lb (k st d n a : Nat) (s : State) : (finish k st d n a s).lb = s.lb := rfl
@[simp] theorem finish_mem (k st d n a : Nat) (s : State) : (finish k st d n a s).mem = s.mem := rfl
@[simp] theorem finish_tu (k st d n a : Nat) (s : State) : (finish k st d n a s).tu = s.tu := rfl
@[simp] theorem finish_gm (k st d n a : Nat) (s : State) : (finish k st d n a s).gm = s.gm := rfl
@[simp] theorem finish_ch (k st d n a : Nat) (s : State) : (finish k st d n a s).ch = s.ch := rfl
@[simp] theorem finish_qy (k st d n a : Nat) (s : State) : (finish k st d n a s).qy = s.qy := rfl
@[simp] theorem finish_hl (k st d n a : Nat) (s : State) : (finish k st d n a s).hl = s.hl := rfl
@[simp] theorem finish_st (k st d n a : Nat) (s : State) : (finish k st d n a s).st = s.st := rfl
@[simp] theorem finish_gw (k st d n a : Nat) (s : State) : (finish k st d n a s).gw = s.gw := rfl
@[simp] theorem finish_sp (k st d n a : Nat) (s : State) : (finish k st d n a s).sp = s.sp := rfl
@[simp] theorem finish_hm (k st d n a : Nat) (s : State) : (finish k st d n a s).hm = s.hm := rfl
@[simp] theorem finish_ec (k st d n a : Nat) (s : State) : (finish k st d n a s).ec = s.ec := rfl
@[simp] theorem finish_sl (k st d n a : Nat) (s : State) : (finish k st d n a s).sl = s.sl := rfl
@[simp] theorem finish_tg (k st d n a : Nat) (s : State) : (finish k st d n a s).tg = s.tg := rfl
@[simp] theorem finish_out (k st d n a : Nat) (s : State) : (finish k st d n a s).out = s.out := rfl
@[simp] theorem finish_fresh (k st d n a : Nat) (s : State) : (finish k st d n a s).fresh = s.fresh := rfl
@[simp] theorem finish_pending (k st d n a : Nat) (s : State) : (finish k st d n a s).pending = s.pending := rfl

/-! ### notePoison -/

@[simp] theorem notePoison_fuses (k a d : Nat) (s : State) : (notePoison k a d s).fuses = s.fuses := rfl
@[simp] theorem notePoison_time (k a d : Nat) (s : State) : (notePoison k a d s).time = s.time := rfl
@[simp] theorem notePoison_tclk (k a d : Nat) (s : State) : (notePoison k a d s).tclk = s.tclk := rfl
@[simp] theorem notePoison_regs (k a d : Nat) (s : State) : (notePoison k a d s).regs = s.regs := rfl
@[simp] theorem notePoison_lastRead (k a d : Nat) (s : State) : (notePoison k a d s).lastRead = s.lastRead := rfl
@[simp] theorem notePoison_latched (k a d : Nat) (s : State) : (notePoison k a d s).latched = s.latched := rfl
@[simp] theorem notePoison_errDpa (k a d : Nat) (s : State) : (notePoison k a d s).errDpa = s.errDpa := rfl
@[simp] theorem notePoison_damaged (k a d : Nat) (s : State) : (notePoison k a d s).damaged = s.damaged := rfl
@[simp] theorem notePoison_lb (k a d : Nat) (s : State) : (notePoison k a d s).lb = s.lb := rfl
@[simp] theorem notePoison_mem (k a d : Nat) (s : State) : (notePoison k a d s).mem = s.mem := rfl
@[simp] theorem notePoison_tu (k a d : Nat) (s : State) : (notePoison k a d s).tu = s.tu := rfl
@[simp] theorem notePoison_gm (k a d : Nat) (s : State) : (notePoison k a d s).gm = s.gm := rfl
@[simp] theorem notePoison_ch (k a d : Nat) (s : State) : (notePoison k a d s).ch = s.ch := rfl
@[simp] theorem notePoison_qy (k a d : Nat) (s : State) : (notePoison k a d s).qy = s.qy := rfl
@[simp] theorem notePoison_hl (k a d : Nat) (s : State) : (notePoison k a d s).hl = s.hl := rfl
@[simp] theorem notePoison_st (k a d : Nat) (s : State) : (notePoison k a d s).st = s.st := rfl
@[simp] theorem notePoison_gw (k a d : Nat) (s : State) : (notePoison k a d s).gw = s.gw := rfl
@[simp] theorem notePoison_sp (k a d : Nat) (s : State) : (notePoison k a d s).sp = s.sp := rfl
@[simp] theorem notePoison_hm (k a d : Nat) (s : State) : (notePoison k a d s).hm = s.hm := rfl
@[simp] theorem notePoison_ec (k a d : Nat) (s : State) : (notePoison k a d s).ec = s.ec := rfl
@[simp] theorem notePoison_sl (k a d : Nat) (s : State) : (notePoison k a d s).sl = s.sl := rfl
@[simp] theorem notePoison_tg (k a d : Nat) (s : State) : (notePoison k a d s).tg = s.tg := rfl
@[simp] theorem notePoison_out (k a d : Nat) (s : State) : (notePoison k a d s).out = s.out := rfl
@[simp] theorem notePoison_fresh (k a d : Nat) (s : State) : (notePoison k a d s).fresh = s.fresh := rfl
@[simp] theorem notePoison_pending (k a d : Nat) (s : State) : (notePoison k a d s).pending = s.pending := rfl

/-! ### annexTouch -/

@[simp] theorem annexTouch_fuses (s : State) : (annexTouch s).fuses = s.fuses := by simp [annexTouch]
@[simp] theorem annexTouch_time (s : State) : (annexTouch s).time = s.time := by simp [annexTouch]
@[simp] theorem annexTouch_tclk (s : State) : (annexTouch s).tclk = s.tclk := by simp [annexTouch]
@[simp] theorem annexTouch_lastRead (s : State) : (annexTouch s).lastRead = s.lastRead := by simp [annexTouch]
@[simp] theorem annexTouch_latched (s : State) : (annexTouch s).latched = s.latched := by simp [annexTouch]
@[simp] theorem annexTouch_errDpa (s : State) : (annexTouch s).errDpa = s.errDpa := by simp [annexTouch]
@[simp] theorem annexTouch_damaged (s : State) : (annexTouch s).damaged = s.damaged := by simp [annexTouch]
@[simp] theorem annexTouch_lb (s : State) : (annexTouch s).lb = s.lb := by simp [annexTouch]
@[simp] theorem annexTouch_mem (s : State) : (annexTouch s).mem = s.mem := by simp [annexTouch]
@[simp] theorem annexTouch_qe (s : State) : (annexTouch s).qe = s.qe := by simp [annexTouch]
@[simp] theorem annexTouch_tu (s : State) : (annexTouch s).tu = s.tu := by simp [annexTouch]
@[simp] theorem annexTouch_gm (s : State) : (annexTouch s).gm = s.gm := by simp [annexTouch]
@[simp] theorem annexTouch_ch (s : State) : (annexTouch s).ch = s.ch := by simp [annexTouch]
@[simp] theorem annexTouch_qy (s : State) : (annexTouch s).qy = s.qy := by simp [annexTouch]
@[simp] theorem annexTouch_hl (s : State) : (annexTouch s).hl = s.hl := by simp [annexTouch]
@[simp] theorem annexTouch_st (s : State) : (annexTouch s).st = s.st := by simp [annexTouch]
@[simp] theorem annexTouch_gw (s : State) : (annexTouch s).gw = s.gw := by simp [annexTouch]
@[simp] theorem annexTouch_sp (s : State) : (annexTouch s).sp = s.sp := by simp [annexTouch]
@[simp] theorem annexTouch_hm (s : State) : (annexTouch s).hm = s.hm := by simp [annexTouch]
@[simp] theorem annexTouch_ec (s : State) : (annexTouch s).ec = s.ec := by simp [annexTouch]
@[simp] theorem annexTouch_sl (s : State) : (annexTouch s).sl = s.sl := by simp [annexTouch]
@[simp] theorem annexTouch_fresh (s : State) : (annexTouch s).fresh = s.fresh := by simp [annexTouch]
@[simp] theorem annexTouch_pending (s : State) : (annexTouch s).pending = s.pending := by simp [annexTouch]

/-! ### logAppend -/

@[simp] theorem logAppend_fuses (o : Origin) (g : Nat) (p : Option Page) (f a b : Nat) (s : State) : (logAppend o g p f a b s).fuses = s.fuses := by cases p <;> simp only [logAppend, setReg_fuses]
@[simp] theorem logAppend_time (o : Origin) (g : Nat) (p : Option Page) (f a b : Nat) (s : State) : (logAppend o g p f a b s).time = s.time := by cases p <;> simp only [logAppend, setReg_time]
@[simp] theorem logAppend_tclk (o : Origin) (g : Nat) (p : Option Page) (f a b : Nat) (s : State) : (logAppend o g p f a b s).tclk = s.tclk := by cases p <;> simp only [logAppend, setReg_tclk]
@[simp] theorem logAppend_lastRead (o : Origin) (g : Nat) (p : Option Page) (f a b : Nat) (s : State) : (logAppend o g p f a b s).lastRead = s.lastRead := by cases p <;> simp only [logAppend, setReg_lastRead]
@[simp] theorem logAppend_latched (o : Origin) (g : Nat) (p : Option Page) (f a b : Nat) (s : State) : (logAppend o g p f a b s).latched = s.latched := by cases p <;> simp only [logAppend, setReg_latched]
@[simp] theorem logAppend_errDpa (o : Origin) (g : Nat) (p : Option Page) (f a b : Nat) (s : State) : (logAppend o g p f a b s).errDpa = s.errDpa := by cases p <;> simp only [logAppend, setReg_errDpa]
@[simp] theorem logAppend_damaged (o : Origin) (g : Nat) (p : Option Page) (f a b : Nat) (s : State) : (logAppend o g p f a b s).damaged = s.damaged := by cases p <;> simp only [logAppend, setReg_damaged]
@[simp] theorem logAppend_mem (o : Origin) (g : Nat) (p : Option Page) (f a b : Nat) (s : State) : (logAppend o g p f a b s).mem = s.mem := by cases p <;> simp only [logAppend, setReg_mem]
@[simp] theorem logAppend_qe (o : Origin) (g : Nat) (p : Option Page) (f a b : Nat) (s : State) : (logAppend o g p f a b s).qe = s.qe := by cases p <;> simp only [logAppend, setReg_qe]
@[simp] theorem logAppend_tu (o : Origin) (g : Nat) (p : Option Page) (f a b : Nat) (s : State) : (logAppend o g p f a b s).tu = s.tu := by cases p <;> simp only [logAppend, setReg_tu]
@[simp] theorem logAppend_gm (o : Origin) (g : Nat) (p : Option Page) (f a b : Nat) (s : State) : (logAppend o g p f a b s).gm = s.gm := by cases p <;> simp only [logAppend, setReg_gm]
@[simp] theorem logAppend_ch (o : Origin) (g : Nat) (p : Option Page) (f a b : Nat) (s : State) : (logAppend o g p f a b s).ch = s.ch := by cases p <;> simp only [logAppend, setReg_ch]
@[simp] theorem logAppend_qy (o : Origin) (g : Nat) (p : Option Page) (f a b : Nat) (s : State) : (logAppend o g p f a b s).qy = s.qy := by cases p <;> simp only [logAppend, setReg_qy]
@[simp] theorem logAppend_hl (o : Origin) (g : Nat) (p : Option Page) (f a b : Nat) (s : State) : (logAppend o g p f a b s).hl = s.hl := by cases p <;> simp only [logAppend, setReg_hl]
@[simp] theorem logAppend_st (o : Origin) (g : Nat) (p : Option Page) (f a b : Nat) (s : State) : (logAppend o g p f a b s).st = s.st := by cases p <;> simp only [logAppend, setReg_st]
@[simp] theorem logAppend_gw (o : Origin) (g : Nat) (p : Option Page) (f a b : Nat) (s : State) : (logAppend o g p f a b s).gw = s.gw := by cases p <;> simp only [logAppend, setReg_gw]
@[simp] theorem logAppend_sp (o : Origin) (g : Nat) (p : Option Page) (f a b : Nat) (s : State) : (logAppend o g p f a b s).sp = s.sp := by cases p <;> simp only [logAppend, setReg_sp]
@[simp] theorem logAppend_hm (o : Origin) (g : Nat) (p : Option Page) (f a b : Nat) (s : State) : (logAppend o g p f a b s).hm = s.hm := by cases p <;> simp only [logAppend, setReg_hm]
@[simp] theorem logAppend_ec (o : Origin) (g : Nat) (p : Option Page) (f a b : Nat) (s : State) : (logAppend o g p f a b s).ec = s.ec := by cases p <;> simp only [logAppend, setReg_ec]
@[simp] theorem logAppend_sl (o : Origin) (g : Nat) (p : Option Page) (f a b : Nat) (s : State) : (logAppend o g p f a b s).sl = s.sl := by cases p <;> simp only [logAppend, setReg_sl]
@[simp] theorem logAppend_out (o : Origin) (g : Nat) (p : Option Page) (f a b : Nat) (s : State) : (logAppend o g p f a b s).out = s.out := by cases p <;> simp only [logAppend, setReg_out]
@[simp] theorem logAppend_fresh (o : Origin) (g : Nat) (p : Option Page) (f a b : Nat) (s : State) : (logAppend o g p f a b s).fresh = s.fresh := by cases p <;> simp only [logAppend, setReg_fresh]
@[simp] theorem logAppend_pending (o : Origin) (g : Nat) (p : Option Page) (f a b : Nat) (s : State) : (logAppend o g p f a b s).pending = s.pending := by cases p <;> simp only [logAppend, setReg_pending]

/-! ### updSq -/

@[simp] theorem updSq_fuses (q : Nat) (f : Sq → Sq) (s : State) : (updSq q f s).fuses = s.fuses := rfl
@[simp] theorem updSq_time (q : Nat) (f : Sq → Sq) (s : State) : (updSq q f s).time = s.time := rfl
@[simp] theorem updSq_tclk (q : Nat) (f : Sq → Sq) (s : State) : (updSq q f s).tclk = s.tclk := rfl
@[simp] theorem updSq_regs (q : Nat) (f : Sq → Sq) (s : State) : (updSq q f s).regs = s.regs := rfl
@[simp] theorem updSq_lastRead (q : Nat) (f : Sq → Sq) (s : State) : (updSq q f s).lastRead = s.lastRead := rfl
@[simp] theorem updSq_latched (q : Nat) (f : Sq → Sq) (s : State) : (updSq q f s).latched = s.latched := rfl
@[simp] theorem updSq_errDpa (q : Nat) (f : Sq → Sq) (s : State) : (updSq q f s).errDpa = s.errDpa := rfl
@[simp] theorem updSq_damaged (q : Nat) (f : Sq → Sq) (s : State) : (updSq q f s).damaged = s.damaged := rfl
@[simp] theorem updSq_lb (q : Nat) (f : Sq → Sq) (s : State) : (updSq q f s).lb = s.lb := rfl
@[simp] theorem updSq_mem (q : Nat) (f : Sq → Sq) (s : State) : (updSq q f s).mem = s.mem := rfl
@[simp] theorem updSq_tu (q : Nat) (f : Sq → Sq) (s : State) : (updSq q f s).tu = s.tu := rfl
@[simp] theorem updSq_gm (q : Nat) (f : Sq → Sq) (s : State) : (updSq q f s).gm = s.gm := rfl
@[simp] theorem updSq_ch (q : Nat) (f : Sq → Sq) (s : State) : (updSq q f s).ch = s.ch := rfl
@[simp] theorem updSq_qy (q : Nat) (f : Sq → Sq) (s : State) : (updSq q f s).qy = s.qy := rfl
@[simp] theorem updSq_hl (q : Nat) (f : Sq → Sq) (s : State) : (updSq q f s).hl = s.hl := rfl
@[simp] theorem updSq_st (q : Nat) (f : Sq → Sq) (s : State) : (updSq q f s).st = s.st := rfl
@[simp] theorem updSq_gw (q : Nat) (f : Sq → Sq) (s : State) : (updSq q f s).gw = s.gw := rfl
@[simp] theorem updSq_sp (q : Nat) (f : Sq → Sq) (s : State) : (updSq q f s).sp = s.sp := rfl
@[simp] theorem updSq_hm (q : Nat) (f : Sq → Sq) (s : State) : (updSq q f s).hm = s.hm := rfl
@[simp] theorem updSq_ec (q : Nat) (f : Sq → Sq) (s : State) : (updSq q f s).ec = s.ec := rfl
@[simp] theorem updSq_sl (q : Nat) (f : Sq → Sq) (s : State) : (updSq q f s).sl = s.sl := rfl
@[simp] theorem updSq_tg (q : Nat) (f : Sq → Sq) (s : State) : (updSq q f s).tg = s.tg := rfl
@[simp] theorem updSq_out (q : Nat) (f : Sq → Sq) (s : State) : (updSq q f s).out = s.out := rfl
@[simp] theorem updSq_fresh (q : Nat) (f : Sq → Sq) (s : State) : (updSq q f s).fresh = s.fresh := rfl
@[simp] theorem updSq_pending (q : Nat) (f : Sq → Sq) (s : State) : (updSq q f s).pending = s.pending := rfl

/-! ### updCq -/

@[simp] theorem updCq_fuses (q : Nat) (f : Cq → Cq) (s : State) : (updCq q f s).fuses = s.fuses := rfl
@[simp] theorem updCq_time (q : Nat) (f : Cq → Cq) (s : State) : (updCq q f s).time = s.time := rfl
@[simp] theorem updCq_tclk (q : Nat) (f : Cq → Cq) (s : State) : (updCq q f s).tclk = s.tclk := rfl
@[simp] theorem updCq_regs (q : Nat) (f : Cq → Cq) (s : State) : (updCq q f s).regs = s.regs := rfl
@[simp] theorem updCq_lastRead (q : Nat) (f : Cq → Cq) (s : State) : (updCq q f s).lastRead = s.lastRead := rfl
@[simp] theorem updCq_latched (q : Nat) (f : Cq → Cq) (s : State) : (updCq q f s).latched = s.latched := rfl
@[simp] theorem updCq_errDpa (q : Nat) (f : Cq → Cq) (s : State) : (updCq q f s).errDpa = s.errDpa := rfl
@[simp] theorem updCq_damaged (q : Nat) (f : Cq → Cq) (s : State) : (updCq q f s).damaged = s.damaged := rfl
@[simp] theorem updCq_lb (q : Nat) (f : Cq → Cq) (s : State) : (updCq q f s).lb = s.lb := rfl
@[simp] theorem updCq_mem (q : Nat) (f : Cq → Cq) (s : State) : (updCq q f s).mem = s.mem := rfl
@[simp] theorem updCq_tu (q : Nat) (f : Cq → Cq) (s : State) : (updCq q f s).tu = s.tu := rfl
@[simp] theorem updCq_gm (q : Nat) (f : Cq → Cq) (s : State) : (updCq q f s).gm = s.gm := rfl
@[simp] theorem updCq_ch (q : Nat) (f : Cq → Cq) (s : State) : (updCq q f s).ch = s.ch := rfl
@[simp] theorem updCq_qy (q : Nat) (f : Cq → Cq) (s : State) : (updCq q f s).qy = s.qy := rfl
@[simp] theorem updCq_hl (q : Nat) (f : Cq → Cq) (s : State) : (updCq q f s).hl = s.hl := rfl
@[simp] theorem updCq_st (q : Nat) (f : Cq → Cq) (s : State) : (updCq q f s).st = s.st := rfl
@[simp] theorem updCq_gw (q : Nat) (f : Cq → Cq) (s : State) : (updCq q f s).gw = s.gw := rfl
@[simp] theorem updCq_sp (q : Nat) (f : Cq → Cq) (s : State) : (updCq q f s).sp = s.sp := rfl
@[simp] theorem updCq_hm (q : Nat) (f : Cq → Cq) (s : State) : (updCq q f s).hm = s.hm := rfl
@[simp] theorem updCq_ec (q : Nat) (f : Cq → Cq) (s : State) : (updCq q f s).ec = s.ec := rfl
@[simp] theorem updCq_sl (q : Nat) (f : Cq → Cq) (s : State) : (updCq q f s).sl = s.sl := rfl
@[simp] theorem updCq_tg (q : Nat) (f : Cq → Cq) (s : State) : (updCq q f s).tg = s.tg := rfl
@[simp] theorem updCq_out (q : Nat) (f : Cq → Cq) (s : State) : (updCq q f s).out = s.out := rfl
@[simp] theorem updCq_fresh (q : Nat) (f : Cq → Cq) (s : State) : (updCq q f s).fresh = s.fresh := rfl
@[simp] theorem updCq_pending (q : Nat) (f : Cq → Cq) (s : State) : (updCq q f s).pending = s.pending := rfl

/-! ### setFence -/

@[simp] theorem setFence_fuses (n : Nat) (v : Fence) (s : State) : (setFence n v s).fuses = s.fuses := rfl
@[simp] theorem setFence_time (n : Nat) (v : Fence) (s : State) : (setFence n v s).time = s.time := rfl
@[simp] theorem setFence_tclk (n : Nat) (v : Fence) (s : State) : (setFence n v s).tclk = s.tclk := rfl
@[simp] theorem setFence_regs (n : Nat) (v : Fence) (s : State) : (setFence n v s).regs = s.regs := rfl
@[simp] theorem setFence_lastRead (n : Nat) (v : Fence) (s : State) : (setFence n v s).lastRead = s.lastRead := rfl
@[simp] theorem setFence_latched (n : Nat) (v : Fence) (s : State) : (setFence n v s).latched = s.latched := rfl
@[simp] theorem setFence_errDpa (n : Nat) (v : Fence) (s : State) : (setFence n v s).errDpa = s.errDpa := rfl
@[simp] theorem setFence_damaged (n : Nat) (v : Fence) (s : State) : (setFence n v s).damaged = s.damaged := rfl
@[simp] theorem setFence_lb (n : Nat) (v : Fence) (s : State) : (setFence n v s).lb = s.lb := rfl
@[simp] theorem setFence_mem (n : Nat) (v : Fence) (s : State) : (setFence n v s).mem = s.mem := rfl
@[simp] theorem setFence_tu (n : Nat) (v : Fence) (s : State) : (setFence n v s).tu = s.tu := rfl
@[simp] theorem setFence_gm (n : Nat) (v : Fence) (s : State) : (setFence n v s).gm = s.gm := rfl
@[simp] theorem setFence_ch (n : Nat) (v : Fence) (s : State) : (setFence n v s).ch = s.ch := rfl
@[simp] theorem setFence_qy (n : Nat) (v : Fence) (s : State) : (setFence n v s).qy = s.qy := rfl
@[simp] theorem setFence_hl (n : Nat) (v : Fence) (s : State) : (setFence n v s).hl = s.hl := rfl
@[simp] theorem setFence_st (n : Nat) (v : Fence) (s : State) : (setFence n v s).st = s.st := rfl
@[simp] theorem setFence_gw (n : Nat) (v : Fence) (s : State) : (setFence n v s).gw = s.gw := rfl
@[simp] theorem setFence_sp (n : Nat) (v : Fence) (s : State) : (setFence n v s).sp = s.sp := rfl
@[simp] theorem setFence_hm (n : Nat) (v : Fence) (s : State) : (setFence n v s).hm = s.hm := rfl
@[simp] theorem setFence_ec (n : Nat) (v : Fence) (s : State) : (setFence n v s).ec = s.ec := rfl
@[simp] theorem setFence_sl (n : Nat) (v : Fence) (s : State) : (setFence n v s).sl = s.sl := rfl
@[simp] theorem setFence_tg (n : Nat) (v : Fence) (s : State) : (setFence n v s).tg = s.tg := rfl
@[simp] theorem setFence_out (n : Nat) (v : Fence) (s : State) : (setFence n v s).out = s.out := rfl
@[simp] theorem setFence_fresh (n : Nat) (v : Fence) (s : State) : (setFence n v s).fresh = s.fresh := rfl
@[simp] theorem setFence_pending (n : Nat) (v : Fence) (s : State) : (setFence n v s).pending = s.pending := rfl

/-! ### updBerth -/

@[simp] theorem updBerth_fuses (b : Nat) (f : Berth → Berth) (s : State) : (updBerth b f s).fuses = s.fuses := rfl
@[simp] theorem updBerth_time (b : Nat) (f : Berth → Berth) (s : State) : (updBerth b f s).time = s.time := rfl
@[simp] theorem updBerth_tclk (b : Nat) (f : Berth → Berth) (s : State) : (updBerth b f s).tclk = s.tclk := rfl
@[simp] theorem updBerth_regs (b : Nat) (f : Berth → Berth) (s : State) : (updBerth b f s).regs = s.regs := rfl
@[simp] theorem updBerth_lastRead (b : Nat) (f : Berth → Berth) (s : State) : (updBerth b f s).lastRead = s.lastRead := rfl
@[simp] theorem updBerth_latched (b : Nat) (f : Berth → Berth) (s : State) : (updBerth b f s).latched = s.latched := rfl
@[simp] theorem updBerth_errDpa (b : Nat) (f : Berth → Berth) (s : State) : (updBerth b f s).errDpa = s.errDpa := rfl
@[simp] theorem updBerth_damaged (b : Nat) (f : Berth → Berth) (s : State) : (updBerth b f s).damaged = s.damaged := rfl
@[simp] theorem updBerth_lb (b : Nat) (f : Berth → Berth) (s : State) : (updBerth b f s).lb = s.lb := rfl
@[simp] theorem updBerth_mem (b : Nat) (f : Berth → Berth) (s : State) : (updBerth b f s).mem = s.mem := rfl
@[simp] theorem updBerth_qe (b : Nat) (f : Berth → Berth) (s : State) : (updBerth b f s).qe = s.qe := rfl
@[simp] theorem updBerth_tu (b : Nat) (f : Berth → Berth) (s : State) : (updBerth b f s).tu = s.tu := rfl
@[simp] theorem updBerth_gm (b : Nat) (f : Berth → Berth) (s : State) : (updBerth b f s).gm = s.gm := rfl
@[simp] theorem updBerth_ch (b : Nat) (f : Berth → Berth) (s : State) : (updBerth b f s).ch = s.ch := rfl
@[simp] theorem updBerth_hl (b : Nat) (f : Berth → Berth) (s : State) : (updBerth b f s).hl = s.hl := rfl
@[simp] theorem updBerth_st (b : Nat) (f : Berth → Berth) (s : State) : (updBerth b f s).st = s.st := rfl
@[simp] theorem updBerth_gw (b : Nat) (f : Berth → Berth) (s : State) : (updBerth b f s).gw = s.gw := rfl
@[simp] theorem updBerth_sp (b : Nat) (f : Berth → Berth) (s : State) : (updBerth b f s).sp = s.sp := rfl
@[simp] theorem updBerth_hm (b : Nat) (f : Berth → Berth) (s : State) : (updBerth b f s).hm = s.hm := rfl
@[simp] theorem updBerth_ec (b : Nat) (f : Berth → Berth) (s : State) : (updBerth b f s).ec = s.ec := rfl
@[simp] theorem updBerth_sl (b : Nat) (f : Berth → Berth) (s : State) : (updBerth b f s).sl = s.sl := rfl
@[simp] theorem updBerth_tg (b : Nat) (f : Berth → Berth) (s : State) : (updBerth b f s).tg = s.tg := rfl
@[simp] theorem updBerth_out (b : Nat) (f : Berth → Berth) (s : State) : (updBerth b f s).out = s.out := rfl
@[simp] theorem updBerth_fresh (b : Nat) (f : Berth → Berth) (s : State) : (updBerth b f s).fresh = s.fresh := rfl
@[simp] theorem updBerth_pending (b : Nat) (f : Berth → Berth) (s : State) : (updBerth b f s).pending = s.pending := rfl

/-! ### setEng -/

@[simp] theorem setEng_fuses (e : Nat) (x : Eng) (s : State) : (setEng e x s).fuses = s.fuses := rfl
@[simp] theorem setEng_time (e : Nat) (x : Eng) (s : State) : (setEng e x s).time = s.time := rfl
@[simp] theorem setEng_tclk (e : Nat) (x : Eng) (s : State) : (setEng e x s).tclk = s.tclk := rfl
@[simp] theorem setEng_regs (e : Nat) (x : Eng) (s : State) : (setEng e x s).regs = s.regs := rfl
@[simp] theorem setEng_lastRead (e : Nat) (x : Eng) (s : State) : (setEng e x s).lastRead = s.lastRead := rfl
@[simp] theorem setEng_latched (e : Nat) (x : Eng) (s : State) : (setEng e x s).latched = s.latched := rfl
@[simp] theorem setEng_errDpa (e : Nat) (x : Eng) (s : State) : (setEng e x s).errDpa = s.errDpa := rfl
@[simp] theorem setEng_damaged (e : Nat) (x : Eng) (s : State) : (setEng e x s).damaged = s.damaged := rfl
@[simp] theorem setEng_lb (e : Nat) (x : Eng) (s : State) : (setEng e x s).lb = s.lb := rfl
@[simp] theorem setEng_mem (e : Nat) (x : Eng) (s : State) : (setEng e x s).mem = s.mem := rfl
@[simp] theorem setEng_qe (e : Nat) (x : Eng) (s : State) : (setEng e x s).qe = s.qe := rfl
@[simp] theorem setEng_tu (e : Nat) (x : Eng) (s : State) : (setEng e x s).tu = s.tu := rfl
@[simp] theorem setEng_gm (e : Nat) (x : Eng) (s : State) : (setEng e x s).gm = s.gm := rfl
@[simp] theorem setEng_qy (e : Nat) (x : Eng) (s : State) : (setEng e x s).qy = s.qy := rfl
@[simp] theorem setEng_hl (e : Nat) (x : Eng) (s : State) : (setEng e x s).hl = s.hl := rfl
@[simp] theorem setEng_st (e : Nat) (x : Eng) (s : State) : (setEng e x s).st = s.st := rfl
@[simp] theorem setEng_gw (e : Nat) (x : Eng) (s : State) : (setEng e x s).gw = s.gw := rfl
@[simp] theorem setEng_sp (e : Nat) (x : Eng) (s : State) : (setEng e x s).sp = s.sp := rfl
@[simp] theorem setEng_hm (e : Nat) (x : Eng) (s : State) : (setEng e x s).hm = s.hm := rfl
@[simp] theorem setEng_ec (e : Nat) (x : Eng) (s : State) : (setEng e x s).ec = s.ec := rfl
@[simp] theorem setEng_sl (e : Nat) (x : Eng) (s : State) : (setEng e x s).sl = s.sl := rfl
@[simp] theorem setEng_tg (e : Nat) (x : Eng) (s : State) : (setEng e x s).tg = s.tg := rfl
@[simp] theorem setEng_out (e : Nat) (x : Eng) (s : State) : (setEng e x s).out = s.out := rfl
@[simp] theorem setEng_fresh (e : Nat) (x : Eng) (s : State) : (setEng e x s).fresh = s.fresh := rfl
@[simp] theorem setEng_pending (e : Nat) (x : Eng) (s : State) : (setEng e x s).pending = s.pending := rfl

/-! ### updRun -/

@[simp] theorem updRun_fuses (k : Nat) (f : Run → Run) (s : State) : (updRun k f s).fuses = s.fuses := rfl
@[simp] theorem updRun_time (k : Nat) (f : Run → Run) (s : State) : (updRun k f s).time = s.time := rfl
@[simp] theorem updRun_tclk (k : Nat) (f : Run → Run) (s : State) : (updRun k f s).tclk = s.tclk := rfl
@[simp] theorem updRun_regs (k : Nat) (f : Run → Run) (s : State) : (updRun k f s).regs = s.regs := rfl
@[simp] theorem updRun_lastRead (k : Nat) (f : Run → Run) (s : State) : (updRun k f s).lastRead = s.lastRead := rfl
@[simp] theorem updRun_latched (k : Nat) (f : Run → Run) (s : State) : (updRun k f s).latched = s.latched := rfl
@[simp] theorem updRun_errDpa (k : Nat) (f : Run → Run) (s : State) : (updRun k f s).errDpa = s.errDpa := rfl
@[simp] theorem updRun_damaged (k : Nat) (f : Run → Run) (s : State) : (updRun k f s).damaged = s.damaged := rfl
@[simp] theorem updRun_lb (k : Nat) (f : Run → Run) (s : State) : (updRun k f s).lb = s.lb := rfl
@[simp] theorem updRun_mem (k : Nat) (f : Run → Run) (s : State) : (updRun k f s).mem = s.mem := rfl
@[simp] theorem updRun_qe (k : Nat) (f : Run → Run) (s : State) : (updRun k f s).qe = s.qe := rfl
@[simp] theorem updRun_tu (k : Nat) (f : Run → Run) (s : State) : (updRun k f s).tu = s.tu := rfl
@[simp] theorem updRun_gm (k : Nat) (f : Run → Run) (s : State) : (updRun k f s).gm = s.gm := rfl
@[simp] theorem updRun_qy (k : Nat) (f : Run → Run) (s : State) : (updRun k f s).qy = s.qy := rfl
@[simp] theorem updRun_hl (k : Nat) (f : Run → Run) (s : State) : (updRun k f s).hl = s.hl := rfl
@[simp] theorem updRun_st (k : Nat) (f : Run → Run) (s : State) : (updRun k f s).st = s.st := rfl
@[simp] theorem updRun_gw (k : Nat) (f : Run → Run) (s : State) : (updRun k f s).gw = s.gw := rfl
@[simp] theorem updRun_sp (k : Nat) (f : Run → Run) (s : State) : (updRun k f s).sp = s.sp := rfl
@[simp] theorem updRun_hm (k : Nat) (f : Run → Run) (s : State) : (updRun k f s).hm = s.hm := rfl
@[simp] theorem updRun_ec (k : Nat) (f : Run → Run) (s : State) : (updRun k f s).ec = s.ec := rfl
@[simp] theorem updRun_sl (k : Nat) (f : Run → Run) (s : State) : (updRun k f s).sl = s.sl := rfl
@[simp] theorem updRun_tg (k : Nat) (f : Run → Run) (s : State) : (updRun k f s).tg = s.tg := rfl
@[simp] theorem updRun_out (k : Nat) (f : Run → Run) (s : State) : (updRun k f s).out = s.out := rfl
@[simp] theorem updRun_fresh (k : Nat) (f : Run → Run) (s : State) : (updRun k f s).fresh = s.fresh := rfl
@[simp] theorem updRun_pending (k : Nat) (f : Run → Run) (s : State) : (updRun k f s).pending = s.pending := rfl

/-! ### updCluster -/

@[simp] theorem updCluster_fuses (cl : Nat) (f : Cluster → Cluster) (s : State) : (updCluster cl f s).fuses = s.fuses := rfl
@[simp] theorem updCluster_time (cl : Nat) (f : Cluster → Cluster) (s : State) : (updCluster cl f s).time = s.time := rfl
@[simp] theorem updCluster_tclk (cl : Nat) (f : Cluster → Cluster) (s : State) : (updCluster cl f s).tclk = s.tclk := rfl
@[simp] theorem updCluster_regs (cl : Nat) (f : Cluster → Cluster) (s : State) : (updCluster cl f s).regs = s.regs := rfl
@[simp] theorem updCluster_lastRead (cl : Nat) (f : Cluster → Cluster) (s : State) : (updCluster cl f s).lastRead = s.lastRead := rfl
@[simp] theorem updCluster_latched (cl : Nat) (f : Cluster → Cluster) (s : State) : (updCluster cl f s).latched = s.latched := rfl
@[simp] theorem updCluster_errDpa (cl : Nat) (f : Cluster → Cluster) (s : State) : (updCluster cl f s).errDpa = s.errDpa := rfl
@[simp] theorem updCluster_damaged (cl : Nat) (f : Cluster → Cluster) (s : State) : (updCluster cl f s).damaged = s.damaged := rfl
@[simp] theorem updCluster_lb (cl : Nat) (f : Cluster → Cluster) (s : State) : (updCluster cl f s).lb = s.lb := rfl
@[simp] theorem updCluster_mem (cl : Nat) (f : Cluster → Cluster) (s : State) : (updCluster cl f s).mem = s.mem := rfl
@[simp] theorem updCluster_qe (cl : Nat) (f : Cluster → Cluster) (s : State) : (updCluster cl f s).qe = s.qe := rfl
@[simp] theorem updCluster_tu (cl : Nat) (f : Cluster → Cluster) (s : State) : (updCluster cl f s).tu = s.tu := rfl
@[simp] theorem updCluster_gm (cl : Nat) (f : Cluster → Cluster) (s : State) : (updCluster cl f s).gm = s.gm := rfl
@[simp] theorem updCluster_qy (cl : Nat) (f : Cluster → Cluster) (s : State) : (updCluster cl f s).qy = s.qy := rfl
@[simp] theorem updCluster_hl (cl : Nat) (f : Cluster → Cluster) (s : State) : (updCluster cl f s).hl = s.hl := rfl
@[simp] theorem updCluster_st (cl : Nat) (f : Cluster → Cluster) (s : State) : (updCluster cl f s).st = s.st := rfl
@[simp] theorem updCluster_gw (cl : Nat) (f : Cluster → Cluster) (s : State) : (updCluster cl f s).gw = s.gw := rfl
@[simp] theorem updCluster_sp (cl : Nat) (f : Cluster → Cluster) (s : State) : (updCluster cl f s).sp = s.sp := rfl
@[simp] theorem updCluster_hm (cl : Nat) (f : Cluster → Cluster) (s : State) : (updCluster cl f s).hm = s.hm := rfl
@[simp] theorem updCluster_ec (cl : Nat) (f : Cluster → Cluster) (s : State) : (updCluster cl f s).ec = s.ec := rfl
@[simp] theorem updCluster_sl (cl : Nat) (f : Cluster → Cluster) (s : State) : (updCluster cl f s).sl = s.sl := rfl
@[simp] theorem updCluster_tg (cl : Nat) (f : Cluster → Cluster) (s : State) : (updCluster cl f s).tg = s.tg := rfl
@[simp] theorem updCluster_out (cl : Nat) (f : Cluster → Cluster) (s : State) : (updCluster cl f s).out = s.out := rfl
@[simp] theorem updCluster_fresh (cl : Nat) (f : Cluster → Cluster) (s : State) : (updCluster cl f s).fresh = s.fresh := rfl
@[simp] theorem updCluster_pending (cl : Nat) (f : Cluster → Cluster) (s : State) : (updCluster cl f s).pending = s.pending := rfl

/-! ### updLink -/

@[simp] theorem updLink_fuses (l : Nat) (f : Link → Link) (s : State) : (updLink l f s).fuses = s.fuses := rfl
@[simp] theorem updLink_time (l : Nat) (f : Link → Link) (s : State) : (updLink l f s).time = s.time := rfl
@[simp] theorem updLink_tclk (l : Nat) (f : Link → Link) (s : State) : (updLink l f s).tclk = s.tclk := rfl
@[simp] theorem updLink_regs (l : Nat) (f : Link → Link) (s : State) : (updLink l f s).regs = s.regs := rfl
@[simp] theorem updLink_lastRead (l : Nat) (f : Link → Link) (s : State) : (updLink l f s).lastRead = s.lastRead := rfl
@[simp] theorem updLink_latched (l : Nat) (f : Link → Link) (s : State) : (updLink l f s).latched = s.latched := rfl
@[simp] theorem updLink_errDpa (l : Nat) (f : Link → Link) (s : State) : (updLink l f s).errDpa = s.errDpa := rfl
@[simp] theorem updLink_damaged (l : Nat) (f : Link → Link) (s : State) : (updLink l f s).damaged = s.damaged := rfl
@[simp] theorem updLink_lb (l : Nat) (f : Link → Link) (s : State) : (updLink l f s).lb = s.lb := rfl
@[simp] theorem updLink_mem (l : Nat) (f : Link → Link) (s : State) : (updLink l f s).mem = s.mem := rfl
@[simp] theorem updLink_qe (l : Nat) (f : Link → Link) (s : State) : (updLink l f s).qe = s.qe := rfl
@[simp] theorem updLink_tu (l : Nat) (f : Link → Link) (s : State) : (updLink l f s).tu = s.tu := rfl
@[simp] theorem updLink_gm (l : Nat) (f : Link → Link) (s : State) : (updLink l f s).gm = s.gm := rfl
@[simp] theorem updLink_ch (l : Nat) (f : Link → Link) (s : State) : (updLink l f s).ch = s.ch := rfl
@[simp] theorem updLink_qy (l : Nat) (f : Link → Link) (s : State) : (updLink l f s).qy = s.qy := rfl
@[simp] theorem updLink_st (l : Nat) (f : Link → Link) (s : State) : (updLink l f s).st = s.st := rfl
@[simp] theorem updLink_gw (l : Nat) (f : Link → Link) (s : State) : (updLink l f s).gw = s.gw := rfl
@[simp] theorem updLink_sp (l : Nat) (f : Link → Link) (s : State) : (updLink l f s).sp = s.sp := rfl
@[simp] theorem updLink_hm (l : Nat) (f : Link → Link) (s : State) : (updLink l f s).hm = s.hm := rfl
@[simp] theorem updLink_ec (l : Nat) (f : Link → Link) (s : State) : (updLink l f s).ec = s.ec := rfl
@[simp] theorem updLink_sl (l : Nat) (f : Link → Link) (s : State) : (updLink l f s).sl = s.sl := rfl
@[simp] theorem updLink_tg (l : Nat) (f : Link → Link) (s : State) : (updLink l f s).tg = s.tg := rfl
@[simp] theorem updLink_out (l : Nat) (f : Link → Link) (s : State) : (updLink l f s).out = s.out := rfl
@[simp] theorem updLink_fresh (l : Nat) (f : Link → Link) (s : State) : (updLink l f s).fresh = s.fresh := rfl
@[simp] theorem updLink_pending (l : Nat) (f : Link → Link) (s : State) : (updLink l f s).pending = s.pending := rfl

/-! ### updCore -/

@[simp] theorem updCore_fuses (c : Nat) (f : Core → Core) (s : State) : (updCore c f s).fuses = s.fuses := rfl
@[simp] theorem updCore_time (c : Nat) (f : Core → Core) (s : State) : (updCore c f s).time = s.time := rfl
@[simp] theorem updCore_tclk (c : Nat) (f : Core → Core) (s : State) : (updCore c f s).tclk = s.tclk := rfl
@[simp] theorem updCore_regs (c : Nat) (f : Core → Core) (s : State) : (updCore c f s).regs = s.regs := rfl
@[simp] theorem updCore_lastRead (c : Nat) (f : Core → Core) (s : State) : (updCore c f s).lastRead = s.lastRead := rfl
@[simp] theorem updCore_latched (c : Nat) (f : Core → Core) (s : State) : (updCore c f s).latched = s.latched := rfl
@[simp] theorem updCore_errDpa (c : Nat) (f : Core → Core) (s : State) : (updCore c f s).errDpa = s.errDpa := rfl
@[simp] theorem updCore_damaged (c : Nat) (f : Core → Core) (s : State) : (updCore c f s).damaged = s.damaged := rfl
@[simp] theorem updCore_lb (c : Nat) (f : Core → Core) (s : State) : (updCore c f s).lb = s.lb := rfl
@[simp] theorem updCore_mem (c : Nat) (f : Core → Core) (s : State) : (updCore c f s).mem = s.mem := rfl
@[simp] theorem updCore_qe (c : Nat) (f : Core → Core) (s : State) : (updCore c f s).qe = s.qe := rfl
@[simp] theorem updCore_tu (c : Nat) (f : Core → Core) (s : State) : (updCore c f s).tu = s.tu := rfl
@[simp] theorem updCore_gm (c : Nat) (f : Core → Core) (s : State) : (updCore c f s).gm = s.gm := rfl
@[simp] theorem updCore_ch (c : Nat) (f : Core → Core) (s : State) : (updCore c f s).ch = s.ch := rfl
@[simp] theorem updCore_qy (c : Nat) (f : Core → Core) (s : State) : (updCore c f s).qy = s.qy := rfl
@[simp] theorem updCore_hl (c : Nat) (f : Core → Core) (s : State) : (updCore c f s).hl = s.hl := rfl
@[simp] theorem updCore_st (c : Nat) (f : Core → Core) (s : State) : (updCore c f s).st = s.st := rfl
@[simp] theorem updCore_gw (c : Nat) (f : Core → Core) (s : State) : (updCore c f s).gw = s.gw := rfl
@[simp] theorem updCore_sp (c : Nat) (f : Core → Core) (s : State) : (updCore c f s).sp = s.sp := rfl
@[simp] theorem updCore_ec (c : Nat) (f : Core → Core) (s : State) : (updCore c f s).ec = s.ec := rfl
@[simp] theorem updCore_sl (c : Nat) (f : Core → Core) (s : State) : (updCore c f s).sl = s.sl := rfl
@[simp] theorem updCore_tg (c : Nat) (f : Core → Core) (s : State) : (updCore c f s).tg = s.tg := rfl
@[simp] theorem updCore_out (c : Nat) (f : Core → Core) (s : State) : (updCore c f s).out = s.out := rfl
@[simp] theorem updCore_fresh (c : Nat) (f : Core → Core) (s : State) : (updCore c f s).fresh = s.fresh := rfl
@[simp] theorem updCore_pending (c : Nat) (f : Core → Core) (s : State) : (updCore c f s).pending = s.pending := rfl

/-! ### updChan -/

@[simp] theorem updChan_fuses (c : Nat) (f : Chan → Chan) (s : State) : (updChan c f s).fuses = s.fuses := rfl
@[simp] theorem updChan_time (c : Nat) (f : Chan → Chan) (s : State) : (updChan c f s).time = s.time := rfl
@[simp] theorem updChan_tclk (c : Nat) (f : Chan → Chan) (s : State) : (updChan c f s).tclk = s.tclk := rfl
@[simp] theorem updChan_regs (c : Nat) (f : Chan → Chan) (s : State) : (updChan c f s).regs = s.regs := rfl
@[simp] theorem updChan_lastRead (c : Nat) (f : Chan → Chan) (s : State) : (updChan c f s).lastRead = s.lastRead := rfl
@[simp] theorem updChan_latched (c : Nat) (f : Chan → Chan) (s : State) : (updChan c f s).latched = s.latched := rfl
@[simp] theorem updChan_errDpa (c : Nat) (f : Chan → Chan) (s : State) : (updChan c f s).errDpa = s.errDpa := rfl
@[simp] theorem updChan_damaged (c : Nat) (f : Chan → Chan) (s : State) : (updChan c f s).damaged = s.damaged := rfl
@[simp] theorem updChan_lb (c : Nat) (f : Chan → Chan) (s : State) : (updChan c f s).lb = s.lb := rfl
@[simp] theorem updChan_mem (c : Nat) (f : Chan → Chan) (s : State) : (updChan c f s).mem = s.mem := rfl
@[simp] theorem updChan_qe (c : Nat) (f : Chan → Chan) (s : State) : (updChan c f s).qe = s.qe := rfl
@[simp] theorem updChan_tu (c : Nat) (f : Chan → Chan) (s : State) : (updChan c f s).tu = s.tu := rfl
@[simp] theorem updChan_gm (c : Nat) (f : Chan → Chan) (s : State) : (updChan c f s).gm = s.gm := rfl
@[simp] theorem updChan_ch (c : Nat) (f : Chan → Chan) (s : State) : (updChan c f s).ch = s.ch := rfl
@[simp] theorem updChan_qy (c : Nat) (f : Chan → Chan) (s : State) : (updChan c f s).qy = s.qy := rfl
@[simp] theorem updChan_hl (c : Nat) (f : Chan → Chan) (s : State) : (updChan c f s).hl = s.hl := rfl
@[simp] theorem updChan_gw (c : Nat) (f : Chan → Chan) (s : State) : (updChan c f s).gw = s.gw := rfl
@[simp] theorem updChan_sp (c : Nat) (f : Chan → Chan) (s : State) : (updChan c f s).sp = s.sp := rfl
@[simp] theorem updChan_hm (c : Nat) (f : Chan → Chan) (s : State) : (updChan c f s).hm = s.hm := rfl
@[simp] theorem updChan_ec (c : Nat) (f : Chan → Chan) (s : State) : (updChan c f s).ec = s.ec := rfl
@[simp] theorem updChan_sl (c : Nat) (f : Chan → Chan) (s : State) : (updChan c f s).sl = s.sl := rfl
@[simp] theorem updChan_tg (c : Nat) (f : Chan → Chan) (s : State) : (updChan c f s).tg = s.tg := rfl
@[simp] theorem updChan_out (c : Nat) (f : Chan → Chan) (s : State) : (updChan c f s).out = s.out := rfl
@[simp] theorem updChan_fresh (c : Nat) (f : Chan → Chan) (s : State) : (updChan c f s).fresh = s.fresh := rfl
@[simp] theorem updChan_pending (c : Nat) (f : Chan → Chan) (s : State) : (updChan c f s).pending = s.pending := rfl

/-! ### setMover -/

@[simp] theorem setMover_fuses (m : Nat) (j : Job) (s : State) : (setMover m j s).fuses = s.fuses := rfl
@[simp] theorem setMover_time (m : Nat) (j : Job) (s : State) : (setMover m j s).time = s.time := rfl
@[simp] theorem setMover_tclk (m : Nat) (j : Job) (s : State) : (setMover m j s).tclk = s.tclk := rfl
@[simp] theorem setMover_regs (m : Nat) (j : Job) (s : State) : (setMover m j s).regs = s.regs := rfl
@[simp] theorem setMover_lastRead (m : Nat) (j : Job) (s : State) : (setMover m j s).lastRead = s.lastRead := rfl
@[simp] theorem setMover_latched (m : Nat) (j : Job) (s : State) : (setMover m j s).latched = s.latched := rfl
@[simp] theorem setMover_errDpa (m : Nat) (j : Job) (s : State) : (setMover m j s).errDpa = s.errDpa := rfl
@[simp] theorem setMover_damaged (m : Nat) (j : Job) (s : State) : (setMover m j s).damaged = s.damaged := rfl
@[simp] theorem setMover_lb (m : Nat) (j : Job) (s : State) : (setMover m j s).lb = s.lb := rfl
@[simp] theorem setMover_mem (m : Nat) (j : Job) (s : State) : (setMover m j s).mem = s.mem := rfl
@[simp] theorem setMover_qe (m : Nat) (j : Job) (s : State) : (setMover m j s).qe = s.qe := rfl
@[simp] theorem setMover_tu (m : Nat) (j : Job) (s : State) : (setMover m j s).tu = s.tu := rfl
@[simp] theorem setMover_ch (m : Nat) (j : Job) (s : State) : (setMover m j s).ch = s.ch := rfl
@[simp] theorem setMover_qy (m : Nat) (j : Job) (s : State) : (setMover m j s).qy = s.qy := rfl
@[simp] theorem setMover_hl (m : Nat) (j : Job) (s : State) : (setMover m j s).hl = s.hl := rfl
@[simp] theorem setMover_st (m : Nat) (j : Job) (s : State) : (setMover m j s).st = s.st := rfl
@[simp] theorem setMover_gw (m : Nat) (j : Job) (s : State) : (setMover m j s).gw = s.gw := rfl
@[simp] theorem setMover_sp (m : Nat) (j : Job) (s : State) : (setMover m j s).sp = s.sp := rfl
@[simp] theorem setMover_hm (m : Nat) (j : Job) (s : State) : (setMover m j s).hm = s.hm := rfl
@[simp] theorem setMover_ec (m : Nat) (j : Job) (s : State) : (setMover m j s).ec = s.ec := rfl
@[simp] theorem setMover_sl (m : Nat) (j : Job) (s : State) : (setMover m j s).sl = s.sl := rfl
@[simp] theorem setMover_tg (m : Nat) (j : Job) (s : State) : (setMover m j s).tg = s.tg := rfl
@[simp] theorem setMover_out (m : Nat) (j : Job) (s : State) : (setMover m j s).out = s.out := rfl
@[simp] theorem setMover_fresh (m : Nat) (j : Job) (s : State) : (setMover m j s).fresh = s.fresh := rfl
@[simp] theorem setMover_pending (m : Nat) (j : Job) (s : State) : (setMover m j s).pending = s.pending := rfl

/-! ### setLaneJob -/

@[simp] theorem setLaneJob_fuses (l : Nat) (j : Job) (s : State) : (setLaneJob l j s).fuses = s.fuses := rfl
@[simp] theorem setLaneJob_time (l : Nat) (j : Job) (s : State) : (setLaneJob l j s).time = s.time := rfl
@[simp] theorem setLaneJob_tclk (l : Nat) (j : Job) (s : State) : (setLaneJob l j s).tclk = s.tclk := rfl
@[simp] theorem setLaneJob_regs (l : Nat) (j : Job) (s : State) : (setLaneJob l j s).regs = s.regs := rfl
@[simp] theorem setLaneJob_lastRead (l : Nat) (j : Job) (s : State) : (setLaneJob l j s).lastRead = s.lastRead := rfl
@[simp] theorem setLaneJob_latched (l : Nat) (j : Job) (s : State) : (setLaneJob l j s).latched = s.latched := rfl
@[simp] theorem setLaneJob_errDpa (l : Nat) (j : Job) (s : State) : (setLaneJob l j s).errDpa = s.errDpa := rfl
@[simp] theorem setLaneJob_damaged (l : Nat) (j : Job) (s : State) : (setLaneJob l j s).damaged = s.damaged := rfl
@[simp] theorem setLaneJob_lb (l : Nat) (j : Job) (s : State) : (setLaneJob l j s).lb = s.lb := rfl
@[simp] theorem setLaneJob_mem (l : Nat) (j : Job) (s : State) : (setLaneJob l j s).mem = s.mem := rfl
@[simp] theorem setLaneJob_qe (l : Nat) (j : Job) (s : State) : (setLaneJob l j s).qe = s.qe := rfl
@[simp] theorem setLaneJob_tu (l : Nat) (j : Job) (s : State) : (setLaneJob l j s).tu = s.tu := rfl
@[simp] theorem setLaneJob_ch (l : Nat) (j : Job) (s : State) : (setLaneJob l j s).ch = s.ch := rfl
@[simp] theorem setLaneJob_qy (l : Nat) (j : Job) (s : State) : (setLaneJob l j s).qy = s.qy := rfl
@[simp] theorem setLaneJob_hl (l : Nat) (j : Job) (s : State) : (setLaneJob l j s).hl = s.hl := rfl
@[simp] theorem setLaneJob_st (l : Nat) (j : Job) (s : State) : (setLaneJob l j s).st = s.st := rfl
@[simp] theorem setLaneJob_gw (l : Nat) (j : Job) (s : State) : (setLaneJob l j s).gw = s.gw := rfl
@[simp] theorem setLaneJob_sp (l : Nat) (j : Job) (s : State) : (setLaneJob l j s).sp = s.sp := rfl
@[simp] theorem setLaneJob_hm (l : Nat) (j : Job) (s : State) : (setLaneJob l j s).hm = s.hm := rfl
@[simp] theorem setLaneJob_ec (l : Nat) (j : Job) (s : State) : (setLaneJob l j s).ec = s.ec := rfl
@[simp] theorem setLaneJob_sl (l : Nat) (j : Job) (s : State) : (setLaneJob l j s).sl = s.sl := rfl
@[simp] theorem setLaneJob_tg (l : Nat) (j : Job) (s : State) : (setLaneJob l j s).tg = s.tg := rfl
@[simp] theorem setLaneJob_out (l : Nat) (j : Job) (s : State) : (setLaneJob l j s).out = s.out := rfl
@[simp] theorem setLaneJob_fresh (l : Nat) (j : Job) (s : State) : (setLaneJob l j s).fresh = s.fresh := rfl
@[simp] theorem setLaneJob_pending (l : Nat) (j : Job) (s : State) : (setLaneJob l j s).pending = s.pending := rfl

/-! ### setPlan -/

@[simp] theorem setPlan_fuses (p : Plan) (s : State) : (setPlan p s).fuses = s.fuses := rfl
@[simp] theorem setPlan_time (p : Plan) (s : State) : (setPlan p s).time = s.time := rfl
@[simp] theorem setPlan_tclk (p : Plan) (s : State) : (setPlan p s).tclk = s.tclk := rfl
@[simp] theorem setPlan_regs (p : Plan) (s : State) : (setPlan p s).regs = s.regs := rfl
@[simp] theorem setPlan_lastRead (p : Plan) (s : State) : (setPlan p s).lastRead = s.lastRead := rfl
@[simp] theorem setPlan_latched (p : Plan) (s : State) : (setPlan p s).latched = s.latched := rfl
@[simp] theorem setPlan_errDpa (p : Plan) (s : State) : (setPlan p s).errDpa = s.errDpa := rfl
@[simp] theorem setPlan_damaged (p : Plan) (s : State) : (setPlan p s).damaged = s.damaged := rfl
@[simp] theorem setPlan_lb (p : Plan) (s : State) : (setPlan p s).lb = s.lb := rfl
@[simp] theorem setPlan_mem (p : Plan) (s : State) : (setPlan p s).mem = s.mem := rfl
@[simp] theorem setPlan_qe (p : Plan) (s : State) : (setPlan p s).qe = s.qe := rfl
@[simp] theorem setPlan_gm (p : Plan) (s : State) : (setPlan p s).gm = s.gm := rfl
@[simp] theorem setPlan_ch (p : Plan) (s : State) : (setPlan p s).ch = s.ch := rfl
@[simp] theorem setPlan_qy (p : Plan) (s : State) : (setPlan p s).qy = s.qy := rfl
@[simp] theorem setPlan_hl (p : Plan) (s : State) : (setPlan p s).hl = s.hl := rfl
@[simp] theorem setPlan_st (p : Plan) (s : State) : (setPlan p s).st = s.st := rfl
@[simp] theorem setPlan_gw (p : Plan) (s : State) : (setPlan p s).gw = s.gw := rfl
@[simp] theorem setPlan_sp (p : Plan) (s : State) : (setPlan p s).sp = s.sp := rfl
@[simp] theorem setPlan_hm (p : Plan) (s : State) : (setPlan p s).hm = s.hm := rfl
@[simp] theorem setPlan_ec (p : Plan) (s : State) : (setPlan p s).ec = s.ec := rfl
@[simp] theorem setPlan_sl (p : Plan) (s : State) : (setPlan p s).sl = s.sl := rfl
@[simp] theorem setPlan_tg (p : Plan) (s : State) : (setPlan p s).tg = s.tg := rfl
@[simp] theorem setPlan_out (p : Plan) (s : State) : (setPlan p s).out = s.out := rfl
@[simp] theorem setPlan_fresh (p : Plan) (s : State) : (setPlan p s).fresh = s.fresh := rfl
@[simp] theorem setPlan_pending (p : Plan) (s : State) : (setPlan p s).pending = s.pending := rfl

/-! ### dropPlan -/

@[simp] theorem dropPlan_fuses (w : Who) (s : State) : (dropPlan w s).fuses = s.fuses := rfl
@[simp] theorem dropPlan_time (w : Who) (s : State) : (dropPlan w s).time = s.time := rfl
@[simp] theorem dropPlan_tclk (w : Who) (s : State) : (dropPlan w s).tclk = s.tclk := rfl
@[simp] theorem dropPlan_regs (w : Who) (s : State) : (dropPlan w s).regs = s.regs := rfl
@[simp] theorem dropPlan_lastRead (w : Who) (s : State) : (dropPlan w s).lastRead = s.lastRead := rfl
@[simp] theorem dropPlan_latched (w : Who) (s : State) : (dropPlan w s).latched = s.latched := rfl
@[simp] theorem dropPlan_errDpa (w : Who) (s : State) : (dropPlan w s).errDpa = s.errDpa := rfl
@[simp] theorem dropPlan_damaged (w : Who) (s : State) : (dropPlan w s).damaged = s.damaged := rfl
@[simp] theorem dropPlan_lb (w : Who) (s : State) : (dropPlan w s).lb = s.lb := rfl
@[simp] theorem dropPlan_mem (w : Who) (s : State) : (dropPlan w s).mem = s.mem := rfl
@[simp] theorem dropPlan_qe (w : Who) (s : State) : (dropPlan w s).qe = s.qe := rfl
@[simp] theorem dropPlan_gm (w : Who) (s : State) : (dropPlan w s).gm = s.gm := rfl
@[simp] theorem dropPlan_ch (w : Who) (s : State) : (dropPlan w s).ch = s.ch := rfl
@[simp] theorem dropPlan_qy (w : Who) (s : State) : (dropPlan w s).qy = s.qy := rfl
@[simp] theorem dropPlan_hl (w : Who) (s : State) : (dropPlan w s).hl = s.hl := rfl
@[simp] theorem dropPlan_st (w : Who) (s : State) : (dropPlan w s).st = s.st := rfl
@[simp] theorem dropPlan_gw (w : Who) (s : State) : (dropPlan w s).gw = s.gw := rfl
@[simp] theorem dropPlan_sp (w : Who) (s : State) : (dropPlan w s).sp = s.sp := rfl
@[simp] theorem dropPlan_hm (w : Who) (s : State) : (dropPlan w s).hm = s.hm := rfl
@[simp] theorem dropPlan_ec (w : Who) (s : State) : (dropPlan w s).ec = s.ec := rfl
@[simp] theorem dropPlan_sl (w : Who) (s : State) : (dropPlan w s).sl = s.sl := rfl
@[simp] theorem dropPlan_tg (w : Who) (s : State) : (dropPlan w s).tg = s.tg := rfl
@[simp] theorem dropPlan_out (w : Who) (s : State) : (dropPlan w s).out = s.out := rfl
@[simp] theorem dropPlan_fresh (w : Who) (s : State) : (dropPlan w s).fresh = s.fresh := rfl
@[simp] theorem dropPlan_pending (w : Who) (s : State) : (dropPlan w s).pending = s.pending := rfl

/-! ### Reading a register -/

theorem getReg_setReg_self (p : Page) (b o v : Nat) (s : State) : getReg (setReg p b o v s) p b o = v % 2 ^ 32 := by
  by_cases h : p = .tg <;> simp [getReg, setReg, h]

theorem getReg_setReg_of_ne {p q : Page} {b c o r : Nat} (v : Nat) (s : State) (h : regKey q c r ≠ regKey p b o) :
    getReg (setReg p b o v s) q c r = getReg s q c r := by
  by_cases hp : p = .tg <;> by_cases hq : q = .tg <;> simp [getReg, setReg, hp, hq] <;>
    (try subst hp) <;> (try subst hq) <;> simp [mget_mset_of_ne, h, regReset]

@[simp] theorem emit_getReg (o : Out) (s : State) (pg : Page) (bk ro : Nat) : getReg (emit o s) pg bk ro = getReg s pg bk ro := rfl
@[simp] theorem draw_getReg (s : State) (pg : Page) (bk ro : Nat) : getReg ((draw s).2) pg bk ro = getReg s pg bk ro := rfl
@[simp] theorem updCmd_getReg (k : Nat) (f : Cmd → Cmd) (s : State) (pg : Page) (bk ro : Nat) : getReg (updCmd k f s) pg bk ro = getReg s pg bk ro := rfl
@[simp] theorem finish_getReg (k st d n a : Nat) (s : State) (pg : Page) (bk ro : Nat) : getReg (finish k st d n a s) pg bk ro = getReg s pg bk ro := rfl
@[simp] theorem notePoison_getReg (k a d : Nat) (s : State) (pg : Page) (bk ro : Nat) : getReg (notePoison k a d s) pg bk ro = getReg s pg bk ro := rfl
@[simp] theorem updSq_getReg (q : Nat) (f : Sq → Sq) (s : State) (pg : Page) (bk ro : Nat) : getReg (updSq q f s) pg bk ro = getReg s pg bk ro := rfl
@[simp] theorem updCq_getReg (q : Nat) (f : Cq → Cq) (s : State) (pg : Page) (bk ro : Nat) : getReg (updCq q f s) pg bk ro = getReg s pg bk ro := rfl
@[simp] theorem setFence_getReg (n : Nat) (v : Fence) (s : State) (pg : Page) (bk ro : Nat) : getReg (setFence n v s) pg bk ro = getReg s pg bk ro := rfl
@[simp] theorem updBerth_getReg (b : Nat) (f : Berth → Berth) (s : State) (pg : Page) (bk ro : Nat) : getReg (updBerth b f s) pg bk ro = getReg s pg bk ro := rfl
@[simp] theorem setEng_getReg (e : Nat) (x : Eng) (s : State) (pg : Page) (bk ro : Nat) : getReg (setEng e x s) pg bk ro = getReg s pg bk ro := rfl
@[simp] theorem updRun_getReg (k : Nat) (f : Run → Run) (s : State) (pg : Page) (bk ro : Nat) : getReg (updRun k f s) pg bk ro = getReg s pg bk ro := rfl
@[simp] theorem updCluster_getReg (cl : Nat) (f : Cluster → Cluster) (s : State) (pg : Page) (bk ro : Nat) : getReg (updCluster cl f s) pg bk ro = getReg s pg bk ro := rfl
@[simp] theorem updLink_getReg (l : Nat) (f : Link → Link) (s : State) (pg : Page) (bk ro : Nat) : getReg (updLink l f s) pg bk ro = getReg s pg bk ro := rfl
@[simp] theorem updCore_getReg (c : Nat) (f : Core → Core) (s : State) (pg : Page) (bk ro : Nat) : getReg (updCore c f s) pg bk ro = getReg s pg bk ro := rfl
@[simp] theorem updChan_getReg (c : Nat) (f : Chan → Chan) (s : State) (pg : Page) (bk ro : Nat) : getReg (updChan c f s) pg bk ro = getReg s pg bk ro := rfl
@[simp] theorem setMover_getReg (m : Nat) (j : Job) (s : State) (pg : Page) (bk ro : Nat) : getReg (setMover m j s) pg bk ro = getReg s pg bk ro := rfl
@[simp] theorem setLaneJob_getReg (l : Nat) (j : Job) (s : State) (pg : Page) (bk ro : Nat) : getReg (setLaneJob l j s) pg bk ro = getReg s pg bk ro := rfl
@[simp] theorem setPlan_getReg (p : Plan) (s : State) (pg : Page) (bk ro : Nat) : getReg (setPlan p s) pg bk ro = getReg s pg bk ro := rfl
@[simp] theorem dropPlan_getReg (w : Who) (s : State) (pg : Page) (bk ro : Nat) : getReg (dropPlan w s) pg bk ro = getReg s pg bk ro := rfl

/-! ### Reading a command -/

@[simp] theorem emit_getCmd (o : Out) (s : State) (kc : Nat) : getCmd (emit o s) kc = getCmd s kc := by simp [getCmd]
@[simp] theorem draw_getCmd (s : State) (kc : Nat) : getCmd ((draw s).2) kc = getCmd s kc := by simp [getCmd]
@[simp] theorem setReg_getCmd (p : Page) (b o v : Nat) (s : State) (kc : Nat) : getCmd (setReg p b o v s) kc = getCmd s kc := by simp [getCmd]
@[simp] theorem bump_getCmd (p : Page) (o n : Nat) (s : State) (kc : Nat) : getCmd (bump p o n s) kc = getCmd s kc := by simp [getCmd]
@[simp] theorem bump64_getCmd (p : Page) (o n : Nat) (s : State) (kc : Nat) : getCmd (bump64 p o n s) kc = getCmd s kc := by simp [getCmd]
@[simp] theorem capErr_getCmd (p : Page) (c : Nat) (o : Origin) (s : State) (kc : Nat) : getCmd (capErr p c o s) kc = getCmd s kc := by simp [getCmd]
@[simp] theorem pendEvent_getCmd (p : Page) (b : Nat) (s : State) (kc : Nat) : getCmd ((pendEvent p b s).1) kc = getCmd s kc := by simp [getCmd]
@[simp] theorem ecSense_getCmd (n m : Nat) (s : State) (kc : Nat) : getCmd (ecSense n m s) kc = getCmd s kc := by simp [getCmd]
@[simp] theorem raise_getCmd (p : Page) (b : Nat) (s : State) (kc : Nat) : getCmd (raise p b s) kc = getCmd s kc := by simp [getCmd]
@[simp] theorem annexTouch_getCmd (s : State) (kc : Nat) : getCmd (annexTouch s) kc = getCmd s kc := by simp [getCmd]
@[simp] theorem logAppend_getCmd (o : Origin) (g : Nat) (p : Option Page) (f a b : Nat) (s : State) (kc : Nat) : getCmd (logAppend o g p f a b s) kc = getCmd s kc := by simp [getCmd]
@[simp] theorem updBerth_getCmd (b : Nat) (f : Berth → Berth) (s : State) (kc : Nat) : getCmd (updBerth b f s) kc = getCmd s kc := by simp [getCmd]
@[simp] theorem setEng_getCmd (e : Nat) (x : Eng) (s : State) (kc : Nat) : getCmd (setEng e x s) kc = getCmd s kc := by simp [getCmd]
@[simp] theorem updRun_getCmd (k : Nat) (f : Run → Run) (s : State) (kc : Nat) : getCmd (updRun k f s) kc = getCmd s kc := by simp [getCmd]
@[simp] theorem updCluster_getCmd (cl : Nat) (f : Cluster → Cluster) (s : State) (kc : Nat) : getCmd (updCluster cl f s) kc = getCmd s kc := by simp [getCmd]
@[simp] theorem updLink_getCmd (l : Nat) (f : Link → Link) (s : State) (kc : Nat) : getCmd (updLink l f s) kc = getCmd s kc := by simp [getCmd]
@[simp] theorem updCore_getCmd (c : Nat) (f : Core → Core) (s : State) (kc : Nat) : getCmd (updCore c f s) kc = getCmd s kc := by simp [getCmd]
@[simp] theorem updChan_getCmd (c : Nat) (f : Chan → Chan) (s : State) (kc : Nat) : getCmd (updChan c f s) kc = getCmd s kc := by simp [getCmd]
@[simp] theorem setMover_getCmd (m : Nat) (j : Job) (s : State) (kc : Nat) : getCmd (setMover m j s) kc = getCmd s kc := by simp [getCmd]
@[simp] theorem setLaneJob_getCmd (l : Nat) (j : Job) (s : State) (kc : Nat) : getCmd (setLaneJob l j s) kc = getCmd s kc := by simp [getCmd]
@[simp] theorem setPlan_getCmd (p : Plan) (s : State) (kc : Nat) : getCmd (setPlan p s) kc = getCmd s kc := by simp [getCmd]
@[simp] theorem dropPlan_getCmd (w : Who) (s : State) (kc : Nat) : getCmd (dropPlan w s) kc = getCmd s kc := by simp [getCmd]
@[simp] theorem updSq_getCmd (q : Nat) (f : Sq → Sq) (s : State) (kc : Nat) : getCmd (updSq q f s) kc = getCmd s kc := rfl
@[simp] theorem updCq_getCmd (q : Nat) (f : Cq → Cq) (s : State) (kc : Nat) : getCmd (updCq q f s) kc = getCmd s kc := rfl
@[simp] theorem setFence_getCmd (n : Nat) (v : Fence) (s : State) (kc : Nat) : getCmd (setFence n v s) kc = getCmd s kc := rfl

@[simp] theorem updCmd_getCmd_self (k : Nat) (f : Cmd → Cmd) (s : State) : getCmd (updCmd k f s) k = (getCmd s k).map f := by
  simp [getCmd, updCmd]

theorem updCmd_getCmd_of_ne {j k : Nat} (h : j ≠ k) (f : Cmd → Cmd) (s : State) : getCmd (updCmd k f s) j = getCmd s j := by
  simp [getCmd, updCmd, mget_mupd, h]

theorem finish_getCmd {s : State} {k : Nat} {c : Cmd} (h : getCmd s k = some c) (hp : c.phase ≠ .finished) (st d n a : Nat) :
    getCmd (finish k st d n a s) k = some { c with phase := .finished, status := st, detail := d, done := n, fault := a } := by
  simp [finish, h, hp]

end Sys2Proof.Machine
end

