-- ==== Sys2Proof/Laws/Memory.lean ====
section
/-! SUPPORT. Every operation that changes device memory keeps its canonical form: a write at a home, the copy of a replica, the
scrub, the trace ring's clearing, the loss of hub SRAM, a whole-die reset; and what a fold of steps leaves alone. -/

namespace Sys2Proof.Machine

/-- What every step of a fold leaves alone, the fold leaves alone. -/
theorem foldl_same {α β : Type} (π : State → β) (l : List α) (g : State → α → State) (s : State) (h : ∀ s x, π (g s x) = π s) :
    π (l.foldl g s) = π s := by
  induction l generalizing s with
  | nil => rfl
  | cons x t ih => rw [List.foldl_cons, ih, h]

theorem Memory.wf_filter {m : List Host.Cell} (h : Memory.wf m) (p : Host.Cell → Bool) : Memory.wf (m.filter p) :=
  ⟨Rising.filter (m := m) h.1 p, fun c hc => h.2 c (List.mem_of_mem_filter hc)⟩

/-- Writing any listed bytes keeps the canonical form. -/
theorem Memory.wf_writes {α : Type} {m : List Host.Cell} (h : Memory.wf m) (l : List α) (a : α → Nat) (v : α → Byte) :
    Memory.wf (l.foldl (fun m x => Memory.write m (a x) (v x)) m) :=
  foldl_keeps Memory.wf _ l m h fun _ _ h => Memory.wf_write h _ _

@[simp] theorem setPoison_bytes (a d : Nat) (s : State) : (setPoison a d s).mem.bytes = s.mem.bytes := rfl

@[simp] theorem ueNote_bytes (a : Nat) (o : Origin) (s : State) : (ueNote a o s).mem.bytes = s.mem.bytes := by simp [ueNote]

@[simp] theorem ceNote_bytes (ph : Nat) (s : State) : (ceNote ph s).mem.bytes = s.mem.bytes := by
  unfold ceNote; dsimp only; split <;> simp

@[simp] theorem corrected_bytes (ph : Nat) (s : State) : (corrected ph s).mem.bytes = s.mem.bytes := by
  unfold corrected; split <;> simp

@[simp] theorem foundEffect_bytes (a : Nat) (o : Origin) (f : Found) (s : State) : (foundEffect a o f s).mem.bytes = s.mem.bytes := by
  unfold foundEffect
  dsimp only
  split
  all_goals simp

@[simp] theorem readRest_bytes (m : Bool) (a t : Nat) (o : Origin) (w : Bool) (s : State) : (readRest m a t o w s).mem.bytes = s.mem.bytes := by
  unfold readRest
  extract_lets ls mac u
  have hu : u.mem.bytes = s.mem.bytes := foldl_same (fun s : State => s.mem.bytes) _ _ s fun s l => by split <;> simp
  split
  · rw [foundEffect_bytes, hu]
  · exact hu

/-- A write into one copy of a line keeps the canonical form. -/
theorem writeCopy_wf {s : State} (k m : Bool) (a t : Nat) (o : Origin) (bs : List PByte) (h : Memory.wf s.mem.bytes) :
    Memory.wf (writeCopy k m a t o bs s).mem.bytes := by
  have hw : ∀ (m : List Host.Cell) (ph : Nat), Memory.wf m → Memory.wf (bs.foldl (fun m b => Memory.write m (ph + b.at_ % 64) b.val) m) :=
    fun m ph h => Memory.wf_writes h _ _ _
  have hk : ∀ (l : List Nat) (u : State), (l.foldl (fun s q => ({ s with mem := { s.mem with poison := mset s.mem.poison q 0 } } : State)) u).mem.bytes = u.mem.bytes :=
    fun l u => foldl_same (fun s : State => s.mem.bytes) l _ u fun _ _ => rfl
  unfold writeCopy
  dsimp only
  repeat' split
  all_goals
    simp only [setPoison_bytes, foundEffect_bytes, readRest_bytes, hk]
    exact hw _ _ h

/-- The loss of hub SRAM keeps the canonical form. -/
theorem loseSram_wf {s : State} (h : Memory.wf s.mem.bytes) : Memory.wf (loseSram s).mem.bytes := by
  simpa [loseSram] using Memory.wf_filter h _

/-- The trace ring's switch keeps the canonical form. -/
theorem traceSwitch_wf {s : State} (old : Nat) (h : Memory.wf s.mem.bytes) : Memory.wf (traceSwitch old s).mem.bytes := by
  unfold traceSwitch
  dsimp only
  split
  · split
    · simpa using h
    · exact h
  · split
    · exact Memory.wf_filter h _
    · exact h

/-- A scrub keeps the canonical form. -/
theorem scrub_wf {s : State} (t : Teardown) (h : Memory.wf s.mem.bytes) : Memory.wf (scrub t s).mem.bytes := Memory.wf_filter h _

/-- The copy of a replica keeps the canonical form. -/
theorem syncCopy_wf {s : State} (b0 bc len : Nat) (h : Memory.wf s.mem.bytes) : Memory.wf (syncCopy b0 bc len s).mem.bytes :=
  Memory.wf_writes (Memory.wf_filter h _) _ (fun c : Host.Cell => place s (dpaAt s c.1 - b0 + bc)) (fun c : Host.Cell => c.2)

/-- What a whole-die reset leaves of device memory is canonical: nothing listed. -/
theorem bare_wf (s : State) : Memory.wf (bare s).mem.bytes := Memory.wf_nil

/-- Memory right after reset is canonical. -/
theorem reset_wf : Memory.wf State.reset.mem.bytes := Memory.wf_nil

end Sys2Proof.Machine
end

