-- ==== Sys2Proof/Laws/Registers.lean ====
section
/-! SUPPORT. What one admitted write of a whole 32-bit register does: its entry in the Logbook, then its value and what it starts. -/

namespace Sys2Proof.Machine

/-! ### Register keys -/

theorem regKey_ne_off {p q : Page} {b c o r : Nat} (h : o % 4096 ≠ r % 4096) : regKey p b o ≠ regKey q c r := by
  intro h'; apply h; unfold regKey at h'; omega

theorem regKey_ne_page {p q : Page} {b c o r : Nat} (h : pageCode p ≠ pageCode q) (hb : b < 65536) (hc : c < 65536) (ho : o < 4096)
    (hr : r < 4096) : regKey p b o ≠ regKey q c r := by
  intro h'; apply h; unfold regKey at h'; omega

theorem getReg_setReg_off {p q : Page} {b c o r : Nat} (v : Nat) (s : State) (h : r % 4096 ≠ o % 4096) :
    getReg (setReg p b o v s) q c r = getReg s q c r := getReg_setReg_of_ne v s (regKey_ne_off h)

/-! ### Raising an event -/

theorem getReg_out (s : State) (x : List Out) (p : Page) (b o : Nat) : getReg { s with out := x } p b o = getReg s p b o := rfl

theorem getReg_pendEvent (p q : Page) (b c r : Nat) (s : State) (h : r % 4096 ≠ 0x018) :
    getReg (pendEvent p b s).1 q c r = getReg s q c r := getReg_setReg_off _ _ h

theorem bit_or_two_pow (x b c : Nat) : bit (x ||| 2 ^ c) b = (bit x b || decide (c = b)) := by
  simp [bit, Nat.testBit_or, Nat.testBit_two_pow]

/-- Setting a pending bit of the event controller's page keeps every pending bit of it. -/
theorem pendEvent_ec_keeps (c : Nat) (s : State) (hc : c < 32) (h : bit (getReg s .ec 0 0x018) c = true) :
    bit (getReg (pendEvent .ec 0 s).1 .ec 0 0x018) c = true := by
  have e : getReg (pendEvent .ec 0 s).1 .ec 0 0x018 = (getReg s .ec 0 0x018 ||| 2 ^ 0) % 2 ^ 32 := getReg_setReg_self ..
  rw [e]
  simp only [bit] at *
  rw [Nat.testBit_mod_two_pow, Nat.testBit_or, h]
  simp [hc]

/-- What the register and event-controller changes of sensing an event keep, sensing keeps. -/
theorem ecSense_keeps (P : State → Prop) (h1 : ∀ s e, P s → P { s with ec := e }) (h2 : ∀ s v, P s → P (setReg .ec 0 0x054 v s))
    (h3 : ∀ s v, P s → P (setReg .ec 0 0x058 v s)) (h4 : ∀ s p v, P s → P (setReg p 0 0x01C v s))
    (h5 : ∀ s, P s → P (pendEvent .ec 0 s).1) : ∀ (fuel n : Nat) (s : State), P s → P (ecSense fuel n s) := by
  intro fuel
  induction fuel with
  | zero => intro n s h; exact h
  | succ fuel ih =>
    intro n s h
    unfold ecSense
    extract_lets e0 s1 cnt e1 s2 rate e2 s3 s4 s5
    have e1 : P s1 := by
      dsimp only [s1]; split
      · exact h2 _ _ h
      · exact h1 _ _ h
    have e2 : P s2 := h1 _ _ e1
    split
    · have e5 : P s5 := by
        dsimp only [s5]; split
        · exact h4 _ _ _ (h3 _ _ (h1 _ _ e2))
        · exact h3 _ _ (h1 _ _ e2)
      have e6 := h5 s5 e5
      split
      · rename_i e; rw [e] at e6; exact ih _ _ e6
      · rename_i e; rw [e] at e6; exact e6
    · exact e2

/-- A pending bit stays, whatever the event controller senses. -/
theorem ecSense_keeps_pend (q : Page) (c : Nat) (hq : q = .ec ∨ pageCode q ≠ pageCode .ec) (hc : c < 32) (fuel n : Nat) (s : State)
    (h : bit (getReg s q 0 0x018) c = true) : bit (getReg (ecSense fuel n s) q 0 0x018) c = true := by
  refine ecSense_keeps (fun s => bit (getReg s q 0 0x018) c = true) ?_ ?_ ?_ ?_ ?_ fuel n s h
  · intro s e h; exact h
  · intro s v h; simpa [getReg_setReg_off] using h
  · intro s v h; simpa [getReg_setReg_off] using h
  · intro s p v h; simpa [getReg_setReg_off] using h
  · intro s h
    rcases hq with rfl | hq
    · exact pendEvent_ec_keeps c s hc h
    · have : getReg (pendEvent .ec 0 s).1 q 0 0x018 = getReg s q 0 0x018 :=
        getReg_setReg_of_ne _ _ (regKey_ne_page hq (by decide) (by decide) (by decide) (by decide))
      simpa [this] using h

/-- A register that no event touches stays. -/
theorem ecSense_getReg (q : Page) (c r : Nat) (h1 : r % 4096 ≠ 0x018) (h2 : r % 4096 ≠ 0x01C)
    (h3 : (r % 4096 ≠ 0x054 ∧ r % 4096 ≠ 0x058) ∨ (pageCode q ≠ pageCode .ec ∧ c < 65536 ∧ r < 4096)) (fuel n : Nat) (s : State) :
    getReg (ecSense fuel n s) q c r = getReg s q c r := by
  refine ecSense_keeps (fun u => getReg u q c r = getReg s q c r) ?_ ?_ ?_ ?_ ?_ fuel n s rfl
  · intro s e h; exact h
  · intro u v h; rw [← h]
    rcases h3 with h3 | h3
    · exact getReg_setReg_off _ _ h3.1
    · exact getReg_setReg_of_ne _ _ (regKey_ne_page h3.1 h3.2.1 (by decide) h3.2.2 (by decide))
  · intro u v h; rw [← h]
    rcases h3 with h3 | h3
    · exact getReg_setReg_off _ _ h3.2
    · exact getReg_setReg_of_ne _ _ (regKey_ne_page h3.1 h3.2.1 (by decide) h3.2.2 (by decide))
  · intro u p v h; rw [← h]; exact getReg_setReg_off _ _ h2
  · intro u h; rw [← h]; exact getReg_setReg_off _ _ h1

/-- Raising an event leaves its bit pending (R31). -/
theorem raise_pends (p : Page) (b : Nat) (s : State) (hp : p = .ec ∨ pageCode p ≠ pageCode .ec) (hb : b < 32) :
    bit (getReg (raise p b s) p 0 0x018) b = true := by
  have h : bit (getReg (pendEvent p b s).1 p 0 0x018) b = true := by
    have e : getReg (pendEvent p b s).1 p 0 0x018 = (getReg s p 0 0x018 ||| 2 ^ b) % 2 ^ 32 := getReg_setReg_self ..
    rw [e]
    simp only [bit]
    rw [Nat.testBit_mod_two_pow, Nat.testBit_or]
    simp [hb]
  unfold raise
  split
  · rename_i e; rw [e] at h; exact ecSense_keeps_pend p b hp hb _ _ _ h
  · rename_i e; rw [e] at h; exact h

/-- A register that no event touches stays. -/
theorem raise_getReg (p q : Page) (b c r : Nat) (s : State) (h1 : r % 4096 ≠ 0x018) (h2 : r % 4096 ≠ 0x01C)
    (h3 : (r % 4096 ≠ 0x054 ∧ r % 4096 ≠ 0x058) ∨ (pageCode q ≠ pageCode .ec ∧ c < 65536 ∧ r < 4096)) :
    getReg (raise p b s) q c r = getReg s q c r := by
  have h : getReg (pendEvent p b s).1 q c r = getReg s q c r := getReg_pendEvent _ _ _ _ _ _ h1
  unfold raise
  split
  · rename_i e; rw [e] at h; rw [ecSense_getReg q c r h1 h2 h3, h]
  · rename_i e; rw [e] at h; exact h

/-! ### A write -/

theorem regPieces_word (off v : Nat) (h : off % 4 = 0) : regPieces off 4 v = [(off, w32, v % 2 ^ 32)] := by
  have h1 : cdiv 4 4 = 1 := by decide
  have h2 : off / 4 * 4 = off := by omega
  simp [regPieces, h, h1, h2, w32, List.range_succ]

/-- An access whose turn it is takes effect at once. -/
theorem access_inTurn {s : State} {o : Origin} (w : RegWr) (h : inTurn s o) (hw : w.org = o) : access (.write w) s = mmioWrite w s := by
  subst hw
  unfold access HostReg.ofHost regAccess
  unfold inTurn at h
  simp [h]

/-- A whole write reaches writePiece once. -/
theorem write32_piece {s : State} {o : Origin} {p : Page} {off v : Nat} (ht : inTurn s o) (ho : originUp s o = true) (hp : pageExists p = true)
    (hm : mpuDenies s o p off 4 true = none) (hk : plainPage p off = true) (h4 : off % 4 = 0) (h : off + 4 ≤ 4096) :
    write32 o p off v s = writePiece o p false (off, w32, v % 2 ^ 32) s := by
  have h' : ¬ 4096 < off + 4 := by omega
  have h8 : ∀ b, plainPage (.qeFb b) off = true → ¬ 0x800 < off + 4 := fun b h => by simp [plainPage] at h; omega
  have hr : writeRegs o p (decide (4 = 8)) (regPieces off 4 v) s = writePiece o p false (off, w32, v % 2 ^ 32) s := by
    rw [regPieces_word _ _ h4]; rfl
  have hw : pageWrite o p off 4 v s = writePiece o p false (off, w32, v % 2 ^ 32) s := by
    rw [← hr]
    cases p
    case qeFb b => exact if_neg (h8 b hk)
    all_goals first
      | rfl
      | cases hk
  rw [← hw]
  rw [write32, access_inTurn _ ht rfl]
  unfold mmioWrite
  simp only [ho, h', hm, Bool.not_true, Bool.false_or, decide_false]
  cases p <;> first
    | simp [hp]; done
    | cases hk

/-- An admitted write with room in the ring is logged, then stored, then takes effect (R9, R41). -/
theorem write32_admitted {s : State} {o : Origin} {p : Page} {off v : Nat} (hc : canWrite s o p off)
    (hk : plainPage p off = true) (h4 : off % 4 = 0) (h : off + 4 ≤ 4096) (hx : logExempt p off = false) :
    write32 o p off v s = applyWrite o p off w32 (regValue s p off) (v % 2 ^ 32)
      (logAppend o (writeFlags s p off w32 (regValue s p off) (v % 2 ^ 32) false) (some p) off (regValue s p off)
        (valueAfter o p off w32 (regValue s p off) (v % 2 ^ 32) s) s) := by
  obtain ⟨ht, ho, hp, hm, ha, hl⟩ := hc
  rw [write32_piece ht ho hp hm hk h4 h]
  simp [writePiece, refused, ha, hx, hl]

/-- An admitted write that the Logbook does not hold (R39, R49). -/
theorem write32_exempt {s : State} {o : Origin} {p : Page} {off v : Nat} (hc : canWrite s o p off)
    (hk : plainPage p off = true) (h4 : off % 4 = 0) (h : off + 4 ≤ 4096) (hx : logExempt p off = true) :
    write32 o p off v s = applyWrite o p off w32 (regValue s p off) (v % 2 ^ 32) s := by
  obtain ⟨ht, ho, hp, hm, ha, hl⟩ := hc
  rw [write32_piece ht ho hp hm hk h4 h]
  simp [writePiece, refused, ha, hx]

end Sys2Proof.Machine
end

