-- ==== Sys2Proof/Tests/Slice0.lean ====
section
/-! SUPPORT. Tests: for every statement states and operands that meet its hypotheses, and single steps with results from the spec. -/

set_option maxRecDepth 100000
set_option Elab.async false
open Sys2Proof Sys2Proof.Machine
namespace Sys2Proof.Tests

/-- The Keeper, which every page's OWNER admits at reset and which runs from the release of the die reset on. -/
def keeper : Origin := ⟨.keeper, 0⟩
/-- The PF's driver. -/
def pf : Origin := ⟨.hostPf, 0⟩

/-- A running core whose one region grants it everything. -/
def wide : Core := { st := 0, regions := [{ base := 0, limit := 2 ^ 36, r := true, w := true, x := true }] }

/-- The hub with its functions presented, the PF's link up, and the Keeper and the memory system's core at work. -/
def up : State :=
  { State.reset with hm := { State.reset.hm with stage := 2, cores := [(0, wide), (6, wide)] }, gw := { State.reset.gw with links := [(0, { up := true, width := 5, rate := 5 })] } }

/-- The same hub while the Keeper still runs from its mask ROM, without regions of its own. -/
def rom (s : State) : State := { s with hm := { s.hm with stage := 1 } }

/-- An entry of 128 bytes with the listed bytes, zero elsewhere. -/
def entry (l : List (Nat × Nat)) : List Byte := (List.range 128).map fun i => BitVec.ofNat 8 ((l.find? fun p => p.1 = i).elim 0 (·.2))

/-- A dispatched command of SQ 64 with an entry, ready to begin. -/
def cmdOf (raw : List Byte) : Cmd :=
  { sq := 64, n := 0, raw := raw, f := 0, ctx := 1, tenant := 0, pasid := none, report := false, drop := false, phase := .ready }

/-- An I/O SQ and CQ of the PF in host memory, in slot 64, with context 1. -/
def sq64 : Sq := { f := 0, base := 0x10000, log2 := 4, device := false, weight := 4, berth := none, owner := 1, cq := 64, en := true }
def cq64 : Cq := { f := 0, base := 0x20000, log2 := 4, device := false, vector := 3, irqCount := 4, irqTime := 100, berth := none }
def queued (q : Sq) (c : Cq) : State :=
  { up with qe := { up.qe with sqs := [(64, q)], cqs := [(64, c)], ctxs := [(1, { f := 0, pasid := none, report := false, drop := false })] } }

/-- A table with one dispatched command, number 0. -/
def withCmd (c : Cmd) (s : State) : State := { s with qe := { s.qe with cmds := [(0, c)], nextK := 1 } }

/-- The state a command leads to, or the state it began in. -/
def after (i : Instr) (s : State) : State := match exec i s with | .next t => t | _ => s
/-! ### The queue of commands -/

theorem test_front_command_runs : step { State.reset with pending := [.acDecay, .keelLock] } = exec .acDecay { State.reset with pending := [.keelLock] } := rfl
theorem test_well_formed_command : (Instr.moverTile 63).wf = true ∧ (Instr.moverTile 64).wf = false := by decide

/-! ### Registers -/

theorem test_window_write_hypotheses : canWrite State.reset keeper .gw 0x088 ∧ (0x088 % 4 = 0 ∧ 0x080 ≤ 0x088 ∧ 0x088 < 0x180 ∧ 0x12345678 < 2 ^ 32) := by
  unfold canWrite; decide
/-- The limit registers keep bits 31 to 16 only. -/
theorem test_window_write : getReg (after (.registerWrite ⟨keeper, .gw, 0x088, 4, 0x12345678⟩) State.reset) .gw 0 0x088 = 0x12340000 := by decide
/-- The Gangway page is the Keeper's alone. -/
def gwClosed : State := setReg .gw 0 0x008 4 up
theorem test_dropped_write_hypotheses : originUp gwClosed pf = true ∧ plainPage .gw 0x088 = true ∧ ownerAdmits gwClosed pf .gw = false ∧ viewHolds gwClosed pf .gw = true
    ∧ logFull gwClosed = false := by decide
theorem test_dropped_write : (after (.registerWrite ⟨pf, .gw, 0x088, 4, 7⟩) gwClosed).lb.ring.map (·.flags) = [1] := by decide
/-- A ring full of unread entries under hold. -/
def fullLog : State := setReg .lb 0 0x048 1 { State.reset with lb := { seq := 2 ^ 20, tail := 0 } }
theorem test_full_log_hypotheses : originUp fullLog keeper = true ∧ plainPage .gw 0x088 = true ∧ logExempt .gw 0x088 = false ∧ logHolds fullLog = true
    ∧ logFull fullLog = true := by decide
theorem test_full_log_refuses : getReg (after (.registerWrite ⟨keeper, .gw, 0x088, 4, 0x10000⟩) fullLog) .gw 0 0x088 = 0 := by decide
theorem test_seal_hypotheses : canWrite State.reset keeper .hl 0x00C ∧ plainPage .hl 0x00C = true ∧ bit 1 0 = true := by unfold canWrite; decide
theorem test_seal : pageSealed (after (.pageSeal keeper .hl 1) State.reset) .hl = true := by decide
theorem test_sealed_again_hypotheses : pageSealed (after (.pageSeal keeper .hl 1) State.reset) .hl = true
    ∧ canWrite (after (.pageSeal keeper .hl 1) State.reset) keeper .hl 0x00C := by unfold canWrite; decide
/-- A Logbook with ten unread entries. -/
def tenEntries : State := { State.reset with lb := { seq := 10, tail := 0 } }
theorem test_tail_hypotheses : canWrite tenEntries keeper .lb 0x044 ∧ canWrite tenEntries keeper .lb 0x060 := by unfold canWrite; decide
theorem test_tail_moves : (after (.lbTailWrite keeper 10) tenEntries).lb.tail = 10 := by decide
theorem test_tail_past_seq_ignored : (after (.lbTailWrite keeper 11) tenEntries).lb.tail = 0 := by decide
theorem test_win_seq : getReg (after (.lbWinSeqWrite keeper 5) tenEntries) .lb 0 0x060 = 5 := by decide
theorem test_lb_stat_hypotheses : originUp tenEntries keeper = true ∧ shows tenEntries keeper .lb 0x014 = true ∧ keeper.cls ≠ .hostVf := by decide
theorem test_lb_stat : (after (.lbStatRead keeper) { tenEntries with lb := { tenEntries.lb with overrun := true } }).lb.overrun = false := by decide
theorem test_read_hypotheses : originUp State.reset keeper = true ∧ pageExists .sl = true ∧ shows State.reset keeper .sl 0x070 = true := by decide
theorem test_read : (after (.registerRead keeper .sl 0x070 4) State.reset).out = [.regRead keeper .sl 0x070 90] := by decide
theorem test_byte_counter_hypotheses : originUp State.reset keeper = true ∧ shows State.reset keeper .ms (0x200 + 16 * (8 * 2 + 7)) = true := by decide
theorem test_byte_counter_latches :
    (after (.byteCounterRead keeper 0 0 false) { State.reset with mem := { State.reset.mem with counts := [(0, 2 ^ 33 + 5)] } }).mem.hiLatch = [(0, 2)] := by
  decide
/-- VF 1 in D0 behind the PF's link. -/
def vfUp : State := { up with gw := { up.gw with vfEnable := true, numVfs := 4 } }
theorem test_vf_counter_hypotheses : originUp vfUp (fnOrigin 1) = true ∧ shows vfUp (fnOrigin 1) (.tuFn 1) 0x048 = true := by decide
theorem test_vf_counter : (after (.vfCounterRead 1 (.tuFn 1) 0x048) { vfUp with latched := [(regKey (.tuFn 1) 0 0x048, 5000)] }).out
    = [.regRead (fnOrigin 1) (.tuFn 1) 0x048 4096] := by decide
/-- A debug write while the fuse and the boot left the port locked. -/
theorem test_debug_write : originUp up ⟨.debug, 5⟩ = true ∧ debugUnlocked up = false ∧ viewHolds up ⟨.debug, 5⟩ .hl = true ∧ ownerAdmits up ⟨.hostVf, 3⟩ .hl = false
    ∧ getReg (after (.registerWrite ⟨⟨.debug, 5⟩, .hl, 0x048, 4, 9⟩) up) .hl 0 0x024 = 2 ^ 31 + 0xFFF * 2 ^ 16 + originCode ⟨.debug, 5⟩ := by decide

/-! ### Queues -/

/-- Example 2.1 of the spec: depth 4,096, tail count 69,630, five new entries. -/
def sqEx : Sq := { sq64 with log2 := 12, tailCount := 69630, fetchNext := 69630, next := 69630 }
theorem test_doorbell_hypotheses : (queued sqEx cq64).sl.power = 6 ∧ fnReaches (queued sqEx cq64) 0 = true ∧ mget (queued sqEx cq64).qe.sqs 64 = some sqEx
    ∧ 3 < 2 ^ sqEx.log2 ∧ (3 + 4096 - 69630 % 4096) % 4096 = 5 ∧ stampOf (69630 + 5 - 1) = 0x1004 := by decide
theorem test_doorbell_example : (after (.sqDoorbell 0 64 0 4 0x10040003) (queued sqEx cq64)).qe.sqs = [(64, { sqEx with tailCount := 69635 })] := by decide
theorem test_doorbell_counted_only : (3 + 16 - 3 % 16) % 16 = 0
    ∧ (after (.sqDoorbell 0 64 0 4 0x00990003) (queued { sq64 with tailCount := 3 } cq64)).lb.doorbells = 1 := by decide
theorem test_doorbell_wrong_stamp : bit (getReg (queued sqEx cq64) (.qeFn 0) 0 0x050) 31 = false
    ∧ getReg (after (.sqDoorbell 0 64 0 4 0x10050003) (queued sqEx cq64)) .qe 0 0x05C = 1 := by decide
theorem test_doorbell_narrow : getReg (after (.sqDoorbell 0 64 0 2 3) (queued sqEx cq64)) .qe 0 0x05C = 1 := by decide
theorem test_head_hypotheses : mget (queued sq64 { cq64 with unread := 5 }).qe.cqs 64 = some { cq64 with unread := 5 } ∧ fnReaches (queued sq64 cq64) 0 = true
    ∧ 3 < 2 ^ 4 ∧ (3 + 16 - 0) % 16 ≤ 5 := by decide
theorem test_head : (after (.cqHeadUpdate 0 64 4 3) (queued sq64 { cq64 with unread := 5 })).qe.cqs = [(64, { cq64 with head := 3, unread := 2 })] := by decide
theorem test_head_past_unread : 5 < (6 + 16 - 0) % 16 ∧ (after (.cqHeadUpdate 0 64 4 6) (queued sq64 { cq64 with unread := 5 })).qe.cqs = [(64, { cq64 with unread := 5 })] := by
  decide
/-- The SQ's state has taken an error: its doorbell crashes the Keeper. -/
theorem test_doorbell_spoilt : spoilt { queued sqEx cq64 with damaged := [.sq 64] } [.sq 64] = true ∧ spoilt (queued sqEx cq64) [.sq 64] = false
    ∧ (after (.sqDoorbell 0 64 0 4 0x10040003) { queued sqEx cq64 with damaged := [.sq 64] }).sl.ramp = some 1 := by decide
/-- Ten entries to fetch. -/
def sqTen : Sq := { sq64 with tailCount := 10 }
theorem test_fetch_hypotheses : fetchable (queued sqTen cq64) 64 sqTen = true ∧ (∀ p ∈ (queued sqTen cq64).qe.sqs, p.1 < 64 → fetchable (queued sqTen cq64) p.1 p.2 = false)
    ∧ 64 ∉ (queued sqTen cq64).qe.served := by decide
theorem test_fetch_turn : (after (.fetchTurn 64) (queued sqTen cq64)).qe.sqs = [(64, { sqTen with issued := [0, 1, 2, 3], fetchNext := 4 })] := by decide
/-- A turn that met the limit goes on. -/
def turnOpen : State := { queued sqTen cq64 with qe := { (queued sqTen cq64).qe with turn := some (64, 2), served := [64] } }
theorem test_fetch_turn_open : turnOpen.qe.turn = some (64, 2) ∧ fetchable turnOpen 64 sqTen = true ∧ (after (.fetchTurn 64) turnOpen).qe.sqs = [(64, { sqTen with issued := [0, 1], fetchNext := 2 })]
    ∧ (after (.fetchTurn 64) turnOpen).qe.turn = none := by decide
/-- A NOP of context 1 with both stamps 1, entry 0 of its queue. -/
def nopEntry : List Byte := entry [(2, 1), (14, 1), (120, 1)]
/-- Entry 0 on its way. -/
def sqOne : Sq := { sq64 with tailCount := 1, fetchNext := 1, issued := [0] }
theorem test_arrival_hypotheses : fld nopEntry 14 2 = stampOf 0 ∧ fld nopEntry 120 2 = stampOf 0 ∧ nopEntry.length = 128
    ∧ decodeStatus (queued sqOne cq64) 0 false nopEntry = none ∧ sqOne.issued.contains 0 = true ∧ sqOne.next = 0 := by decide
theorem test_arrival : (after (.entryArrival 64 0 nopEntry false) (queued sqOne cq64)).qe.sqs = [(64, { sqOne with issued := [], ready := [(0, nopEntry)] })] := by decide
theorem test_stale_hypotheses : fld (entry [(14, 1)]) 120 2 ≠ stampOf 0 ∧ 0 < bits (getReg (queued sqOne cq64) .qe 0 0x040) 3 0 := by decide
theorem test_stale_waits : (after (.entryArrival 64 0 (entry [(14, 1)]) false) (queued sqOne cq64)).qe.sqs = [(64, { sqOne with issued := [], backoff := true })] := by decide
theorem test_last_try_stalls : bits (getReg (queued sqOne cq64) .qe 0 0x040) 3 0 ≤ 8
    ∧ (after (.entryArrival 64 0 (entry []) false) (queued { sqOne with tries := 8 } cq64)).qe.sqs = [(64, { sqOne with issued := [], stalled := true, fetchNext := 0 })] := by decide
theorem test_refetch_room : readRoom (queued sq64 cq64) { sqOne with backoff := true } = true ∧ readRoom (queued sq64 { cq64 with unread := 15 }) { sqOne with backoff := true } = false := by decide
theorem test_refetch : (after (.refetchBackoffExpiry 64) (queued { sqOne with issued := [], backoff := true } cq64)).qe.sqs = [(64, { sqOne with issued := [0], tries := 1 })] := by decide
/-- Entry 0 ready for dispatch. -/
def sqReady (raw : List Byte) : Sq := { sq64 with tailCount := 1, fetchNext := 1, ready := [(0, raw)] }
theorem test_dispatch_hypotheses : dispatchable (queued (sqReady nopEntry) cq64) 64 nopEntry = true ∧ nopEntry ≠ []
    ∧ objectBad (queued (sqReady nopEntry) cq64) 0 (fld nopEntry 0 1) nopEntry = false := by decide
theorem test_dispatch : (after (.dispatch 64) (queued (sqReady nopEntry) cq64)).qe.cmds = [(0, { cmdOf nopEntry with dispatched := true, sigOk := true })]
    ∧ spoilt (queued (sqReady nopEntry) cq64) (keptOf 64 nopEntry) = false := by decide
/-- The same with a wait for fence 5 to reach 9. -/
def waitEntry : List Byte := entry [(1, 1), (2, 1), (8, 5), (14, 1), (104, 9), (120, 1)]
theorem test_dispatch_waits : (after (.dispatch 64) (queued (sqReady waitEntry) cq64)).qe.cmds = [(0, { cmdOf waitEntry with phase := .fence, dispatched := true, sigOk := true })] := by decide
theorem test_head_serves_held : ((after (.cqHeadUpdate 0 64 4 2) (queued sq64 { cq64 with unread := 15, held := [{ cmdId := 1, sq := 64, status := 0, detail := 0, ctx := 1, done := 0, fault := 0 }] })).qe.cqs.map
    fun p => (p.2.head, p.2.unread, p.2.held.length)) = [(2, 14, 0)] := by decide
/-- A NOP finished SUCCESS. -/
def ended : State := withCmd { cmdOf nopEntry with phase := .finished } (queued { sq64 with next := 1 } cq64)
theorem test_completion_hypotheses : visible ended 0 { cmdOf nopEntry with phase := .finished } = true ∧ flushNeed ended { cmdOf nopEntry with phase := .finished } = []
    ∧ ringWaits ended { cmdOf nopEntry with phase := .finished } = false ∧ spoilt ended [.cq 64] = false
    ∧ hostFlows ended = true ∧ (cmdOf nopEntry).flag 1 = false ∧ (cmdOf nopEntry).flag 4 = false ∧ cq64.unread + 2 < 2 ^ cq64.log2
    ∧ cq64.unsignalled + 1 < cq64.irqCount := by decide
theorem test_completion : (after (.completionRecordWrite 0) ended).qe.cqs = [(64, { cq64 with written := 1, unread := 1, unsignalled := 1, lastLink := some 0 })]
    ∧ (after (.completionRecordWrite 0) ended).qe.cmds = [] := by decide
theorem test_irq_hypotheses : mget (queued sq64 { cq64 with unsignalled := 2 }).qe.cqs 64 = some { cq64 with unsignalled := 2 } ∧ hostFlows (queued sq64 cq64) = true := by decide
theorem test_irq_time : (after (.irqTimeExpiry 64) (queued sq64 { cq64 with unsignalled := 2, lastLink := some 0 })).out = [.msix 0 0 3] := by decide
/-- A command that waits for flushing read 7. -/
def flushing : State :=
  withCmd { cmdOf nopEntry with phase := .finished, flushes := [7] } { queued sq64 cq64 with gw := { up.gw with flushes := [⟨7, 1, none, some 0⟩] } }
theorem test_flush_hypotheses : flushing.gw.flushes.find? (fun g => g.id = 7) = some ⟨7, 1, none, some 0⟩ ∧ flushing.tu.plans = [] := by decide
theorem test_flush : (getCmd (after (.flushReadReturn 7) flushing) 0).map (·.flushes) = some [] := by decide
theorem test_nop_hypotheses : getCmd (withCmd (cmdOf nopEntry) up) 0 = some (cmdOf nopEntry) ∧ (cmdOf nopEntry).phase = .ready ∧ up.tg.ckpt = false ∧ (cmdOf nopEntry).op = 0 := by
  decide
theorem test_nop : (getCmd (after (.nop 0) (withCmd (cmdOf nopEntry) up)) 0).map (·.phase) = some .finished := by decide
theorem test_fence_scope : (cmdOf (entry [(0, 0x50)])).op = 0x50 ∧ (getCmd (after (.fenceScope 0) (withCmd (cmdOf (entry [(0, 0x50)])) up)) 0).map (·.phase) = some .finished := by
  decide
/-- FENCE_SET of fence 5 to 9, its block allotted, the fence in error at 20. -/
def fenceSetEntry : List Byte := entry [(0, 0x51), (2, 1), (16, 5), (24, 9)]
def fenced : State :=
  { rom up with qe := { up.qe with blocks := [(0, { f := 0, ctx := 1 })], fences := [(5, { value := 20, status := 1 })] } }
theorem test_fence_set_hypotheses : (cmdOf fenceSetEntry).op = 0x51 ∧ fenceOk fenced 0 (fld fenceSetEntry 16 2) = true := by decide
theorem test_fence_set : (after (.fenceSet 0) (withCmd (cmdOf fenceSetEntry) fenced)).qe.fences = [(5, { value := 9, status := 0 })] := by decide
theorem test_value_write_hypotheses : originUp fenced keeper = true ∧ admitted fenced keeper (.qeFb 0) (0x800 + 8 * 5) = true ∧ mhas fenced.qe.blocks 0 = true
    ∧ (21 : DWord) ≠ (getFence fenced 5).value ∧ ((21 : DWord) - (getFence fenced 5).value).toNat < 2 ^ 63
    ∧ 2 ^ 63 ≤ ((19 : DWord) - (getFence fenced 5).value).toNat ∧ bit (getReg fenced (.qeFn 0) 0 0x050) 31 = false := by decide
theorem test_value_write : (after (.fbValueWrite keeper 0 40 8 21) fenced).qe.fences = [(5, { value := 21, status := 1 })] := by decide
theorem test_value_regression : getReg (after (.fbValueWrite keeper 0 40 8 19) fenced) (.qeFb 0) 0 0x044 = 1 := by decide
theorem test_status_write_hypotheses : canWrite fenced keeper (.qeFb 0) (0x100 + 4 * 1) := by unfold canWrite; decide
theorem test_status_write : (after (.fbStatusWrite keeper 0 4 4 0x100) fenced).qe.fences = [(5, { value := 20, status := 0 })] := by decide
/-- Admin bases in host memory. -/
def adminReady : State := setReg (.qeFn 1) 0 0x048 0x20000 (setReg (.qeFn 1) 0 0x040 0x10000 State.reset)
theorem test_admin_hypotheses : canWrite adminReady keeper (.qeFn 1) 0x050 ∧ bit 0x80034400 31 = true ∧ getReg adminReady (.qeFn 1) 0 0x050 = 0
    ∧ adminUsable adminReady 1 (0x80034400 &&& 0x87FFFF01) = true ∧ adminUsable adminReady 1 (0x80030000 &&& 0x87FFFF01) = false := by unfold canWrite; decide
theorem test_admin_enable : (after (.adminCfgWrite keeper 1 0x80034400) adminReady).qe.sqs.map (·.2.base) = [0x10000] := by decide
theorem test_admin_refused : getReg (after (.adminCfgWrite keeper 1 0x80030000) adminReady) (.qeFn 1) 0 0x050 = 0x30000 := by decide

/-! ### Translation -/

/-- An atomic's plan of one page that waits for lookup 3, and its ATS request. -/
def item3 (st : ItemSt) : Item := { space := 0, page := 0x5000, first := 0x5008, rights := ⟨false, false, true⟩, st := st }
def planOf (w : Who) (it : Item) : Plan := { who := w, f := 0, pasid := none, tenant := 0, report := true, cls := 0, items := [it] }
def ats3 (stale : Bool) : AtsReq := { id := 3, f := 0, pasid := none, page := 0x5000, lookahead := none, stale := stale }
def asking (stale : Bool) : State := { up with tu := { up.tu with ats := [ats3 stale], plans := [planOf (.atomicUnit 0) (item3 (.wait 3))], nextId := 4 } }
/-- The entry the answer makes. -/
def xl3 : Xl := { f := 0, pasid := none, space := 0, base := 0x5000, len := 0x1000, out := 0x77000, kind := .host, rights := ⟨true, true, true⟩ }
theorem test_ats_hypotheses : (asking false).tu.ats.find? (fun a => a.id = 3) = some (ats3 false) ∧ (asking false).gw.hdm = [] ∧ (asking false).gw.detached = false
    ∧ ((item3 .need).rights.lacks xl3.rights).any = false ∧ centralMerge xl3 (asking false).tu.central = none
    ∧ (asking true).tu.ats.find? (fun a => a.id = 3) = some (ats3 true) := by decide
theorem test_ats_fills : (after (.atsTranslationCompletion 3 (.xlate 0x77000 12 true true)) (asking false)).tu.central = [xl3]
    ∧ (after (.atsTranslationCompletion 3 (.xlate 0x77000 12 true true)) (asking false)).tu.plans = [planOf (.atomicUnit 0) (item3 (.ok 0x77000 .host))] := by decide
theorem test_ats_error : getReg (after (.atsTranslationCompletion 3 .error) (asking false)) .tu 0 0x024 = 0x80030000 := by decide
theorem test_ats_stale : (after (.atsTranslationCompletion 3 (.xlate 0x77000 12 true true)) (asking true)).tu.central = [] := by decide
/-- A walk of function 0's map with root 0x40000000 in hub SRAM, whose top entry is not valid; and one whose three tables lead to a leaf of 4 KiB. -/
def walk5 : Walk := { id := 5, f := 0, page := 0x5000, who := .atomicUnit 0, cls := 0, lookahead := none }
def walking (bytes : List Host.Cell) : State :=
  setReg (.tuFn 0) 0 0x040 0x40000001 { up with tu := { up.tu with walks := [walk5] }, mem := { up.mem with bytes := bytes } }
theorem test_walk_hypotheses : (walking []).tu.walks.find? (fun a => a.id = 5) = some walk5 ∧ (walking []).tu.plans = []
    ∧ regionOf (walking []) walk5.who { space := 1, page := walk5.page, first := 0, rights := {} } = none
    ∧ (walkMap (fnOrigin 0) 0 0x5000 0 { walking [] with tu := { (walking []).tu with walks := [] } }).1 = .absent := by decide +kernel
/-- Tables at 0x40000000, 0x40001000, 0x40002000 and 0x40003000; the leaf gives output 0x50000000 with every right. -/
def tables : List Host.Cell :=
  [(0x40000000, 0x01), (0x40000001, 0x10), (0x40000003, 0x40), (0x40001000, 0x01), (0x40001001, 0x20), (0x40001003, 0x40),
   (0x40002000, 0x01), (0x40002001, 0x30), (0x40002003, 0x40), (0x40003028, 0x1F), (0x4000302B, 0x50)]
theorem test_walk_leaf : (after (.deviceMapWalkDone 5) (walking tables)).tu.central
    = [{ f := 0, pasid := none, space := 1, base := 0x5000, len := 0x1000, out := 0x50000000, kind := .dpa, rights := ⟨true, true, true⟩ }] := by decide +kernel
/-- A berth holds the root table's line: the walk waits and stays. -/
def tableHeld : State := let s := walking tables; { s with qy := { s.qy with filter := [⟨0x40000000, [0], true, 0⟩], berths := [(0, { st := 3 })] } }
theorem test_walk_waits : (walkMap (fnOrigin 0) 0 0x5000 0 tableHeld).1 = .waits ∧ (after (.deviceMapWalkDone 5) tableHeld).tu.walks = [walk5]
    ∧ (walkMap (fnOrigin 0) 0 0x5000 0 (walking tables)).1 = .leaf 0x5000 0x1000 0x50000000 ⟨true, true, true⟩ false := by decide +kernel
/-- A mover's page asked for in group 6, or held. -/
def prg6 : Prg := { grp := 6, f := 0, who := .mover 2, pages := [0x5000] }
def paging (st : ItemSt) : State := { up with tu := { up.tu with prgs := [prg6], plans := [planOf (.mover 2) (item3 st)] } }
theorem test_page_request_hypotheses : (paging (.asked 6)).tu.prgs.find? (fun h => h.grp = 6 && h.f = 0) = some prg6
    ∧ (paging (.asked 6)).tu.prgs.find? (fun h => h.grp = 6 && h.f = 1) = none ∧ (item3 (.held 6)).st = .held 6 := by decide
theorem test_prg_failure : (after (.pageRequestResponse 0 6 .failure) (paging (.asked 6))).tu.plans = [planOf (.mover 2) (item3 (.bad .forced))]
    ∧ (after (.pageRequestResponse 0 6 .failure) (paging (.asked 6))).tu.priStopped = [0] := by decide
/-- An atomic's page asked for in group 6, of a function with ATS. -/
def pagingAtomic : State :=
  { up with tu := { up.tu with prgs := [{ prg6 with who := .atomicUnit 0 }], plans := [planOf (.atomicUnit 0) (item3 (.asked 6))], nextId := 9 },
            gw := { up.gw with fns := [(0, { fnCfg up 0 with ats := true })] } }
theorem test_prg_success_hypotheses : onAccess pagingAtomic (.atomicUnit 0) = false ∧ onAccess (paging (.asked 6)) (.mover 2) = false ∧ (fnCfg pagingAtomic 0).ats = true ∧ pagingAtomic.gw.detached = false
    ∧ invBlocks pagingAtomic 0 none 0 0x5000 = false ∧ regionOf pagingAtomic (.atomicUnit 0) (item3 (.asked 6)) = none := by decide
theorem test_prg_success : (after (.pageRequestResponse 0 6 .success) pagingAtomic).out = [.atsRequest 9 0 none 0x5000]
    ∧ (after (.pageRequestResponse 0 6 .success) pagingAtomic).tu.plans = [planOf (.atomicUnit 0) (item3 (.wait 9))] := by decide
theorem test_prg_unknown : getReg (after (.pageRequestResponse 1 6 .success) (paging (.asked 6))) .tu 0 0x024 = 0x80040000 + originCode (fnOrigin 1) := by decide
theorem test_prg_timeout : (after (.pageRequestTimeout 6) (paging (.asked 6))).tu.plans = [planOf (.mover 2) (item3 (.bad .timeout))] := by decide
theorem test_hold_timeout : (after (.holdWaitTimeout 6) (paging (.held 6))).tu.plans = [planOf (.mover 2) (item3 (.bad .timeout))] := by decide
/-- An entry of the host's space and one of function 0's map. -/
def cached : State :=
  { rom up with tu := { up.tu with central := [xl3, { f := 0, pasid := none, space := 1, base := 0x9000, len := 0x1000, out := 0x40000000, kind := .dpa, rights := ⟨true, true, true⟩ }] } }
theorem test_invalidate_hypotheses : cached.tu.plans = [] ∧ (getBerth cached 0).grants = [] ∧ linkUp cached 0 = true ∧ cached.sl.h < 2
    ∧ canWrite cached keeper .tu 0x070 ∧ bit (getReg cached .tu 0 0x070) 31 = false
    ∧ canWrite (setReg (.tuFn 0) 0 0x040 0x40000001 cached) keeper (.tuFn 0) 0x040 := by unfold canWrite; decide
theorem test_invalidate_no_grants : ∀ b, (getBerth cached b).grants = [] := fun _ => rfl
theorem test_ats_invalidate : (after (.atsInvalidateRequest 0 0 none 0x4000 14 9) cached).tu.central.map (·.base) = [0x9000] := by decide
theorem test_ats_invalidate_asleep : (after (.atsInvalidateRequest 0 0 none 0x4000 14 9) { cached with sl := { cached.sl with h := 2 } }).out = [.invalidateCompletion 0 9] := by
  decide
theorem test_dinv_range : (after (.dinvRange keeper 1) (setReg .tu 0 0x068 0x9000 cached)).tu.central.map (·.base) = [0x5000] := by decide
theorem test_dinv_all : (after (.dinvAll keeper 0x20001) cached).tu.central.map (·.base) = [0x5000]
    ∧ bit (getReg (after (.dinvAll keeper 0x20001) cached) .tu 0 0x070) 31 = true := by decide
theorem test_root_cleared : (after (.fnDmapRootWrite keeper 0 false 0x40000000) (setReg (.tuFn 0) 0 0x040 0x40000001 cached)).tu.central.map (·.base) = [0x5000] := by decide
/-- An invalidation with nothing left to wait for. -/
def inv8 (src : InvSrc) : Inv :=
  { id := 8, src := src, f := 0, pasid := none, anyPasid := true, space := 1, base := 0, size := 2 ^ 48, reads := [], ops := [], berths := [], flushes := [], links := [], started := 0 }
def ending (src : InvSrc) : State := { up with tu := { up.tu with invs := [inv8 src] } }
theorem test_inv_end_hypotheses : (ending .dinv).tu.invs.find? (fun v => v.id = 8) = some (inv8 .dinv) ∧ invQuiet (ending .dinv) (inv8 .dinv) = true
    ∧ invQuiet { ending .dinv with gw := { up.gw with reads := [⟨4, 0, .mover 0, 0, 0, 64, 0⟩] } } { inv8 .dinv with reads := [4] } = false := by decide
theorem test_inv_end : (after (.invalidateCompletion 8) (ending (.ats 0 9))).out = [.invalidateCompletion 0 9]
    ∧ getReg (after (.invalidateCompletion 8) (ending (.ats 0 9))) .tu 0 0x074 = 1 := by decide
/-- Two tracked granules. -/
def counted : State := { State.reset with tu := { State.reset.tu with granules := [⟨5, [9, 0], [3, 0]⟩, ⟨6, [4, 0], [0, 0]⟩] } }
theorem test_decay_hypotheses : bits (getReg counted .tu 0 0x048) 23 16 ≠ 0 ∧ bits (getReg (setReg .tu 0 0x048 0x80001000 counted) .tu 0 0x048) 23 16 = 0 := by decide
theorem test_decay : (after .acDecay counted).tu.granules.map (·.counts) = [[4, 0], [2, 0]] := by decide
theorem test_clear_hypotheses : canWrite counted keeper .tu 0x064 := by unfold canWrite; decide
theorem test_clear : (after (.acClear keeper 5) counted).tu.granules.map (·.counts) = [List.replicate 10 0, [4, 0]] := by decide

/-! ### Movers -/

/-- A COPY in space DPA of two tiles of 16 elements of 4 bytes each, from 0x40000000 to 0x40010000 in hub SRAM; and the same for another opcode. -/
def moveRaw (op : Nat) : List Byte :=
  entry [(0, BitVec.ofNat 8 op |>.toNat), (16, 0x05), (17, 0x99), (19, 0x04), (27, 0x40), (34, 0x01), (35, 0x40), (40, 32), (43, 1), (46, 1), (49, 1), (52, 1)]
def moveCmd (op : Nat) (ph : Phase) : Cmd := { cmdOf (moveRaw op) with phase := ph }
def moving (op : Nat) (j : Option Job) (ph : Phase) : State :=
  let s := withCmd (moveCmd op ph) (queued sq64 cq64)
  match j with | some j => { s with gm := { s.gm with movers := [(3, j)] } } | none => s
theorem test_assign_hypotheses : mhas (moving 0x10 none .ready).gm.movers 3 = false ∧ (moving 0x10 none .ready).gm.scrubbing.contains 3 = false
    ∧ ((moving 0x10 none .ready).qe.cmds.find? fun p => p.2.phase = .ready && 0x10 ≤ p.2.op && p.2.op < 0x20 && !onUnitK (moving 0x10 none .ready) p.1
        && classBusy (moving 0x10 none .ready) p.2.cls < classLimit (moving 0x10 none .ready) p.2.cls) = some (0, moveCmd 0x10 .ready) := by decide
theorem test_assign_none_hypotheses : (up.qe.cmds.find? fun p => p.2.phase = .ready && 0x10 ≤ p.2.op && p.2.op < 0x20 && !onUnitK up p.1
        && classBusy up p.2.cls < classLimit up p.2.cls) = none := by decide
/-- The class limit of class 0 holds the command back when as many movers of the class are busy. -/
theorem test_assign_limit : (after (.moverAssign 4) (setReg .gm 0 0x04C 1
    { moving 0x10 (some { k := 0 }) .running with qe := { (moving 0x10 (some { k := 0 }) .running).qe with cmds := [(0, moveCmd 0x10 .running), (1, moveCmd 0x10 .ready)] } })).gm.movers
    = [(3, { k := 0 })] := by decide
def srcJob (ph : TilePhase) : Job :=
  { k := 0, phase := ph, buf := (List.range 16).map fun i => { at_ := 0x40000000 + i, val := BitVec.ofNat 8 (i + 1) } }
theorem test_tile_hypotheses : getMover (moving 0x10 (some (srcJob .reading)) .running) 3 = some (srcJob .reading)
    ∧ getCmd (moving 0x10 (some (srcJob .reading)) .running) 0 = some (moveCmd 0x10 .running) ∧ (moveCmd 0x10 .running).cut false = none
    ∧ ioOpen (moving 0x10 (some (srcJob .reading)) .running) (.mover 3) = false ∧ bounceOf (moving 0x10 (some (srcJob .reading)) .running) 0 1 = none
    ∧ ioOpen { moving 0x10 (some (srcJob .reading)) .running with gw := { up.gw with reads := [⟨1, 0, .mover 3, 0, 0, 64, 0⟩] } } (.mover 3) = true
    ∧ rampHolds (moving 0x10 (some (srcJob .reading)) .running) = false ∧ rampHolds (moving 0x10 none .ready) = false := by decide
theorem test_tile_no_poison (side : Nat → Bool) : firstPoison side (tileSegs none 0x10 (moveRaw 0x10) [] 0 []) (srcJob .reading).buf = none := by
  have : tileSegs none 0x10 (moveRaw 0x10) [] 0 [] = [⟨0, 1, 0x40000000, 64⟩] := by decide
  simp only [this, firstPoison, List.findSome?_cons, List.findSome?_nil]
  cases side 0 <;> decide
/-- Function 0 has a live map, and one tile is looked ahead. -/
def ahead : State := setReg .tu 0 0x044 1 (setReg (.tuFn 0) 0 0x040 0x40000001 (moving 0x10 (some (srcJob .loaded)) .running))
def nextPage : Item := { space := 1, page := 0x40000000, first := 0x40000040, rights := ⟨true, false, false⟩ }
def samePage (raw : List Byte) : List Byte := raw.set 34 0
def aheadOne : State := { ahead with qe := { ahead.qe with cmds := [(0, { moveCmd 0x10 .running with raw := (moveRaw 0x10).set 34 0 })] } }
theorem test_lookahead_hypotheses : bits (getReg aheadOne .tu 0 0x044) 5 0 = 1 ∧ mvTiles ((moveRaw 0x10).set 34 0) = 2 ∧ hasAux 0x10 = false
    ∧ tileItems (bounceOf aheadOne 0 1) 0x10 ((moveRaw 0x10).set 34 0) [] 1 = [{ nextPage with rights := ⟨true, true, false⟩ }] ∧ mapLive aheadOne 0 = true := by decide
theorem test_lookahead : (after (.lookaheadFill 3) aheadOne).tu.walks.map (·.page) = [0x40000000] := by decide
/-- The plan of the first tile, both pages translated to themselves. -/
def planned2 (k : OutKind) : Plan :=
  { who := .mover 3, f := 0, pasid := none, tenant := 0, report := false, cls := 0,
    items := [{ space := 1, page := 0x40000000, first := 0x40000000, rights := ⟨true, false, false⟩, st := .ok 0x40000000 k },
              { space := 1, page := 0x40010000, first := 0x40010000, rights := ⟨false, true, false⟩, st := .ok 0x40010000 k }] }
def loadedMove (op : Nat) (j : Job) : State := { moving op (some j) .running with tu := { up.tu with plans := [planned2 .dpa] } }
theorem test_move_hypotheses : planAt (loadedMove 0x10 (srcJob .loaded)) (.mover 3) = .ready (planned2 .dpa).items
    ∧ tilePieces 0x10 (moveRaw 0x10) (srcJob .loaded) (planned2 .dpa).items = [(1, 0x40010)] ∧ mvSpace (moveRaw 0x10) 1 = 1
    ∧ moverQuiet (loadedMove 0x10 { srcJob .loaded with wrote := 1 }) 3 0 = true := by decide
theorem test_copy_last_page : getReg (after (.copy 3) (loadedMove 0x10 (srcJob .loaded))) (.gmMover 3) 0 0x058 = 64
    ∧ (after (.copy 3) (loadedMove 0x10 (srcJob .loaded))).mem.bytes.length = 16 := by decide
theorem test_copy_next_tile : (getMover (after (.copy 3) (loadedMove 0x10 { srcJob .loaded with wrote := 1 })) 3).map (·.tile) = some 1 := by decide
theorem test_copy_ends : (getCmd (after (.copy 3) (loadedMove 0x10 { srcJob .loaded with wrote := 1, tile := 1 })) 0).map (fun c => (c.status, c.done)) = some (0, 2) := by decide
theorem test_compress_roundtrip : decompressed 1 none (asPBytes 0 (compressed [0, 7, 0, 9])) = ([0, 7, 0, 9] ++ List.replicate 60 0).map fun b => (b, none) := by decide
theorem test_compress_stream : compressed [0, 7, 0, 9] = [0x0A, 0, 0, 0, 0, 0, 0, 0, 7, 9] := by decide

/-! ### Reduce lanes -/

/-- A RED_ROUND or another REDUCE of 32 packets from 0x40000000 (M = 1) to FP32 elements from 0x40010000. -/
def redRaw (op : Nat) : List Byte :=
  entry [(0, BitVec.ofNat 8 op |>.toNat), (16, 0x05), (17, 0x11), (27, 0x40), (34, 0x01), (35, 0x40), (40, 1)]
def redCmd (op : Nat) (ph : Phase) : Cmd := { cmdOf (redRaw op) with phase := ph }
def lanePlan : Plan := { planned2 .dpa with who := .lane 2 }
def laneJob (w : Nat) : Job := { k := 0, phase := .loaded, wrote := w, buf := asPBytes 0x40000000 (vecBytes (packetOf { value := 3 * 2 ^ 149, count := 1 })) }
def reducing (op : Nat) (j : Option Job) (ph : Phase) : State :=
  let s := withCmd (redCmd op ph) (queued sq64 cq64)
  match j with | some j => { s with gm := { s.gm with lanes := [(2, j)] }, tu := { s.tu with plans := [lanePlan] } } | none => s
theorem test_lane_assign : (after (.reduceLaneAssign 2) (reducing 0x32 none .ready)).gm.lanes = [(2, { k := 0 })] := by decide
theorem test_lane_hypotheses : getLane (reducing 0x32 (some (laneJob 0)) .running) 2 = some (laneJob 0)
    ∧ getCmd (reducing 0x32 (some (laneJob 0)) .running) 0 = some (redCmd 0x32 .running) ∧ planAt (reducing 0x32 (some (laneJob 0)) .running) (.lane 2) = .ready lanePlan.items
    ∧ lanePieces 0x32 (redRaw 0x32) (laneJob 0) = [0x40010] ∧ laneQuiet (reducing 0x32 (some (laneJob 1)) .running) 2 = true ∧ rdTiles (redRaw 0x32) = 1
    ∧ (lanePage 2 (laneJob 0) (redCmd 0x32 .running) lanePlan.items 0x40010 (reducing 0x32 (some (laneJob 0)) .running)).1 = true := by decide
/-- One sum of 3 rounds to 0x40400000 and the command ends. -/
theorem test_red_round : (after (.redRound 2) (reducing 0x32 (some (laneJob 0)) .running)).mem.bytes = [(0x40010002, 0x40), (0x40010003, 0x40)]
    ∧ (getCmd (after (.redRound 2) (reducing 0x32 (some (laneJob 0)) .running)) 0).map (fun c => (c.status, c.done)) = some (0, 1) := by decide
theorem test_red_other_row : after (.redSum 2) (reducing 0x32 (some (laneJob 0)) .running) = reducing 0x32 (some (laneJob 0)) .running := by decide
theorem test_empty_packet : packetOf {} = 0 ∧ accOfPacket 0 false false = {} := by decide
/-- A packet of a poisoned line, well-formed and with RANGE set beside a COUNT of 0. -/
theorem test_poisoned_packets : accOfPacket 0 true false = { poison := true } ∧ accOfPacket ((1 : Vec) <<< 388) true false = { nan := true, poison := true } := by decide +kernel
theorem test_lane_ramp : rampHolds (reducing 0x32 (some (laneJob 0)) .running) = false ∧ rampHolds (reducing 0x32 none .ready) = false
    ∧ rampHolds (loadedMove 0x10 (srcJob .loaded)) = false := by decide

/-! ### Atomics, journals and the memory system's rows -/

/-- An atomic on the 8 bytes at 0x40000008 of hub SRAM with A = 3, B = 9, at a stage, its page planned at a place of a kind. -/
def atRaw (op : Nat) : List Byte := entry [(0, BitVec.ofNat 8 op |>.toNat), (16, 1), (17, 1), (24, 8), (27, 0x40), (40, 3), (56, 9)]
def atCmd (op stage : Nat) (old : Option Nat) (aux : Nat) : Cmd := { cmdOf (atRaw op) with phase := .running, stage := stage, old := old, aux := aux }
def atPlan (k : OutKind) : Plan :=
  { who := .atomicUnit 0, f := 0, pasid := none, tenant := 0, report := false, cls := 0,
    items := [{ space := 1, page := 0x40000000, first := 0x40000008, rights := ⟨false, false, true⟩, st := .ok 0x40000000 k }] }
def atomicAt (op stage : Nat) (old : Option Nat) (aux : Nat) (k : OutKind) : State :=
  let s := withCmd (atCmd op stage old aux) (queued sq64 cq64)
  { s with tu := { s.tu with plans := [atPlan k] }, mem := { s.mem with bytes := [(0x1000, 0xFF), (0x40000008, 7), (0x40000010, 0xAA)] } }
theorem test_atomic_hypotheses : getCmd (atomicAt 0x40 1 none 0 .dpa) 0 = some (atCmd 0x40 1 none 0) ∧ planAt (atomicAt 0x40 1 none 0 .dpa) (.atomicUnit 0) = .ready (atPlan .dpa).items
    ∧ outOf (atPlan .dpa).items (atSpace (atRaw 0x40)) (atAddr (atRaw 0x40)) = some (0x40000008, .dpa) ∧ atSize (atRaw 0x40) = 8 := by decide
theorem test_atomic_quiet : quietLine (atomicAt 0x40 1 none 0 .dpa) 0x40000000 0 := by unfold quietLine; decide
theorem test_fetch_add : Memory.readN (after (.fetchAdd 0) (atomicAt 0x40 1 none 0 .dpa)).mem.bytes 0x40000008 8 = [10, 0, 0, 0, 0, 0, 0, 0]
    ∧ (getCmd (after (.fetchAdd 0) (atomicAt 0x40 1 none 0 .dpa)) 0).map (·.old) = some (some 7) := by decide
theorem test_swap : Memory.readN (after (.swap 0) (atomicAt 0x41 1 none 0 .dpa)).mem.bytes 0x40000008 8 = [3, 0, 0, 0, 0, 0, 0, 0] := by decide
/-- CAS writes B only over A. -/
theorem test_cas : atomicNew .cas 8 7 3 9 = 7 ∧ atomicNew .cas 8 3 3 9 = 9 := by decide
/-- 0xFFFFFFFF is −1 as a signed 4-byte integer. -/
theorem test_min_max : atomicNew .minS 4 0xFFFFFFFF 1 0 = 0xFFFFFFFF ∧ atomicNew .maxS 4 0xFFFFFFFF 1 0 = 1 ∧ atomicNew .minU 4 0xFFFFFFFF 1 0 = 1
    ∧ atomicNew .maxU 4 0xFFFFFFFF 1 0 = 0xFFFFFFFF := by decide
theorem test_and_or_xor : atomicNew .and 4 0xC 0xA 0 = 8 ∧ atomicNew .or 4 0xC 0xA 0 = 0xE ∧ atomicNew .xor 4 0xC 0xA 0 = 6 ∧ atomicNew .add 4 0xFFFFFFFF 1 0 = 0 := by decide
def requester (s : State) : State :=
  { s with gw := { s.gw with fns := [(0, ⟨false, false, false, 0, true, false, true, false, false, 128, 512, 0⟩)] } }
theorem test_host_atomic : (after (.cas 0) (requester (atomicAt 0x42 1 none 0 .host))).out.head? = some (.hostAtomic 0 0 0x40000008 .cas 8 3 9 (cmdTag (requester (atomicAt 0x42 1 none 0 .host)) 0 0))
    ∧ (getCmd (after (.fetchMinS 0) (requester (atomicAt 0x43 1 none 0 .host))) 0).map (·.status) = some stField := by decide
theorem test_atomic_done : (getCmd (after (.fetchXor 0) (atomicAt 0x49 2 (some 5) 0 .dpa)) 0).map (fun c => (c.status, c.done)) = some (0, 1) := by decide
/-- A FETCH_ADD of 3 on host memory of context 1, which has a bounce region; and its unit read. -/
def bnRaw : List Byte := entry [(0, 0x40), (17, 1), (24, 8), (27, 0x40), (40, 3)]
def bnSlot : Slot := { st := 1, bounce := true, f := 0, ctx := 1, key := 9, bufBase := 0x40000000, bufLen := 0x10000, tagBase := 0x50000000 }
def bounced (bn : Option (Nat × Slot)) (stage : Nat) (buf : List PByte) : State :=
  let s := requester (withCmd { cmdOf bnRaw with phase := .running, stage := stage, buf := buf } (queued sq64 cq64))
  { s with sp := { s.sp with slots := bn.toList }, tu := { s.tu with
      plans := [{ atPlan .host with items := (atItems (some (0, bnSlot)) bnRaw).map fun it => { it with st := .ok it.page .host } }] } }
theorem test_bounce_atomic_read : bounceOf (bounced (some (0, bnSlot)) 1 []) 0 1 = some (0, bnSlot) ∧ (fnCfg (bounced (some (0, bnSlot)) 1 []) 0).atomicReq = true
    ∧ (getCmd (after (.fetchAdd 0) (bounced (some (0, bnSlot)) 1 [])) 0).map (·.stage) = some 5
    ∧ (after (.fetchAdd 0) (bounced (some (0, bnSlot)) 1 [])).gw.reads.length = 17 := by decide +kernel
/-- The target's eight bytes as read: 7, good or poisoned. -/
def bnBuf (p : Option Nat) : List PByte := (List.range 8).map fun i => { at_ := sideAt 2 (0x40000008 + i), val := if i = 0 then 7 else 0, poison := p }
theorem test_bounce_atomic_done : ioOpen (bounced none 5 (bnBuf none)) (.atomicUnit 0) = false ∧ atAddr bnRaw = 0x40000008
    ∧ pnum (bufBytes (bnBuf none) 2 (atAddr bnRaw) 8) = 7 ∧ (ppoison (bufBytes (bnBuf none) 2 (atAddr bnRaw) 8)).isSome = false
    ∧ (ppoison (bufBytes (bnBuf (some 0)) 2 (atAddr bnRaw) 8)).isSome = true
    ∧ (getCmd (after (.fetchAdd 0) (bounced none 5 (bnBuf none))) 0).map (fun c => (c.stage, c.old)) = some (2, some 7) := by decide +kernel
/-- A performed atomic whose old value, 7, goes to 0x40000100; and one whose result page cannot be used. -/
def resRaw : List Byte := entry [(0, 0x40), (16, 1), (17, 1), (18, 0x81), (24, 8), (27, 0x40), (33, 1), (35, 0x40), (40, 3)]
def resulting (st : ItemSt) : State :=
  let s := withCmd { cmdOf resRaw with phase := .running, stage := 2, old := some 7 } (queued sq64 cq64)
  { s with tu := { s.tu with plans := [{ atPlan .dpa with items := (atPlan .dpa).items.map fun it => { it with st := st, rights := wrRights } }] } }
theorem test_atomic_result : atResultEn resRaw = true ∧ atResSpace resRaw = 1 ∧ atResult resRaw = 0x40000100 ∧ atResLen resRaw = 8
    ∧ (after (.fetchAdd 0) (resulting (.ok 0x40000000 .dpa))).mem.bytes = [(0x40000100, 7)]
    ∧ (getCmd (after (.fetchAdd 0) (resulting (.ok 0x40000000 .dpa))) 0).map (fun c => (c.status, c.done)) = some (0, 1)
    ∧ (getCmd (after (.fetchAdd 0) (resulting (.bad .absent))) 0).map (fun c => (c.status, c.done, c.fault)) = some (stFault, 1, 0x40000100) := by decide +kernel
theorem test_host_atomic_answers : (getCmd (after (.hostAtomicCompletion 0 (.old 41)) (atomicAt 0x40 2 none 1 .host)) 0).map (·.old) = some (some 41)
    ∧ (getCmd (after (.hostAtomicTimeout 0) (atomicAt 0x40 2 none 1 .host)) 0).map (fun c => (c.status, c.done, c.fault)) = some (stPoisoned, 0, 0x40000008) := by decide
/-- A request that the home has journalled, and one it has not. -/
def journal : State := { atomicAt 0x40 1 none 0 .dpa with mem := { (atomicAt 0x40 1 none 0 .dpa).mem with journal := [⟨9, 5, 64, 7, none⟩] } }
theorem test_journal_hypotheses : journal.mem.journal.find? (fun e => e.src = 9 && e.seq = 5) = some ⟨9, 5, 64, 7, none⟩
    ∧ journal.mem.journal.find? (fun e => e.src = 9 && e.seq = 6) = none ∧ (journal.mem.journal.filter fun e => e.home = 64).length < 4096 ∧ journal.mem.queue = [] := by decide
theorem test_journal_quiet : quietLine journal 0x40000000 0 := by unfold quietLine; decide
theorem test_journal_full : ((List.replicate 4096 (⟨1, 2, 64, 0, none⟩ : JEntry)).filter fun e => e.home = 64).length = 4096 := by simp
theorem test_journalled_once : (after (.journaledRequest 9 5 0x40000008 0 ⟨.atomic .add 8 1 0, 0⟩) journal).mem.bytes = journal.mem.bytes
    ∧ Memory.read (after (.journaledRequest 9 6 0x40000008 0 ⟨.atomic .add 8 1 0, 0⟩) journal).mem.bytes 0x40000008 = 8 := by decide
theorem test_journal_ack : (after (.journalAck 9 5) journal).mem.journal = [] := by decide
/-- A line with a damaged copy, and the patrol on. -/
def patrol : State := setReg .ms 0 0x04C 0x80000000 { journal with mem := { journal.mem with uncorrectable := [0x40000040], correctable := [0x40000080] } }
theorem test_patrol_hypotheses : replicaAt patrol 0x40000040 = none ∧ mget patrol.mem.poison 0x40000040 = none ∧ bit (getReg patrol .ms 0 0x04C) 31 = true
    ∧ patrol.mem.uncorrectable.contains 0x40000040 = true ∧ replicaAt patrol 0x40000080 = none ∧ patrol.mem.correctable.contains 0x40000080 = true
    ∧ patrol.mem.uncorrectable.contains 0x40000080 = false ∧ bit (getReg (setReg .ms 0 0x04C 0 journal) .ms 0 0x04C) 31 = false := by decide
theorem test_patrol : (after (.patrolScrub 0x40000040) patrol).mem.poison = [(0x40000040, 0)] ∧ (after (.patrolScrub 0x40000080) patrol).mem.correctable = [] := by decide
/-- The same hub with core 6 granted nothing. -/
def unruly (s : State) : State := { s with hm := { s.hm with cores := [(0, wide), (6, { st := 0 })] } }
theorem test_patrol_barred : patrolBarred (unruly patrol) 0x40000040 = true ∧ patrolBarred patrol 0x40000040 = false ∧ patrolBarred patrol 0x40000080 = false
    ∧ region patrol 0x40000040 = 0 ∧ (getCore patrol 6).st = 0 ∧ (getCore (after (.patrolScrub 0x40000040) (unruly patrol)) 6).st = 1 := by decide
/-- Entry 3: two copies of 64 KiB on two stacks of HBM groups in linear mode. -/
def replica : State := setReg .ms 0 0x068 3 (setReg .ms 3 0x070 1 (setReg .ms 3 0x074 0x400000 (setReg .ms 3 0x078 0x404000
  { up with mem := { up.mem with modesHbm := 2 ^ 62 - 1 } })))
theorem test_replica_hypotheses : canWrite replica pf .ms 0x06C ∧ canWrite (setReg .ms 3 0x06C 0xC0000000 replica) pf .ms 0x06C
    ∧ canWrite replica pf .ms 0x040 := by unfold canWrite; decide
theorem test_replica_enable : getReg (after (.replicaEnable pf 0x80000000) replica) .ms 3 0x06C = 0xC0000000
    ∧ getReg (after (.replicaEnable pf 0x82000000) replica) .ms 3 0x06C = 0x22000000 := by decide
theorem test_replica_disable : bit (getReg (setReg .ms 3 0x06C 0xC0000000 replica) .ms (bankOf replica .ms 0x06C) 0x06C) 31 = true
    ∧ getReg (after (.replicaDisable pf 0) (setReg .ms 3 0x06C 0xC0000000 replica)) .ms 3 0x06C = 0 := by decide
theorem test_sync_done : getReg (after (.replicaSyncDone 3) (setReg .ms 3 0x06C 0xC0000000 replica)) .ms 3 0x06C = 0x80000000 := by decide
/-- Entry 3 enabled and synced, the second copy of its first line uncorrectable. -/
def mirrored : State :=
  setReg .ms 3 0x06C 0x80000000 (setReg .ms 3 0x070 1 (setReg .ms 3 0x074 0x400000 (setReg .ms 3 0x078 0x404000 { patrol with
    mem := { patrol.mem with modesHbm := 2 ^ 62 - 1 },
    sp := { patrol.sp with slots := [(0, { st := 1, bounce := false, f := 0, ctx := 0, key := 9 })] } })))
def torn : State :=
  { mirrored with mem := { mirrored.mem with uncorrectable := [place mirrored 0x4040000000], blocks := [(place mirrored 0x4000000000 / 256, ⟨9, 0x4000000000⟩)] } }
theorem test_repair_hypotheses : replicaAt torn 0x4040000000 = some (3, 1) ∧ bit (getReg torn .ms 3 0x06C) 30 = false
    ∧ torn.mem.uncorrectable.contains (place torn 0x4040000000) = true ∧ (copiesOf torn 0x4000000000).findSome? (tenantOf torn) = some 0
    ∧ patrolBarred torn 0x4040000000 = false ∧ region torn 0x4040000000 = 1
    ∧ agreed 0 (((copiesOf torn 0x4000000000).filter fun x => lookAt torn x 0 = .good).map (lineBytes torn)) = some (lineBytes torn 0x4000000000) := by decide +kernel
theorem test_repair : (after (.patrolScrub 0x4040000000) torn).mem.uncorrectable = [] := by decide +kernel
theorem test_sync_barred : syncBarred (unruly (setReg .ms 3 0x06C 0xC0000000 replica)) 3 = true ∧ syncBarred (setReg .ms 3 0x06C 0xC0000000 replica) 3 = false
    ∧ bit 0x80000000 30 = false := by decide
theorem test_group_modes : getReg (after (.groupModeWrite pf 0x040 5) up) .ms 0 0x040 = 5
    ∧ (after (.groupModeApply false 2) (after (.groupModeWrite pf 0x040 5) up)).mem.modesHbm = 4
    ∧ (after (.groupModeWrite pf 0x040 5) up).mem.modeFrom = [(0, 0), (2, 0)]
    ∧ (after (.groupModeApply true 0) (after (.groupModeWrite pf 0x048 1) up)).mem.modesLpddr = 1 := by decide
/-- A request that waits at an HBM line of group 0. -/
def waiting : State := { up with mem := { up.mem with modeFrom := [(0, 5)], queue := [{ id := 4, line := 0x4000000000, tenant := 0, firmware := false, origin := pf, cls := 0, act := .read, who := .none, jid := none }] } }
theorem test_group_waits : tier 0x4000000000 = 1 ∧ groupOf 0x4000000000 = (false, 0) ∧ after (.groupModeApply false 0) (setReg .ms 0 0x040 1 waiting) = setReg .ms 0 0x040 1 waiting := by
  decide
/-- At the reset parameters (R347, Example 8.2): 64 falls to 32 beyond HIGH 96, then climbs by 4 below LOW 24. -/
theorem test_regulation : limitOf (after (.regulationUpdate [97]) up) 0 = 32 ∧ limitOf (after (.regulationUpdate [23]) (after (.regulationUpdate [97]) up)) 0 = 36 := by decide

/-! ### Admin commands -/

/-- An admin command of the PF, ready or in progress at stage 1, over a hub whose core 1 runs; the PF's quotas are 8
queues of each kind, 8 contexts and 4 fence blocks. -/
def admRaw (op : Nat) (l : List (Nat × Nat)) : List Byte := entry ((0, op) :: l)
def admCmd (raw : List Byte) : Cmd := { cmdOf raw with sq := 0 }
def admin0 : State := setReg .qe 0 0x054 0x80008 (setReg .qe 0 0x058 0x80004 { queued sq64 cq64 with hm := { up.hm with cores := [(1, { st := 0 })] } })
def adm (op : Nat) (l : List (Nat × Nat)) : State := withCmd (admCmd (admRaw op l)) admin0
def admRun (op : Nat) (l : List (Nat × Nat)) (stage : Nat) : State := withCmd { admCmd (admRaw op l) with phase := .running, stage := stage } admin0
/-- How command 0 stands after a command: status, DETAIL, DONE. -/
def endOf (s : State) : Option (Nat × Nat × Nat) := (getCmd s 0).bind fun c => if c.phase = .finished then some (c.status, c.detail, c.done) else none
/-- QUEUE_CREATE_SQ of slot 70 on CQ `cq`, context 1, and QUEUE_CREATE_CQ of slot 70. -/
def sqArgs (slot cq : Nat) : List (Nat × Nat) := [(16, slot), (18, cq), (20, 4), (22, 4), (23, 0xFF), (24, 1), (26, 0xFF), (33, 0x50)]
def cqArgs (slot : Nat) : List (Nat × Nat) := [(16, slot), (20, 4), (22, 3), (24, 1), (28, 0xFF), (29, 0xFF), (33, 0x60)]
theorem test_create_hypotheses : (adminAt (adm 0x80 (sqArgs 70 64)) 0 0x80).isSome = true ∧ (adminAt (adm 0x81 (cqArgs 70)) 0 0x81).isSome = true
    ∧ ((adm 0x80 (sqArgs 70 64)).qe.sqs.filter fun p => 64 ≤ p.1 && p.2.f = 0).length < quota (adm 0x80 (sqArgs 70 64)) 0 0x054 28 16
    ∧ mget (adm 0x80 (sqArgs 70 64)).qe.cqs 64 = some cq64 ∧ (mget (adm 0x80 (sqArgs 70 64)).qe.ctxs 1).isSome = true := by decide
theorem test_create_sq : endOf (after (.queueCreateSq 0) (adm 0x80 (sqArgs 70 64))) = some (0, 0, 70)
    ∧ (mget (after (.queueCreateSq 0) (adm 0x80 (sqArgs 70 64))).qe.sqs 70).map (fun q => (q.base, q.cq)) = some (0x5000, 64) := by decide
theorem test_create_sq_errors : endOf (after (.queueCreateSq 0) (adm 0x80 (sqArgs 64 64))) = some (stBusy, 0, 0)
    ∧ endOf (after (.queueCreateSq 0) (adm 0x80 (sqArgs 70 65))) = some (stField, 18, 0)
    ∧ endOf (after (.queueCreateSq 0) (setReg .qe 0 0x054 0 (adm 0x80 (sqArgs 70 64)))) = some (stNoResource, 0, 0)
    ∧ quota (setReg .qe 0 0x054 0 (adm 0x80 (sqArgs 70 64))) 0 0x054 28 16 = 0 := by decide
/-- A VF's command that names function 2. -/
def vfCreate : State := withCmd { admCmd (admRaw 0x80 ((26, 2) :: sqArgs 70 64)) with sq := 1, f := 1 } { admin0 with hm := { up.hm with cores := [(2, { st := 0 })] } }
theorem test_create_not_permitted : (adminAt vfCreate 0 0x80).isSome = true ∧ endOf (after (.queueCreateSq 0) vfCreate) = some (stNotPermitted, 0, 0) := by decide
theorem test_create_cq : (mget (after (.queueCreateCq 0) (adm 0x81 (cqArgs 70))).qe.cqs 70).map (fun q => (q.base, q.vector)) = some (0x6000, 3)
    ∧ endOf (after (.queueCreateCq 0) (setReg .qe 0 0x054 0 (adm 0x81 (cqArgs 70)))) = some (stNoResource, 0, 0) := by decide
/-- CQ 65, which no SQ names. -/
def spareCq (s : State) : State := { s with qe := { s.qe with cqs := [(64, cq64), (65, cq64)] } }
theorem test_destroy_cq : endOf (after (.queueDestroy 0) (adm 0x82 [(16, 64), (18, 1)])) = some (stBusy, 0, 0)
    ∧ (after (.queueDestroy 0) (spareCq (adm 0x82 [(16, 65), (18, 1)]))).qe.cqs = [(64, cq64)] := by decide
theorem test_destroy_sq : (mget (after (.queueDestroy 0) (adm 0x82 [(16, 64)])).qe.sqs 64).map (·.destroying) = some true
    ∧ (after (.queueDestroyFinish 0) (admRun 0x82 [(16, 64)] 1)).qe.sqs = []
    ∧ ((admRun 0x82 [(16, 64)] 1).qe.cmds.any fun p => p.2.sq = 64) = false ∧ (adminIn (admRun 0x82 [(16, 64)] 1) 0 0x82).isSome = true := by decide
/-- The same with a command of SQ 64 at work. -/
def stillBusy : State := { admRun 0x82 [(16, 64)] 1 with qe := { (admRun 0x82 [(16, 64)] 1).qe with cmds := [(0, { admCmd (admRaw 0x82 [(16, 64)]) with phase := .running, stage := 1 }), (1, cmdOf (entry []))] } }
theorem test_destroy_waits : (stillBusy.qe.cmds.any fun p => p.2.sq = 64) = true ∧ after (.queueDestroyFinish 0) stillBusy = stillBusy := by decide
/-! Contexts. -/
/-- The PF with PASID Enable and ATS Enable set, or not. -/
def pasidCtx (b : Bool) : State :=
  let s := adm 0x84 [(16, 9), (20, 5), (23, 0x80), (24, 1)]
  { s with gw := { s.gw with fns := [(0, { fnCfg s 0 with pasid := b, ats := b })] } }
theorem test_create_ctx_pasid : endOf (after (.contextCreate 0) (pasidCtx false)) = some (stField, 20, 0) ∧ (adminAt (pasidCtx false) 0 0x84).isSome = true
    ∧ (adminAt (pasidCtx true) 0 0x84).isSome = true ∧ (fnCfg (pasidCtx true) 0).pasid = true ∧ (fnCfg (pasidCtx true) 0).ats = true := by decide
theorem test_create_ctx : (mget (after (.contextCreate 0) (pasidCtx true)).qe.ctxs 9).map (fun x => (x.pasid, x.report, x.drop)) = some (some 5, true, false)
    ∧ (adminAt (adm 0x84 [(16, 9), (20, 5), (23, 0x80), (24, 1)]) 0 0x84).isSome = true
    ∧ ((adm 0x84 [(16, 9), (25, 0xFF)]).qe.ctxs.filter fun p => p.2.f = 0).length < quota (adm 0x84 [(16, 9), (25, 0xFF)]) 0 0x058 28 16 := by decide
/-- Context 1 as drained, as used, or fresh; command 1 waits on a fence in it. -/
def ctx1 (drained used : Bool) : Ctx := { f := 0, pasid := none, report := false, drop := false, drained := drained, used := used, aborted := 2 }
def withCtx (x : Ctx) (s : State) : State := { s with qe := { s.qe with ctxs := [(1, x)] } }
def fenceWaits (s : State) : State := { s with qe := { s.qe with cmds := s.qe.cmds ++ [(1, { cmdOf (entry []) with phase := .fence })], nextK := 2 } }
theorem test_drain_hypotheses : (adminAt (withCtx (ctx1 true false) (adm 0x86 [(16, 1)])) 0 0x86).isSome = true
    ∧ (∀ p ∈ (fenceWaits (adm 0x86 [(16, 1)])).qe.sqs, 64 ≤ p.1 → p.2.ready = [])
    ∧ (adminIn (withCtx (ctx1 false true) (admRun 0x86 [(16, 1)] 1)) 0 0x86).isSome = true
    ∧ (((admRun 0x86 [(16, 1)] 1).qe.sqs.filter fun p => 64 ≤ p.1 && p.2.owner = 1).all fun p => p.2.drainedOut) = true
    ∧ ((admRun 0x86 [(16, 1)] 2).qe.cmds.any fun p => 64 ≤ p.2.sq && p.2.ctx = 1 && p.2.phase ≠ .finished) = false
    ∧ ((fenceWaits (admRun 0x86 [(16, 1)] 2)).qe.cmds.any fun p => 64 ≤ p.2.sq && p.2.ctx = 1 && p.2.phase ≠ .finished) = true := by decide
theorem test_drain : endOf (after (.contextDrain 0) (withCtx (ctx1 true false) (adm 0x86 [(16, 1)]))) = some (0, 0, 0)
    ∧ (mget (after (.contextDrain 0) (fenceWaits (adm 0x86 [(16, 1)]))).qe.sqs 64).map (·.en) = some false
    ∧ (getCmd (after (.contextDrain 0) (fenceWaits (adm 0x86 [(16, 1)]))) 1).map (·.status) = some stAborted := by decide
theorem test_drain_finish : (getCmd (after (.contextDrainFinish 0) (withCtx (ctx1 false true) (admRun 0x86 [(16, 1)] 1))) 0).map (fun c => (c.stage, c.aux)) = some (2, 2)
    ∧ (mget (after (.contextDrainFinish 0) (admRun 0x86 [(16, 1)] 2)).qe.ctxs 1).map (·.drained) = some true
    ∧ after (.contextDrainFinish 0) (fenceWaits (admRun 0x86 [(16, 1)] 2)) = fenceWaits (admRun 0x86 [(16, 1)] 2) := by decide
theorem test_destroy_ctx : (after (.contextDestroy 0) (withCtx (ctx1 true true) (adm 0x85 [(16, 1)]))).qe.ctxs = []
    ∧ endOf (after (.contextDestroy 0) (withCtx (ctx1 false true) (adm 0x85 [(16, 1)]))) = some (stBusy, 0, 0)
    ∧ (adminAt (withCtx (ctx1 true true) (adm 0x85 [(16, 1)])) 0 0x85).isSome = true := by decide
theorem test_destroy_ctx_hypotheses : (∀ p ∈ (adm 0x85 [(16, 1)]).qe.blocks, p.2.ctx ≠ 1) ∧ ∀ b, b < 8 → (getBerth (adm 0x85 [(16, 1)]) b).grants.contains 1 = false :=
  ⟨by decide, fun _ _ => rfl⟩
/-! Fence blocks: every block but 255 is allotted, so there is one choice. -/
def crowded (s : State) : State := { s with qe := { s.qe with blocks := (List.range 255).map fun b => (b, { f := 9, ctx := 7 }) } }
theorem test_fence_alloc_hypotheses : (adminAt (crowded (adm 0x88 [(16, 1), (18, 1)])) 0 0x88).isSome = true
    ∧ ((crowded (adm 0x88 [(16, 1), (18, 1)])).qe.blocks.filter fun p => p.2.f = 0).length + 1 ≤ quota (crowded (adm 0x88 [(16, 1), (18, 1)])) 0 0x058 8 0
    ∧ mhas (crowded (adm 0x88 [(16, 1), (18, 1)])).qe.blocks (255 + 0) = false := by decide +kernel
theorem test_fence_alloc : endOf (after (.fenceAlloc 0) (crowded (adm 0x88 [(16, 1), (18, 1)]))) = some (0, 0, 255) := by decide +kernel
def allotted : State := { adm 0x89 [(16, 3)] with qe := { (adm 0x89 [(16, 3)]).qe with blocks := [(3, { f := 0, ctx := 1 })] } }
theorem test_fence_free_hypotheses : (adminAt allotted 0 0x89).isSome = true ∧ (mget allotted.qe.blocks 3).map (·.f) = some 0 := by decide
theorem test_fence_free : (after (.fenceFree 0) allotted).qe.blocks = [] ∧ (getFence (after (.fenceFree 0) allotted) (256 * 3 + 255)).status = 2 := by decide +kernel
/-! Recipes: step 0 is a NOP word, 0; 0xFFFFFFFF is no step. -/
def placing (b : Nat) : State :=
  withCmd { admCmd (admRaw 0x8C [(16, 9), (18, 1)]) with phase := .running, stage := 2, buf := (List.range 4).map fun i => { at_ := i, val := BitVec.ofNat 8 b } } admin0
theorem test_recipe_hypotheses : ioOpen (placing 0) (.recipe 0) = false ∧ firstBadStep [0] = none ∧ firstBadStep [0xFFFFFFFF] = some 0 ∧ adminCoreUp (placing 0) 0 = true
    ∧ mget (placing 0).qe.recipes 9 = none ∧ adminCoreUp (adm 0x8C [(16, 9), (18, 1)]) 0 = true := by decide
theorem test_recipe_store : (after (.recipeStore 0) (placing 0)).qe.recipes = [(9, { f := 0, steps := [0] })] ∧ endOf (after (.recipeStore 0) (placing 0)) = some (0, 0, 9)
    ∧ endOf (after (.recipeStore 0) (placing 0xFF)) = some (stField, 24, 0) := by decide
/-- A table that lists every number below n has each of them. -/
theorem mhas_range {α : Type} (x : α) (n : Nat) : ∀ (m k : Nat), m ≤ k → k < m + n → mhas ((List.range' m n).map fun i => (i, x)) k = true := by
  induction n with
  | zero => intro m k h1 h2; omega
  | succ n ih =>
    intro m k h1 h2
    by_cases hk : m = k
    · subst hk; simp [List.range'_succ, mhas, mget]
    · have := ih (m + 1) k (by omega) (by omega)
      simpa [List.range'_succ, mhas, mget, hk] using this
/-- Every recipe in use. -/
def storeFull (s : State) : State := { s with qe := { s.qe with recipes := (List.range' 0 1024).map fun i => (i, { f := 0, steps := [0] }) } }
theorem test_recipe_full : freeNums (storeFull State.reset).qe.recipes 0 1024 = [] ∧ (storeFull State.reset).qe.recipes.length = 1024 := by
  refine ⟨?_, by simp [storeFull]⟩
  simp only [freeNums, storeFull, List.filter_eq_nil_iff, List.mem_range'_1]
  intro a h
  simp [mhas_range _ 1024 0 a (by omega) (by omega)]
theorem test_recipe_read : (after (.recipeStore 0) (adm 0x8C [(16, 9), (18, 1)])).gw.reads.map (fun r => (r.who, r.len)) = [(.recipe 0, 4)] := by decide
def stored (s : State) : State := { s with qe := { s.qe with recipes := [(9, { f := 0, steps := [0] })] } }
theorem test_recipe_delete : (after (.recipeDelete 0) (stored (adm 0x8D [(16, 9)]))).qe.recipes = [] ∧ endOf (after (.recipeDelete 0) (adm 0x8D [(16, 9)])) = some (stRecipe, 0, 0)
    ∧ (adminAt (stored (adm 0x8D [(16, 9)])) 0 0x8D).isSome = true := by decide
/-! Windows on the manager's own hub, 12. -/
def manager (s : State) : State := { s with hl := { s.hl with role := 3, idValid := true, hubId := 12, manager := some 12 } }
def winArgs : List (Nat × Nat) := [(18, 5), (20, 7), (24, 1), (42, 1), (30, 0xFF)]
theorem test_window_create : (after (.windowCreate 0) (manager (adm 0x8A winArgs))).hl.inw.map (fun p => (p.1, p.2.open_)) = [(5, true)]
    ∧ (after (.windowCreate 0) (manager (adm 0x8A winArgs))).hl.dir.map (·.tag) = [7] ∧ (adminAt (manager (adm 0x8A winArgs)) 0 0x8A).isSome = true := by decide
def inWin5 : InWin := { f := 0, base := 0, len := 0x10000, rights := ⟨true, false, false⟩, tag := 7, allowId := 0, allowMask := 0 }
def owning (s : State) : State := let s := manager s; { s with hl := { s.hl with inw := [(5, inWin5)], dir := [⟨12, 5, 7, 0x10000, inWin5.rights, 0, 0⟩] } }
theorem test_window_destroy : ((after (.windowDestroy 0) (owning (adm 0x8B [(18, 5)]))).hl.inw.map fun p => p.2.open_) = [false]
    ∧ (after (.windowDestroy 0) (owning (admRun 0x8B [(18, 5)] 1))).hl.inw = [] ∧ (after (.windowDestroy 0) (owning (admRun 0x8B [(18, 5)] 1))).hl.dir = []
    ∧ (adminAt (owning (adm 0x8B [(18, 5)])) 0 0x8B).isSome = true ∧ adminAt (owning (admRun 0x8B [(18, 5)] 1)) 0 0x8B = none
    ∧ (adminIn (owning (admRun 0x8B [(18, 5)] 1)) 0 0x8B).isSome = true := by decide
/-! Key sessions: every slot but 127 of the few that are free is listed as tenant 9's. -/
def slotsFull (n : Nat) : NMap Slot := (List.range n).map fun i => (i, { st := 1, bounce := true, f := 9, ctx := i, key := 3 })
theorem test_key_hypotheses : (adminAt (adm 0x8E [(17, 2)]) 0 0x8E).isSome = true ∧ freeNums (adm 0x8E [(17, 2)]).sp.slots 0 128 ≠ [] := by decide
/-- What follows a passed test of the random source, whose outcome is a free value; and a source that failed at boot. -/
theorem test_key_open : (slotOpen 0 { st := 1, bounce := false, f := 2, ctx := 0, key := 2 } (adm 0x8E [(17, 2)])).sp.nextKey = 1
    ∧ endOf (after (.keySessionOpen 0) (let s := adm 0x8E [(17, 2)]; { s with sp := { s.sp with trngOk := false } })) = some (stNoResource, 0, 0) := by decide
def slot5 (bounce : Bool) : Slot := { st := 1, bounce := bounce, f := 2, ctx := 6, key := 4 }
def keyed (bounce : Bool) (s : State) : State := { s with sp := { s.sp with slots := [(5, slot5 bounce)] } }
theorem test_key_busy : endOf (after (.keySessionOpen 0) (keyed false (adm 0x8E [(17, 2)]))) = some (stBusy, 0, 0) := by decide
theorem test_key_close : (after (.keySessionClose 0) (keyed true (adm 0x8F [(16, 5)]))).sp.slots = [(5, { slot5 true with st := 2, key := 0 })]
    ∧ (adminAt (keyed true (adm 0x8F [(16, 5)])) 0 0x8F).isSome = true := by decide
/-! Streams on link 3. -/
def streamArgs : List (Nat × Nat) := [(16, 2), (17, 3), (28, 64), (30, 8), (42, 2), (50, 1), (56, 4)]
theorem test_stream : (after (.streamCreate 0) (setReg (.hlLink 3) 0 0x040 0x40000000 (adm 0x90 streamArgs))).st.chans.map (fun p => (p.1, p.2.pitch)) = [(2, 64)]
    ∧ isEther (setReg (.hlLink 3) 0 0x040 0x40000000 (adm 0x90 streamArgs)) 3 = true ∧ (adminAt (adm 0x90 streamArgs) 0 0x90).isSome = true := by decide
def chan2 : Chan := { link := 3, kind := 0, sample := 0, streamId := 0, width := 64, height := 8, ring := 0, pitch := 64, slots := 2, cls := 0, deadline := 0, desc := 0x10000,
                      descLog2 := 4, vector := 0 }
theorem test_stream_destroy : (after (.streamDestroy 0) { adm 0x91 [(16, 2)] with st := { chans := [(2, chan2)] } }).st.chans.map (fun p => p.2.ending) = [true]
    ∧ endOf (after (.streamDestroy 0) (admRun 0x91 [(16, 2)] 1)) = some (0, 0, 2) ∧ (adminAt (adm 0x91 [(16, 2)]) 0 0x91).isSome = true
    ∧ adminAt (admRun 0x91 [(16, 2)] 1) 0 0x91 = none ∧ (adminIn (admRun 0x91 [(16, 2)] 1) 0 0x91).isSome = true := by decide

/-! ### Churn -/

/-- A CHURN of one 4 KiB window at DPA 0x40000000 (engine 4096 of cluster 64), ITER 2, with one inline step. -/
def chRaw (op : Nat) : List Byte := entry [(0, op), (16, 1), (17, 2), (18, 12), (27, 0x40), (40, 1), (43, 2)]
def chCmd (op : Nat) (ph : Phase) : Cmd := { cmdOf (chRaw op) with phase := ph }
def win0 (started : Bool) : Win := { w := 0, dpa := 0x40000000, runs := true, started := started }
def chPlan : Plan := { who := .churn 0, f := 0, pasid := none, tenant := 0, report := false, cls := 0, items := [{ space := 2, page := 0x40000000, first := 0x40000000, rights := ⟨true, true, true⟩, st := .ok 0x40000000 .dpa }] }
def chReady (op : Nat) : State := withCmd (chCmd op .ready) (queued sq64 cq64)
/-- The command planned with steps `ws`, its cluster running it or not. -/
def churning (ws : List Word) (planned started : Bool) (cl : Cluster) (es : NMap Eng) : State :=
  { withCmd (chCmd 0x20 .running) (queued sq64 cq64) with
    ch := { runs := [(0, { steps := ws, wins := if planned then [win0 started] else [], planned := planned, clusters := if planned then [64] else [] })], clusters := [(64, cl)], engines := es },
    tu := { up.tu with plans := [chPlan] } }
theorem test_churn_hypotheses : (startable (chReady 0x20) 0 0x20).isSome = true ∧ (startable (chReady 0x21) 0 0x21).isSome = true ∧ chLines (chRaw 0x20) = 0
    ∧ getRun (churning [0] false false {} []) 0 = some { steps := [0] } ∧ (getPlan (churning [0] false false {} []) (.churn 0)) = some chPlan
    ∧ ((List.range (chWindows (chRaw 0x20) + chExtra (chRaw 0x20))).map fun w => (w, placeWin (chRaw 0x20) chPlan.items w)) = [(0, Placed.at_ 0x40000000)] := by decide +kernel
theorem test_churn_inline : (getRun (after (.churnInline 0) (chReady 0x20)) 0).map (·.steps) = some [0] ∧ (getPlan (after (.churnInline 0) (chReady 0x20)) (.churn 0)).isSome = true := by decide
def recipe0 (s : State) : State := { s with qe := { s.qe with recipes := [(0, { f := 0, steps := [7, 8] })] } }
theorem test_churn_stored : (getRun (after (.churnStored 0) (recipe0 (chReady 0x21))) 0).map (·.steps) = some [7, 8] ∧ endOf (after (.churnStored 0) (chReady 0x21)) = some (stRecipe, 0, 0) := by decide
theorem test_window_plan : (getRun (after (.windowPlanDone 0) (churning [0] false false {} [])) 0).map (fun r => (r.wins, r.planned, r.clusters)) = some ([win0 false], true, [64]) := by decide +kernel
/-- The command whose one broadcast line has been read. -/
def lineRead : State :=
  let s := churning [0] false false {} []
  { s with ch := { s.ch with runs := mupd s.ch.runs 0 fun r => { r with reading := true, buf := (List.range 64).map fun i => { at_ := i, val := BitVec.ofNat 8 i } } } }
theorem test_lines_taken : ioOpen lineRead (.churn 0) = false ∧ bounceOf lineRead 0 1 = none ∧ (getRun (after (.windowPlanDone 0) lineRead) 0).map (fun r => (r.planned, r.reading, r.buf)) = some (true, false, []) := by decide +kernel
theorem test_sequencer : (getCluster (after (.sequencerStart 64) (churning [0] true false {} [])) 64).run = some 0
    ∧ after (.sequencerStart 64) (churning [0] false false {} []) = churning [0] false false {} [] := by decide +kernel
theorem test_sequencer_hypotheses : runCheck 0 (churning [0] true false {} []) = churning [0] true false {} [] ∧ rampHolds (churning [0] true false {} []) = false
    ∧ (∀ it ∈ chPlan.items, isWinPage (chRaw 0x20) it = true → it.isOk = true)
    ∧ ((List.range (chWindows (chRaw 0x20) + chExtra (chRaw 0x20))).map fun w => (w, placeWin (chRaw 0x20) (chPlan.items.filter fun it => isWinPage (chRaw 0x20) it) w))
      = [(0, Placed.at_ 0x40000000)] := by decide +kernel
theorem test_window_start : getEng (after (.windowStart 4096) (churning [0] true false { run := some 0 } [])) 4096 = { win := some 0, k := 0, round := 0 } := by decide +kernel
theorem test_window_start_hypotheses : ((engWins { steps := [0], wins := [win0 false] } 4096).zipIdx.find? fun w => !w.1.started && !w.1.ended) = some (win0 false, 0)
    ∧ writesPerformed (churning [0] true false { run := some 0 } []) 0 = true := by decide +kernel
def atBarrier : State := churning [0x7C000000, 0] true true { run := some 0 } [(4096, { win := some 0, k := 0, round := 0, step := 0, atBar := true })]
theorem test_barrier_hypotheses : (∀ i, i < 64 → 64 * 64 + i ≠ 4096 → (getEng atBarrier (4096 + i)).win = none ∧ roundWin { steps := [0x7C000000, 0], wins := [win0 true] } (4096 + i) 0 = none)
    ∧ roundWin { steps := [0x7C000000, 0], wins := [win0 true] } 4096 0 = some (win0 true) := by decide +kernel
theorem test_barrier : ((getEng (after (.barrierRelease 64) atBarrier) 4096).step, (getEng (after (.barrierRelease 64) atBarrier) 4096).atBar) = (1, false) := by decide +kernel
/-- At the last step of the recipe the window ends with the release. -/
def lastBarrier : State := churning [0x7C000000] true true { run := some 0 } [(4096, { win := some 0, k := 0, round := 0, step := 0, atBar := true })]
theorem test_barrier_last : ((getEng (after (.barrierRelease 64) lastBarrier) 4096).step, (getEng (after (.barrierRelease 64) lastBarrier) 4096).win) = (1, none)
    ∧ (getCmd (after (.barrierRelease 64) lastBarrier) 0).map (fun c => (c.status, c.done)) = some (0, 1) := by decide +kernel
/-- The engine fails in its window: the command ends POISONED at the window, its cluster quarantined. -/
theorem test_fault_in_window : (getEng (after (.engineFault 4096) atBarrier) 4096).win = none ∧ (getCluster (after (.engineFault 4096) atBarrier) 64).quar = [0]
    ∧ (getCmd (after (.engineFault 4096) atBarrier) 0).map (fun c => (c.status, c.fault)) = some (stPoisoned, 0x40000000) := by decide +kernel
theorem test_engine_fault : (getCluster (after (.engineFault 32767) up) 511).quar = [63] ∧ getReg (after (.engineFault 32767) up) (.chCluster 511) 0 0x064 = 1 := by decide
def hurt (n : Nat) (resetting : Bool) : State := { up with ch := { up.ch with clusters := [(2, { quar := [5], spares := n, resetting := resetting })] } }
theorem test_reset : (getCluster (after (.clusterReset 2) (hurt 2 false)) 2).resetting = true ∧ (getCluster (after (.clusterRemap 2) (hurt 2 true)) 2).map = [(5, 64)]
    ∧ (getCluster (after (.clusterRemap 2) (hurt 0 true)) 2).retired = [5] := by decide
theorem test_reset_running : after (.clusterReset 64) (churning [0] true false { run := some 0 } []) = churning [0] true false { run := some 0 } [] := by decide
theorem test_reset_request : canWrite (rom up) keeper (.chCluster 2) 0x044 := by unfold canWrite; decide
theorem test_reset_asked : (getCluster (after (.clusterResetRequest keeper 2 1) (rom up)) 2).asked = true := by decide

/-- A step word, and engine 4096 at it with a NOP behind. -/
def stepW (op d a b f x : Nat) : Word := BitVec.ofNat 32 (op * 2 ^ 26 + d * 2 ^ 21 + a * 2 ^ 16 + b * 2 ^ 11 + f * 2 ^ 8 + x)
def vec1 (v : Nat) : Vec := ofLanes fun _ => BitVec.ofNat 32 v
def engine0 : Eng := { win := some 0, k := 0, v := [(1, vec1 0x3F800000), (2, vec1 0x40000000), (3, vec1 0x40400000)] }
def atW (w : Word) (x : Eng) : State := churning [w, 0] true true { run := some 0 } [(4096, x)]
def eng (i : Instr) (w : Word) (x : Eng) : Eng := getEng (after i (atW w x)) 4096
theorem test_steps_stand : ((List.range 32).all fun op => decide (((atStep op 4096 (atW (stepW op 3 1 2 0 0) engine0)).map fun q => (q.e, q.x.step, q.r.steps.length, q.r.bcast)) = some (4096, 0, 2, []))) = true := by decide +kernel
/-- 1 · 2 + 3 = 5, and in INT32. -/
theorem test_fma : lane ((eng (.fma 4096) (stepW 0x08 3 1 2 0 0) engine0).reg 3) 15 = 0x40A00000 ∧ (eng (.fma 4096) (stepW 0x08 3 1 2 0 0) engine0).step = 1
    ∧ lane ((eng (.fma 4096) (stepW 0x08 3 1 2 7 0) { engine0 with v := [(1, vec1 5), (2, vec1 7), (3, vec1 1)] }).reg 3) 0 = 36 := by decide +kernel
/-- Behind the last step the window ends, and with it the command. -/
theorem test_fma_last : ((getEng (after (.fma 4096) (churning [stepW 0x08 3 1 2 0 0] true true { run := some 0 } [(4096, engine0)])) 4096).win,
    (getEng (after (.fma 4096) (churning [stepW 0x08 3 1 2 0 0] true true { run := some 0 } [(4096, engine0)])) 4096).step) = (none, 1)
    ∧ (getCmd (after (.fma 4096) (churning [stepW 0x08 3 1 2 0 0] true true { run := some 0 } [(4096, engine0)])) 0).map (·.status) = some 0 := by decide +kernel
theorem test_mul_add : lane ((eng (.mul 4096) (stepW 0x09 4 2 3 0 0) engine0).reg 4) 0 = 0x40C00000 ∧ lane ((eng (.add 4096) (stepW 0x0A 4 1 2 0 0) engine0).reg 4) 0 = 0x40400000 := by decide +kernel
theorem test_max_min : lane ((eng (.max 4096) (stepW 0x0B 4 1 2 7 0) { engine0 with v := [(1, vec1 0xFFFFFFFF), (2, vec1 1)] }).reg 4) 0 = 1
    ∧ lane ((eng (.min 4096) (stepW 0x0C 4 1 2 0 0) engine0).reg 4) 0 = 0x3F800000 := by decide +kernel
theorem test_rcp : lane ((eng (.rcp 4096) (stepW 0x11 4 2 0 0 0) engine0).reg 4) 0 = 0x3F000000 := by decide +kernel
theorem test_poisoned_step : (eng (.rcp 4096) (stepW 0x11 4 2 0 0 0) { engine0 with vp := [2] }).bad 4 = true := by decide +kernel
/-- ITER is 2: the first pass goes back to the step behind LOOPB, the second goes on. -/
def looping (step iter : Nat) : State := churning [0x04000000, 0, 0x08000000, 0] true true { run := some 0 } [(4096, { engine0 with step := step, iter := iter, g := [(1, (63, 2))] })]
theorem test_loop : ((getEng (after (.loope 4096) (looping 2 0)) 4096).step, (getEng (after (.loope 4096) (looping 2 0)) 4096).iter, (getEng (after (.loope 4096) (looping 2 0)) 4096).g) = (1, 1, [(1, (1, 2))])
    ∧ ((getEng (after (.loope 4096) (looping 2 1)) 4096).step, (getEng (after (.loope 4096) (looping 2 1)) 4096).iter) = (3, 0)
    ∧ (getEng (after (.loopb 4096) (looping 0 7)) 4096).iter = 0 := by decide +kernel
theorem test_loop_hypotheses : (atStep 0x02 4096 (looping 2 0)).isSome = true ∧ (atStep 0x01 4096 (looping 0 7)).isSome = true
    ∧ loopIdx { steps := [0x04000000, 0, 0x08000000, 0] } 0x01 + 1 = 1 ∧ chIter (chRaw 0x20) = 2 := by decide +kernel
theorem test_setg : (eng (.setg 4096) (stepW 0x03 2 0 0 0 9 + 0x4100) engine0).g = [(2, (1, 9))] := by decide +kernel
theorem test_nop_accclr : (eng (.recipeNop 4096) 0 engine0) = { engine0 with step := 1 } ∧ (eng (.accclr 4096) (stepW 0x18 7 0 0 0 0) engine0).acc = [(7, {})] := by decide +kernel
theorem test_ldb : (eng (.ldb 4096) (stepW 0x06 5 0 0 0 40) engine0).v = [(1, vec1 0x3F800000), (2, vec1 0x40000000), (3, vec1 0x40400000), (5, 0)] := by decide +kernel
theorem test_dotb : lane ((eng (.dotb 4096) (stepW 0x07 3 1 0x12 0 0) engine0).reg 3) 2 = 0 ∧ lane ((eng (.dotb 4096) (stepW 0x07 3 1 0x02 0 0) engine0).reg 3) 2 = 0x40400000 := by decide +kernel
theorem test_scale : lane ((eng (.scale 4096) (stepW 0x0D 8 1 3 0 0x10) engine0).reg 9) 4 = 0x40C00000 := by decide +kernel
theorem test_wfma : lane ((eng (.wfma 4096) (stepW 0x0E 3 1 2 0 0) engine0).reg 3) 4 = 0x40A00000 := by decide +kernel
theorem test_smax_hypotheses : ((List.range 2).map (lane (engine0.reg 1))).any isNan32 = false ∧ ((List.range 2).map (lane (engine0.reg 1))).foldl fmax32 0xFF800000 = 0x3F800000 := by decide +kernel
theorem test_poly : lane ((eng (.poly 4096) (stepW 0x12 3 1 0 0 0) engine0).reg 3) 0 = 0 := by decide +kernel
/-- 1.0 to FP16, 32 bits to 16; 32 of them leave the upper half zero. -/
theorem test_cvt : ((eng (.cvt 4096) (stepW 0x13 3 1 0 0 2) engine0).elem 3 16 15, (eng (.cvt 4096) (stepW 0x13 3 1 0 0 2) engine0).elem 3 16 16) = (0x3C00, 0) ∧ stepElems 0 * fmtWidth 2 = 256 := by decide +kernel
theorem test_sumx : ((eng (.sumx 4096) (stepW 0x14 3 2 0 0 0) engine0).accu 3).count = 16 ∧ lane ((eng (.accrnd 4096) (stepW 0x15 4 0 0 0 15) engine0).reg 4) 15 = 0 := by decide +kernel
theorem test_accadd : (eng (.accadd 4096) (stepW 0x17 3 9 0 0 0) engine0).acc = [(3, {})] := by decide +kernel
/-- The greatest of sixteen equal lanes is the first. -/
theorem test_topk : lane ((eng (.topk 4096) (stepW 0x19 8 1 0x11 7 1) engine0).reg 9) 0 = 16 ∧ lane ((eng (.topk 4096) (stepW 0x19 8 1 0x11 7 1) engine0).reg 8) 1 = 0x80000000 := by decide +kernel

/-! The window's first line, which nothing holds. -/
theorem test_quiet_line : quietLine (atW 0 engine0) 0x40000000 0 := by unfold quietLine; decide +kernel
theorem test_reach : ((atStep 0x04 4096 (atW (stepW 0x04 5 0 0 0 0) engine0)).map fun q => winReach q q.win (q.counter 0 * 64) (atW (stepW 0x04 5 0 0 0 0) engine0)) = some .ok
    ∧ ((atW 0 engine0).mem.queue.any fun o => o.line = 0x40000000) = false ∧ (atW 0 engine0).mem.journal = [] := by decide +kernel
theorem test_ld_st : (eng (.ld 4096) (stepW 0x04 5 0 0 0 0) engine0).g = [(0, (1, 0))] ∧ (after (.st 4096) (atW (stepW 0x05 0 1 0 0 0) engine0)).mem.bytes.length = 32
    ∧ (after (.accst 4096) (atW (stepW 0x16 0 1 0 0 0) engine0)).mem.bytes = [] := by decide +kernel
/-- Two lines from counter 0 on. -/
theorem test_ld_group : (eng (.ld 4096) (stepW 0x04 5 0 0 1 0) engine0).g = [(0, (2, 0))] ∧ (after (.st 4096) (atW (stepW 0x05 0 1 0 1 0) engine0)).mem.bytes.length = 48
    ∧ (atStep 0x05 4096 (atW (stepW 0x05 0 1 0 1 0) engine0)).map (fun q => (stF q.w, q.lines)) = some (1, 64) := by decide +kernel
def nulls : Eng := { engine0 with v := [(1, vec1 0xFFFFFFFF), (2, vec1 0x40000000), (4, 0)] }
theorem test_region_index : ((atStep 0x1A 4096 (atW (stepW 0x1A 5 4 0 0 0) nulls)).map fun q => (regionAt q 64 0, regionAt q 64 0xFFFFFFFF, regionAt q 64 64)) = some (some (win0 true, 0), none, none) := by decide +kernel
theorem test_gath_scat : getReg (after (.gath 4096) (atW (stepW 0x1A 5 1 0 0 0) nulls)) (.chCluster 64) 0 0x060 = 1 ∧ (eng (.gath 4096) (stepW 0x1A 2 4 0 0 0) nulls).reg 2 = 0
    ∧ (after (.scat 4096) (atW (stepW 0x1B 0 1 2 0 0) nulls)).mem.bytes = [] ∧ (after (.scat 4096) (atW (stepW 0x1B 0 4 2 0 0) nulls)).mem.bytes.length = 16 := by decide +kernel
theorem test_fadd : (after (.fadd 4096) (atW (stepW 0x1C 5 4 2 0 1) nulls)).mem.bytes = [(0x40000003, 0x40)] ∧ (eng (.fadd 4096) (stepW 0x1C 5 4 2 0 1) nulls).step = 1 := by decide +kernel
/-- Lane 1 is null: it adds nothing and reads all ones. -/
def twoLanes : Eng := { engine0 with v := [(2, vec1 0x40000000), (4, ofLanes fun i => if i = 0 then 0 else 0xFFFFFFFF)] }
theorem test_fadd_null : lane ((eng (.fadd 4096) (stepW 0x1C 5 4 2 0 2) twoLanes).reg 5) 1 = 0xFFFFFFFF ∧ (after (.fadd 4096) (atW (stepW 0x1C 5 4 2 0 2) twoLanes)).mem.bytes = [(0x40000003, 0x40)] := by decide +kernel
/-- The partner, engine 4097, has shown, or runs no window. -/
def shown1 (s : State) : State := { s with ch := { s.ch with shown := [⟨0, 0, 4097, 0, 0, vec1 6, false, { count := 2 }⟩] } }
theorem test_xch : (getEng (after (.xch 4096) (shown1 (atW (stepW 0x1D 5 1 0 0 1) engine0))) 4096).reg 5 = vec1 6 ∧ (eng (.xch 4096) (stepW 0x1D 5 1 0 0 1) engine0).reg 5 = 0
    ∧ (getEng (after (.accx 4096) (shown1 (atW (stepW 0x1E 5 1 0 0 1) engine0))) 4096).acc = [(5, { count := 2 })] ∧ (eng (.accx 4096) (stepW 0x1E 5 1 0 0 1) engine0).step = 1 := by decide +kernel
/-- The partner runs a window and has not shown. -/
def partnerRuns : State :=
  let s := atW (stepW 0x1D 5 1 0 0 1) engine0
  { s with ch := { s.ch with runs := mupd s.ch.runs 0 fun r => { r with wins := [win0 true, { win0 true with w := 1, dpa := 0x40040000 }] } } }
theorem test_xch_waits : (after (.xch 4096) partnerRuns).ch.shown.length = 1 ∧ (getEng (after (.xch 4096) partnerRuns) 4096).step = 0 := by decide +kernel
/-- The partner's window is lost. -/
def partnerLost : State := { partnerRuns with ch := { partnerRuns.ch with runs := mupd partnerRuns.ch.runs 0 fun r => { r with wins := r.wins.map fun w => if w.w = 1 then { w with ended := true } else w } } }
theorem test_xch_lost : (getEng (after (.xch 4096) partnerLost) 4096).bad 5 = true ∧ (roundWin ((getRun partnerLost 0).getD { steps := [] }) 4097 0).map (fun w => (w.started, w.ended)) = some (true, true) := by decide +kernel
theorem test_bar : (eng (.bar 4096) (stepW 0x1F 0 0 0 0 0) engine0).atBar = true := by decide +kernel

/-! ### The Gangway -/

/-- The booted hub with links 0 and 1 up, link 1 with CXL. -/
def host2 : State := { up with gw := { up.gw with links := [(0, { up := true, width := 5, rate := 5 }), (1, { up := true, cxl := true, width := 4, rate := 5 })] } }
def acc (link addr : Nat) (d : Option (List Byte)) (len : Nat) (poison : Bool) : HostAcc := { link := link, addr := addr, data := d, len := len, poison := poison }
theorem test_host_hypotheses : linkUp host2 0 = true ∧ hostReaches host2 0 = true ∧ wakeUp host2 = host2 ∧ bit (getReg host2 .tu 0 0x048) 31 = false ∧ linkCxl host2 1 = true
    ∧ hostReaches { host2 with gw := { host2.gw with d3 := [0] } } 0 = false := by decide
theorem test_host_line : quietLine host2 0x1000 0 := by unfold quietLine; decide +kernel
theorem test_bar2_write : (after (.bar2Access (acc 0 0x103E (some [7, 8]) 0 false)) host2).mem.bytes = [(0x103E, 7), (0x103F, 8)]
    ∧ (after (.bar2Access (acc 0 0x103E (some [7, 8]) 0 true)) host2).mem.poison = [(0x1000, 0)] := by decide +kernel
theorem test_bar2_read : (after (.bar2Access (acc 0 0x103E none 2 false)) (after (.bar2Access (acc 0 0x103E (some [7, 8]) 0 false)) host2)).out = [.hostData 0 0 [7, 8] false]
    ∧ (after (.bar2Access (acc 0 0x1FFFFFFFE none 2 false)) host2).out = [.hostData 0 0 [0, 0] false] := by decide +kernel
theorem test_bar2_unsupported : (after (.bar2Access (acc 0 0 none 2 false)) { host2 with gw := { host2.gw with d3 := [0] } }).out = [.unsupported 0] := by decide
/-- Decoder 0 maps host addresses from 0x100000000 to HBM under tenant 3, whose key is key 9. -/
def hdm0 : Hdm := { base := 0x100000000, size := 0x10000000, dpa := 0x4000000000, tenant := 3 }
def decoded : State := { host2 with gw := { host2.gw with hdm := [(0, hdm0)] }, sp := { host2.sp with slots := [(3, { st := 1, bounce := false, f := 3, ctx := 0, key := 9 })] } }
theorem test_cxl_hypotheses : tenantKey decoded 3 = some 9 ∧ sfEntry decoded 0x4000000000 = none ∧ snoopOpen decoded 0x4000000000 = false ∧ nextFor decoded 0x4000000000 = none
    ∧ replicaAt decoded 0x4000000000 = none ∧ groupBusy decoded 0x4000000000 = false ∧ wakeUp decoded = decoded
    ∧ (decoded.gw.hdm.find? fun d => d.2.base ≤ 0x100000000 && 0x100000000 + 64 ≤ d.2.base + d.2.size) = some (0, hdm0) := by decide +kernel
theorem test_cxl_limits : ∀ i, 0 < limitOf decoded i := fun _ => by simp [limitOf, decoded, host2, up, State.reset, mgetD, mget]
theorem test_cxl_reachable : reachable decoded 0x4000000000 = true ∧ postedOpen decoded = false := by decide +kernel
theorem test_cxl_write : (after (.cxlMemAccess (acc 1 0x100000000 (some (List.replicate 64 5)) 0 false)) decoded).mem.bytes.length = 64
    ∧ (after (.cxlMemAccess (acc 1 0x100000000 (some (List.replicate 64 5)) 0 false)) decoded).mem.hostCopies = [0x4000000000] := by decide +kernel
theorem test_cxl_unsupported : (after (.cxlMemAccess (acc 1 0x110000000 none 64 false)) decoded).out = [.unsupported 1] := by decide
theorem test_hdm_commit : (after (.hdmCommit 7 0 (2 ^ 28) (248 * 2 ^ 30 - 2 ^ 28) 1) host2).gw.hdm = [(7, { base := 0, size := 2 ^ 28, dpa := 0x7DF0000000, tenant := 0 })]
    ∧ (after (.hdmCommit 7 0 (2 ^ 29) (248 * 2 ^ 30 - 2 ^ 28) 1) host2).gw.hdmErr = [7] ∧ (after (.hdmCommit 0 0 0 0 0) decoded).gw = decoded.gw
    ∧ (after (.hdmCommit 0 0 0 0 0) decoded).lb.seq = 1 ∧ (after (.hdmCommit 0 0 0 0 0) fullLog).lb = fullLog.lb := by decide
/-- An owner register that admits no class, and a posted write that still waits. -/
def hdmShut : State := setReg .gwCxl 0 0x008 0 host2
def hdmLate : State := { host2 with gw := { host2.gw with later := [(0, .commit 1 ⟨0, 0, 0, 1⟩)] } }
theorem test_hdm_dropped : admitted hdmShut hostOrigin .gwCxl (hdmCtlOff 7) = false ∧ admitted host2 hostOrigin .gwCxl (hdmCtlOff 7) = true ∧ logFull hdmShut = false
    ∧ originUp hdmShut hostOrigin = true ∧ hostLate hdmShut = false ∧ (after (.hdmCommit 7 0 (2 ^ 28) 0 1) hdmShut).gw.hdm = [] ∧ (after (.hdmCommit 7 0 (2 ^ 28) 0 1) hdmShut).lb.seq = 1 := by decide
theorem test_hdm_late : hostLate hdmLate = true ∧ logHolds fullLog = true ∧ logFull fullLog = true ∧ hostLate fullLog = false := by decide
def observing : State := { host2 with gw := { host2.gw with observes := [⟨4, 1, some 0, 0x1020, 8⟩] } }
theorem test_host_snoop : anyCxl observing = true ∧ (after (.hostSnoop 0x103F) observing).out = [] ∧ (after (.hostSnoop 0x1040) observing).out = [.snoopMiss 0x1040] := by decide
theorem test_observed : (after (.globalObservationResponse 4) observing).gw.observes = [] := by decide
def recalled : State := { decoded with mem := { decoded.mem with biOpen := [0x4000000000], hostCopies := [0x4000000000] } }
theorem test_back_invalidate : (after (.backInvalidateResponse 0x4000000000 none) recalled).mem.hostCopies = [] ∧ (hdmOf recalled 0x4000000000).isSome = true
    ∧ (after (.backInvalidateResponse 0x4000000000 (some (List.replicate 64 5))) recalled).mem.bytes.length = 64 := by decide +kernel

/-- Mover 3 reads 4 bytes of host memory over link 1 for a running COPY. -/
def hostReading (j : Job) : State :=
  { withCmd (moveCmd 0x10 .running) host2 with gm := { up.gm with movers := [(3, j)] }, gw := { host2.gw with reads := [⟨5, 1, .mover 3, 0x100, 0x2000, 4, 0⟩], nextId := 6 } }
theorem test_read_completion : (after (.hostReadCompletion 5 [1, 2, 3, 4, 9] false) (hostReading (srcJob .reading))).gm.movers.map (fun p => p.2.buf.head?) = [some { at_ := 0x100, val := 1 }]
    ∧ (getCmd (after (.hostReadCompletion 5 [1, 2] false) (hostReading (srcJob .reading))) 0).map (fun c => (c.stop, c.fault)) = some (some (stFault, 0), 0x100)
    ∧ (after (.hostReadTimeout 5) { hostReading (srcJob .reading) with tclk := 5000 }).gm.movers.map (fun p => p.2.buf.head?.map (·.poison)) = [some (some 0)] := by decide
theorem test_host_link_up : linkExists host2 2 = true ∧ linkWidest host2 2 = 5 ∧ linkUp (after (.hostLinkUp 2 true 5 7) host2) 2 = true ∧ linkUp (after (.hostLinkUp 2 true 5 8) host2) 2 = false := by decide
def away : State := after (.detach 1) (hostReading (srcJob .reading))
theorem test_detach : away.gw.detached = true ∧ away.gw.reads = [] ∧ getReg away .gw 0 0x050 = 1 ∧ getReg away .gw 0 0x054 = 1 := by decide
theorem test_detach_again : getReg (after (.detach 1) away) .gw 0 0x050 = 1 ∧ getReg (after (.detach 2) away) .gw 0 0x050 = 2 := by decide
/-- Command 0 waits for the host. -/
def held (drop : Bool) : State := setReg .gw 0 0x068 1 { away with qe := { away.qe with cmds := [(0, { moveCmd 0x10 .running with waitsHost := true, drop := drop, done := 4, atDetach := some 2 })] } }
theorem test_hold_expiry : (getCmd (after .detachHoldExpiry (held true)) 0).map (fun c => (c.status, c.done)) = some (stDetached, 2)
    ∧ (getCmd (after .detachHoldExpiry (held false)) 0).map (fun c => (c.status, c.done)) = some (stDetached, 4) := by decide
/-- The host is back on link 0. -/
def back : State := { held false with gw := { (held false).gw with links := [(0, { up := true, width := 5, rate := 5 })] } }
theorem test_reattach_hypotheses : bits 0x40000001 31 30 = 1 ∧ bits 0x80000001 31 30 = 2 ∧ bits 0x40000001 29 0 = getReg back .gw 0 0x050 % 2 ^ 30 ∧ linkUp back 0 = true := by decide
theorem test_reattach_write : canWrite back pf .gw 0x06C := by unfold canWrite; decide
theorem test_reattach : (getCmd (after (.reattachResume pf 0x40000001) back) 0).map (fun c => (c.waitsHost, c.atDetach)) = some (false, none)
    ∧ (after (.reattachResume pf 0x40000001) back).gw.detached = false ∧ (after (.reattachResume pf 0x40000002) back).gw.detached = true
    ∧ getReg (after (.reattachResume pf 0x40000002) back) .gw 0 0x024 = 0x80040000 := by decide +kernel
theorem test_reattach_reset : (after (.reattachReset pf 0x80000001) back).gw.detached = false ∧ (after (.reattachReset pf 0x80000001) back).qe.cmds.length = 0 := by decide +kernel
theorem test_link_lost : (getCmd (after (.linkLost 1) (hostReading (srcJob .reading))) 0).map (·.stop) = some (some (stDetached, 0)) ∧ linkUp (after (.linkLost 1) host2) 1 = false
    ∧ atomicsOver (hostReading (srcJob .reading)) 1 = [] ∧ after (.linkLost 3) host2 = host2 := by decide
def vfs : State := { queued { sq64 with f := 2 } { cq64 with f := 2 } with gw := { up.gw with vfEnable := true, numVfs := 2 } }
theorem test_flr : fnPresented vfs 2 = true ∧ fnPresented vfs 3 = false ∧ (after (.flr 2) vfs).qe.sqs = [] ∧ (after (.flr 2) vfs).sp.teardowns.map (·.f) = [2] ∧ after (.flr 3) vfs = vfs := by decide +kernel
theorem test_flr_pf : (after (.flr 0) vfs).gw.vfEnable = false ∧ (after (.flr 0) vfs).qe.cqs = [] := by decide +kernel

/-! Power by idleness and D-states. -/
def idle (tol : Nat) : State := setReg .gw 0 0x048 tol up
theorem test_idle_hypotheses : mayLower (idle 2) = true ∧ hubIdle (idle 2) = true ∧ portsQuiet (idle 2) = true ∧ 3 ≤ getReg (idle 2) .sl 0 0x040 % 8 ∧ requestsOut up = false := by decide
theorem test_idle : (after .idleEntry (idle 2)).sl.h = 1 ∧ (after .idleEntry (idle 74)).sl.h = 1 ∧ (after .idleEntry (idle 75)).sl.ramp = some 2 ∧ (after .idleEntry (idle 3125)).sl.ramp = some 3
    ∧ after .idleEntry (idle 1) = idle 1 ∧ (after .idleEntry (withCmd (cmdOf (entry [])) (idle 99))).sl.h = 0 := by decide
theorem test_d3hot : (after .d3hotEntry up).gw.d3 = [0] ∧ (after .d3hotEntry up).sl.ramp = some 3 ∧ (after .d3hotEntry (setReg .gw 0 0x04C 1 up)).sl.ramp = some 4
    ∧ (after .d3hotEntry (withCmd (cmdOf (entry [])) up)).sl.ramp = none := by decide
def inH (h : Nat) : State := { up with sl := { up.sl with h := h }, gw := { up.gw with d3 := [0] }, mem := { up.mem with bytes := [(7, 1), (0x1FC000000, 2)] } }
theorem test_d0 : (after .d0Entry (inH 3)).sl.h = 0 ∧ (after .d0Entry (inH 3)).gw.d3 = [] := by decide
def inH4 : State := { inH 4 with sl := { up.sl with h := 4, power := 8, railEn := 9 } }
theorem test_d0_from_h4 : ckptTripped inH4 = false ∧ (after .d0Entry inH4).sl.railEn = 11 ∧ (after .d0Entry inH4).tg.cause = 9 := by decide +kernel
theorem test_wake : (after (.wake 1) (inH 3)).sl.h = 1 ∧ (after (.wake 1) (inH 3)).mem.bytes = [(0x1FC000000, 2)] ∧ (after (.wake 0) (inH 2)).mem.bytes.length = 2 ∧ after (.wake 2) (inH 2) = inH 2 := by decide
/-- Link 0 in D3cold with PME Enable set, in H4 with every rail off: WAKE drives WAKE# and starts the rails. -/
def coldH4 : State :=
  { inH4 with sl := { inH4.sl with railEn := 0 }, gw := { inH4.gw with perst := true, cold := true, fns := [(0, { fnCfg up 0 with pmeEn := true })] } }
theorem test_wake_cold : armedD3cold coldH4 = true ∧ ckptTripped coldH4 = false ∧ coldH4.gw.wakePin = false ∧ (after (.wake 0) coldH4).gw.wakePin = true
    ∧ (after (.wake 0) coldH4).sl.railEn = 1 ∧ armedD3cold (inH 3) = false := by decide +kernel
/-- In H4 retained configuration space takes a write. -/
theorem test_config_h4 : linkUp inH4 0 = true ∧ (after (.configSpaceWrite 0 (.sriov true 5)) inH4).gw.numVfs = 5
    ∧ ((after (.configSpaceWrite 0 (.fn 0 { fnCfg up 0 with pmeEn := true })) inH4).gw.fns.map fun p => (p.1, p.2.pmeEn)) = [(0, true)] := by decide
/-- A VF's BAR2 is not implemented; the PF's BAR0 keeps its bits from 28 on; before boot the write is retried. -/
theorem test_config_bar : barRead (after (.configSpaceWrite 0 (.bar .bar0 0x123456789)) up) 0 .bar0 = 0x120000004 ∧ after (.configSpaceWrite 0 (.bar .vfBar2 5)) up = up
    ∧ (after (.configSpaceWrite 0 (.bar .bar0 5)) { up with hm := { up.hm with stage := 0 } }).out = [.configRetry 0] := by decide
theorem test_config_ltr : (after (.configSpaceWrite 0 (.fn 0 { fnCfg up 0 with ltr := true })) (withCmd { cmdOf (entry []) with phase := .running, dispatched := true } up)).out = [.ltr (some 10)] := by decide
theorem test_config : (after (.configSpaceWrite 0 (.sriov true 63)) up).gw.numVfs = 63 ∧ (after (.configSpaceWrite 1 (.sriov true 63)) up) = up
    ∧ (after (.configSpaceWrite 0 (.dstate 2 true)) vfs).gw.d3 = [2] := by decide
def cfg0 : FnCfg := ⟨true, true, true, 4, true, false, true, false, false, 128, 512, 0⟩
def svaHeld : State := { up with tu := { up.tu with central := [{ f := 0, pasid := none, space := 0, base := 0, len := 4096, out := 0, kind := .host, rights := ⟨true, true, false⟩ }] },
                                 gw := { up.gw with fns := [(0, cfg0)] } }
theorem test_config_ats : (after (.configSpaceWrite 0 (.fn 0 { cfg0 with ats := false })) svaHeld).tu.central = [] ∧ (linkFnCfg svaHeld 0 0).ats = true := by decide

/-! ### The Quays -/

/-- Berth 2 in a state of its own. -/
def berthed (be : Berth) (s : State) : State := { s with qy := { s.qy with berths := [(2, be)] } }
/-- An active Bresa partner with every capability, holding context 1; and a message of it. -/
def active2 : Berth := { st := 3, caps := 0x3F, major := 2, minor := 2, grants := [1], txCredits := [10, 10, 10, 10, 10, 10, 10], rxCredits := rxFull, powered := true, resetPin := false }
def msg (cls typ len addr aux ctx : Nat) (payload : List Byte) : BresaMsg :=
  { cls := cls, typ := typ, len := len, flags := 0, tag := 9, ctx := ctx, label := 0, status := 0, rsv := 0, addr := addr, aux := aux, payload := payload }
def quay (s : State) : State := berthed active2 s
/-- Berth 2 in CARD_WAIT, and its mate with that card and PAIR. -/
def waits2 : Berth := { st := 2, modules := 1, half := 0, rxCredits := rxFull }
def cardOk : List Byte := (List.range 64).map fun i => if i = 5 then 2 else if i = 6 then 1 else if i = 8 then 0x1F else if i = 12 then 100 else 0
theorem test_link_up : (after (.berthLinkUp 2 false 3 0xF 5) (berthed { st := 1 } up)).qy.berths = [(2, { st := 2, modules := 3, half := 3, rate := 5, rxCredits := rxFull })]
    ∧ after (.berthLinkUp 2 false 3 0 5) (quay up) = quay up := by decide
theorem test_train_again : (after (.trainLimitExpiry 2) (berthed { st := 1, modules := 3 } up)).qy.berths = [(2, { st := 1 })] := by decide
theorem test_reset_release : ((getBerth (after (.partnerResetRelease 2) (berthed { powered := true } up)) 2).st, (after (.partnerResetRelease 2) (berthed { powered := true } up)).out) = (1, [.pin "BRST_N" 2 true, .annexChanged]) := by
  decide
theorem test_card_hypotheses : cardFault (fitBytes 64 cardOk) false = none ∧ cardFault (fitBytes 64 (cardOk.set 5 1)) false = some 3 ∧ bresaBad waits2 (msg 5 1 1 0 0 0 cardOk) = false
    ∧ bit (fld (fitBytes 64 cardOk) 7 1) 0 = false := by decide
theorem test_card : ((getBerth (after (.card 2 (msg 5 1 1 0 0 0 cardOk)) (berthed waits2 up)) 2).st, (getBerth (after (.card 2 (msg 5 1 1 0 0 0 cardOk)) (berthed waits2 up)) 2).caps) = (3, 0x1F)
    ∧ (getBerth (after (.card 2 (msg 5 1 1 0 0 0 (cardOk.set 5 1))) (berthed waits2 up)) 2).st = 5 := by decide
/-- A card with PAIR, and berth 2 with berth 3 holding a card already. -/
def cardPair : List Byte := cardOk.set 7 1
def pairing (mate : Berth) : State := { setReg (.qyBerth 2) 0 0x044 9 up with qy := { up.qy with berths := [(2, waits2), (3, mate)] } }
theorem test_pair_cards : (let t := after (.card 2 (msg 5 1 1 0 0 0 cardPair)) (pairing { waits2 with card := fitBytes 64 cardPair, carded := true })
      ((getBerth t 2).st, (getBerth t 2).paired, (getBerth t 3).st)) = (3, true, 6)
    ∧ (let t := after (.card 2 (msg 5 1 1 0 0 0 cardPair)) (pairing { waits2 with card := fitBytes 64 cardOk, carded := true }); ((getBerth t 2).st, (getBerth t 3).st)) = (5, 5)
    ∧ (getBerth (after (.card 2 (msg 5 1 1 0 0 0 cardPair)) (pairing waits2)) 2).carded = true ∧ cardFault (fitBytes 64 cardPair) true = none := by decide +kernel
/-- On the odd berth PAIR stands in the second card alone; and a card with PAIR beside a mate that is ACTIVE already. -/
def pairing3 (even : Berth) : State := { setReg (.qyBerth 2) 0 0x044 9 up with qy := { up.qy with berths := [(2, even), (3, waits2)] } }
theorem test_pair_odd : (let t := after (.card 3 (msg 5 1 1 0 0 0 cardPair)) (pairing3 { waits2 with card := fitBytes 64 cardPair, carded := true })
      ((getBerth t 2).st, (getBerth t 3).st)) = (3, 6)
    ∧ (getBerth (after (.card 3 (msg 5 1 1 0 0 0 cardPair)) (pairing3 waits2)) 3).st = 5 ∧ cardFault (fitBytes 64 cardPair) false ≠ none
    ∧ (getBerth (after (.card 2 (msg 5 1 1 0 0 0 cardPair)) (pairing active2)) 2).st = 5 := by decide +kernel
theorem test_cxl_card : (let t := after (.card 2 (msg 5 1 1 0 0 0 [0x98, 0x1E, 1, 0, 0, 0, 0, 0, 7])) (berthed { waits2 with cxl := true } up)
    ((getBerth t 2).st, (getBerth t 2).caps, (getBerth t 2).card.take 5)) = (3, 1, [0x98, 0x1E, 1, 0, 7]) := by decide +kernel
theorem test_bad_card : (getBerth (after (.card 2 (msg 5 1 0 0 0 0 [])) (berthed waits2 up)) 2).depart = 5 := by decide
/-- A message of another kind before the card, a second card, and a CREDIT, which R361 admits. -/
theorem test_card_early : (getBerth (after (.card 2 (msg 0 1 0 0 0 0 [])) (berthed waits2 up)) 2).depart = 5
    ∧ (getBerth (after (.card 2 (msg 5 1 1 0 0 0 cardOk)) (berthed { waits2 with carded := true } up)) 2).depart = 5
    ∧ bresaBad waits2 (msg 0 0 0 0 1 0 []) = false ∧ after (.card 2 (msg 0 0 0 0 1 0 [])) (berthed waits2 up) = berthed waits2 up := by decide
theorem test_link_down_again : (getBerth (after (.berthLinkDown 2) (berthed { waits2 with st := 4, half := 1 } up)) 2).half = 0 ∧ after (.berthLinkDown 2) (berthed { waits2 with st := 5 } up) = berthed { waits2 with st := 5 } up := by
  decide
theorem test_departs : ([Instr.cardTimeout 2, .berthLinkDown 2].map fun i => (getBerth (after i (berthed waits2 up)) 2).depart) = [5, 2]
    ∧ ([Instr.snoopLimit 2, .invLimit 2, .leave 2 (msg 5 2 0 0 0 0 [])].map fun i => (getBerth (after i (berthed { active2 with snoops := [(1, 64)], invs := [(2, 3)] } up)) 2).depart) = [3, 4, 1] := by
  decide
theorem test_departs_sqs : (after (.berthLinkDown 2) (quay (queued { sq64 with berth := some 2 } cq64))).qe.sqs.map (fun p => p.2.en) = [false] := by decide
theorem test_leave_heard : berthHears (quay up) 2 (msg 5 2 0 0 0 0 []) 5 2 := by unfold berthHears; decide
theorem test_b_ctl_write : canWrite (quay (rom up)) keeper (.qyBerth 2) 0x044 := by unfold canWrite; decide
def enabled2 (be : Berth) : State := setReg (.qyBerth 2) 0 0x044 1 (berthed be (rom up))
theorem test_b_ctl_hypotheses : berthEn (enabled2 active2) 2 = true ∧ bit (getReg (enabled2 active2) (.qyBerth 2) 0 0x044) 1 = false ∧ bit (getReg (enabled2 active2) (.qyBerth 2) 0 0x044) 2 = false := by decide
theorem test_berth_enable : (getBerth (after (.berthEnable keeper 2 1) (berthed { st := 5 } (rom up))) 2).st = 1 ∧ berthEn (after (.berthEnable keeper 2 1) (berthed { st := 5 } (rom up))) 2 = true := by decide
theorem test_berth_disable : (getBerth (after (.berthDisable keeper 2 0) (enabled2 active2)) 2).depart = 6 ∧ (getBerth (after (.berthDisable keeper 2 0) (enabled2 { powered := true })) 2).powered = false := by decide
theorem test_evict : (getBerth (after (.berthEvict keeper 2 3) (enabled2 active2)) 2).depart = 6 ∧ getReg (after (.berthEvict keeper 2 3) (enabled2 { st := 1 })) (.qyBerth 2) 0 0x044 = 1 := by decide
theorem test_partner_reset : ((getBerth (after (.partnerReset keeper 2 5) (enabled2 active2)) 2).depart, (getBerth (after (.partnerReset keeper 2 5) (enabled2 active2)) 2).resetPin) = (7, true) := by decide
/-- Berth 2 departs while it holds line 64 Modified. -/
def holding (e : SfEntry) (s : State) : State := { s with qy := { s.qy with filter := [e] } }
def leaving : State := holding ⟨64, [2], true, 0⟩ (enabled2 { active2 with st := 4 })
theorem test_departure_end : (after (.berthDepartureEnd 2) leaving).mem.poison = [(64, 3)] ∧ (after (.berthDepartureEnd 2) leaving).qy.filter = [] ∧ (getBerth (after (.berthDepartureEnd 2) leaving) 2).st = 1
    ∧ (getBerth (after (.berthDepartureEnd 2) (berthed { active2 with st := 4 } up)) 2).st = 0 := by decide +kernel

/-! Requests in the DPA space, context 1, on line 0x1040. -/
def served : State := quay (queued sq64 cq64)
def dpa (cls typ len aux : Nat) (payload : List Byte) : BresaMsg := msg cls typ len 0x1040 aux 0x2001 payload
theorem test_request_hypotheses : bits (0x2001 : Nat) 13 12 = 2 ∧ (mget served.qe.ctxs (0x2001 % 4096)).map (·.f) = some 0 ∧ bresaOdd (dpa 0 1 0 1 []) = false ∧ bresaOdd (dpa 0 2 1 0 []) = false
    ∧ bresaOdd (dpa 0 3 1 0x140 []) = false ∧ bresaOdd (dpa 0 4 1 0 []) = false ∧ bit (getReg served .tu 0 0x048) 31 = false ∧ aopOf (bits 0x140 7 0) = some .add ∧ sfSetFull served 0x1040 = false := by
  decide +kernel
theorem test_request_line : quietLine served 0x1040 0 := by unfold quietLine; decide +kernel
theorem test_request_heard : berthHears served 2 (dpa 0 1 0 1 []) 0 1 ∧ berthHears served 2 (dpa 0 2 1 3 [5, 6]) 0 2 ∧ berthHears served 2 (dpa 0 3 1 0x140 [1]) 0 3 ∧ berthHears served 2 (dpa 0 4 1 0 []) 0 4
    ∧ berthHears served 2 (dpa 1 1 0 0 []) 1 1 ∧ berthHears served 2 (dpa 1 2 0 0 []) 1 2 := by
  unfold berthHears; decide
theorem test_rd : (after (.rd 2 (dpa 0 1 0 1 [])) served).out.length = 2 ∧ (after (.rd 2 (dpa 0 1 0 1 [])) served).out.head? = some (.bresa 2 (bmsg 0 0x10 9 0 0 0 0 0 (List.replicate 64 0) false)) := by decide +kernel
theorem test_wr : (after (.wr 2 (dpa 0 2 1 5 [5, 6, 7])) served).mem.bytes = [(0x1040, 5), (0x1042, 7)] := by decide +kernel
theorem test_partner_atomic : (after (.bresaAtomic 2 (dpa 0 3 1 0x140 [1])) served).mem.bytes = [(0x1040, 1)]
    ∧ (after (.bresaAtomic 2 (dpa 0 3 1 0x140 [1])) served).out.head? = some (.bresa 2 (bmsg 0 0x10 9 0 0 0 0 0 (List.replicate 8 0) false)) := by decide +kernel
/-- A packet of 3, one addition, to be added to a line of zeros. -/
def pkt3 : List Byte := vecBytes (packetOf { value := 3 * 2 ^ 149, count := 1 })
theorem test_pkt_add : Memory.readN (after (.pktAdd 2 (dpa 0 4 1 0 pkt3)) served).mem.bytes 0x1040 64 = pkt3
    ∧ (after (.pktAdd 2 (dpa 0 4 1 0 pkt3)) served).out.head? = some (.bresa 2 (bmsg 0 0x11 9 0 0 0 0 0 [] false)) := by decide +kernel
theorem test_grant : (after (.rdOwn 2 (dpa 1 2 0 0 [])) served).qy.filter = [⟨0x1040, [2], true, 0⟩] ∧ (after (.rdShared 2 (dpa 1 1 0 0 [])) served).qy.filter = [⟨0x1040, [2], false, 0⟩] := by decide +kernel
theorem test_refused_requests : (after (.rd 2 (msg 0 1 0 0x1040 1 0x2002 [])) served).out.head? = some (.bresa 2 (bmsg 0 0x10 9 0 0 5 0 0 [] false))
    ∧ (after (.rdOwn 2 (msg 1 2 0 0x1040 1 0x3001 [])) served).out.head? = some (.bresa 2 (bmsg 1 0x10 9 0 0 6 0 1 [] false)) := by decide +kernel
def owner2 (modified : Bool) : State := holding ⟨0x1040, [2], modified, 0⟩ (berthed { active2 with snoops := [(9, 0x1040)] } up)
theorem test_evictions : (after (.evictClean 2 (dpa 1 3 0 0 [])) (owner2 false)).qy.filter = [] ∧ (after (.evictDirty 2 (dpa 1 4 1 0 [3])) (owner2 true)).mem.bytes = [(0x1040, 3)]
    ∧ (after (.snpRsp 2 { dpa 1 5 1 0 [3] with status := 2 }) (owner2 true)).mem.bytes = [(0x1040, 3)] ∧ (getBerth (after (.snpRsp 2 (dpa 1 5 0 0 [])) (owner2 false)) 2).snoops = [] := by decide +kernel
theorem test_eviction_heard : berthHears (owner2 true) 2 (dpa 1 3 0 0 []) 1 3 ∧ berthHears (owner2 true) 2 (dpa 1 4 1 0 [3]) 1 4 ∧ berthHears (owner2 true) 2 { dpa 1 5 1 0 [3] with status := 2 } 1 5
    ∧ berthHears (owner2 true) 2 (dpa 1 5 0 0 []) 1 5 ∧ berthHears (owner2 true) 2 (dpa 1 6 0 0 []) 1 6 ∧ replicaAt (owner2 true) 0x1040 = none ∧ berthHears (owner2 true) 2 (dpa 2 0 0 7 []) 2 0 := by
  unfold berthHears; decide
theorem test_cxl_snoop_answer : (after (.snpRsp 2 (dpa 1 5 0 0 [])) (holding ⟨0x1040, [2], false, 0⟩ (berthed { st := 3, cxl := true, snoops := [(9, 0x1040)] } up))).qy.filter = [] := by decide +kernel
theorem test_inv_ack_credit : (getBerth (after (.invAck 2 (dpa 1 6 0 0 [])) (berthed { active2 with invs := [(9, 1), (8, 1)] } up)) 2).invs = [(8, 1)]
    ∧ (getBerth (after (.credit 2 (dpa 2 0 0 7 [])) (quay up)) 2).txCredits = [10, 10, 17, 10, 10, 10, 10] := by decide
def cxl2 (live : Bool) : State := setReg (.tuFn 0) 0 0x040 (b2n live) (berthed { st := 3, cxl := true } up)
theorem test_cxl_request : (after (.cxlPartnerRequest 2 0x1234 none false) (cxl2 false)).out.map (fun o => match o with | .cxlData b a bs p => (b, a, bs.length, p) | _ => (9, 0, 0, false)) = [(2, 0x1234, 64, true)] ∧ (after (.cxlPartnerRequest 2 0x1234 (some [1]) false) (cxl2 false)).out = []
    ∧ (after (.cxlPartnerRequest 2 0x1234 none true) (cxl2 true)).tu.walks.map (fun w => w.page) = [0x1000] ∧ mapLive (cxl2 true) 0 = true ∧ mapLive (cxl2 false) 0 = false := by decide +kernel

/-! Queues, fences, events, power and time of the partner. -/
def partnerQ : State := quay (queued { sq64 with berth := some 2 } { cq64 with berth := some 2, unread := 5 })
theorem test_partner_heard : berthHears partnerQ 2 (msg 2 1 0 64 0x50004 0 []) 2 1 ∧ berthHears partnerQ 2 (msg 2 2 0 64 3 0 []) 2 2 ∧ berthHears partnerQ 2 (msg 2 3 0 5 9 0 []) 2 3 ∧ berthHears partnerQ 2 (msg 2 4 0 0 0 7 []) 2 4
    ∧ berthHears partnerQ 2 (msg 3 1 0 0 5 0 []) 3 1 ∧ berthHears partnerQ 2 (msg 4 1 0 0 50 0 []) 4 1 ∧ berthHears partnerQ 2 (msg 4 2 0 0 20 0 []) 4 2 ∧ berthHears partnerQ 2 (msg 6 1 1 0 0 0 []) 6 1 := by
  unfold berthHears; exact ⟨by decide, by decide, by decide, by decide, by decide, by decide, by decide, by decide⟩
theorem test_partner_doorbell : (after (.tskDoorbell 2 (msg 2 1 0 64 0x40004 0 [])) partnerQ).qe.sqs.map (fun p => p.2.tailCount) = [4] ∧ stampOf (0 + 4 - 1) = 4
    ∧ getReg (after (.tskDoorbell 2 (msg 2 1 0 65 0x40004 0 [])) partnerQ) .qe 0 0x05C = 1 := by decide
theorem test_partner_head : (after (.cqHead 2 (msg 2 2 0 64 3 0 [])) partnerQ).qe.cqs.map (fun p => (p.2.head, p.2.unread)) = [(3, 2)] ∧ getReg (after (.cqHead 2 (msg 2 2 0 65 3 0 [])) partnerQ) .qe 0 0x05C = 1 := by decide
def fenced2 (f : Nat) : State := { partnerQ with qe := { partnerQ.qe with blocks := [(0, { f := f, ctx := 1 })] } }
theorem test_partner_signal : (getFence (after (.fenceSignal 2 (msg 2 3 0 5 9 0 [])) (fenced2 0)) 5).value = 9 ∧ (getFence (after (.fenceSignal 2 (msg 2 3 0 5 9 0 [])) (fenced2 3)) 5).value = 0
    ∧ advances 9 0 = true := by decide
theorem test_unbind : (getBerth (after (.unbindAck 2 (msg 2 4 0 0 0 7 [])) (berthed { active2 with unbinds := [6, 7] } up)) 2).unbinds = [6] := by decide
def sourced : State := berthed { active2 with card := (cardOk.set 16 6) } up
theorem test_event : (after (.event 2 (msg 3 1 0 0 5 0 [])) sourced).ec.pend = [0xA005] ∧ getReg (after (.event 2 (msg 3 1 0 0 6 0 [])) sourced) (.qyBerth 2) 0 0x05C = 1 := by decide
/-- 30 W granted; the window allows 10 W more. -/
def powered2 : State := let s := berthed { active2 with asked := 30, granted := 30, counted := 30 } up; { s with sl := { s.sl with pkgLo := 30 + s.sl.hubW + 10 - pStep s } }
theorem test_power_request : (getBerth (after (.pwrRequest 2 (msg 4 1 0 0 50 0 [])) powered2) 2).granted = 30 + Nat.min 20 (riseRoom powered2) ∧ (getBerth (after (.pwrRequest 2 (msg 4 1 0 0 50 0 [])) powered2) 2).asked = 50 := by decide +kernel
theorem test_power_release : (getBerth (after (.pwrRelease 2 (msg 4 2 0 0 20 0 [])) powered2) 2).counted = 20 ∧ (getBerth (after (.pwrRelease 2 (msg 4 2 0 0 30 0 [])) powered2) 2).counted = 30 := by decide
def ringOn (used : Nat) : State := setReg .hm 0 0x078 used (setReg .hm 0 0x06C 0x80000000 (quay up))
theorem test_trace : getReg (after (.trace 2 (msg 6 1 1 0 0 0 (List.replicate 64 1))) (ringOn 0)) .hm 0 0x078 = 80 ∧ getReg (after (.trace 2 (msg 6 1 1 0 0 0 (List.replicate 64 1))) (quay up)) .hm 0 0x078 = 0
    ∧ traceUsed (ringOn 0) + 80 < traceSize (ringOn 0) ∧ traceSize (ringOn 0) ≤ 2 ^ 32 ∧ traceSize (ringOn (traceSize (ringOn 0) - 80)) ≤ traceUsed (ringOn (traceSize (ringOn 0) - 80)) + 80
    ∧ getReg (after (.trace 2 (msg 6 1 1 0 0 0 (List.replicate 64 1))) (ringOn (traceSize (ringOn 0) - 80))) .hm 0 0x07C = 1 := by decide +kernel
def roomy (n : Nat) : State := berthed { active2 with grants := [], card := cardOk.set 14 (BitVec.ofNat 8 n) } (rom (queued sq64 cq64))
theorem test_grant_write : canWrite (roomy 1) keeper (.qyBerth 2) 0x04C := by unfold canWrite; decide
theorem test_context_grant : (getBerth (after (.contextGrant keeper 2 (2 ^ 31 + 1)) (roomy 1)) 2).grants = [1] ∧ (getBerth (after (.contextGrant keeper 2 (2 ^ 31 + 1)) (roomy 0)) 2).grants = []
    ∧ ((getBerth (after (.contextRevoke keeper 2 1) (rom served)) 2).grants, (getBerth (after (.contextRevoke keeper 2 1) (rom served)) 2).unbinds) = ([], [1]) := by decide
theorem test_time : (after .berthTimeTimer (quay up)).out.length = 1 := by decide

/-! ### Hawser links, windows and streams -/

/-- Link 2 in a state of its own, enabled; and its Ethernet form. -/
def link2 (k : Link) (s : State) : State := { s with hl := { s.hl with links := [(2, k)] } }
def linkOn2 (k : Link) : State := setReg (.hlLink 2) 0 0x040 0x80000000 (link2 k up)
def ether2 (gptp : Nat) (k : Link) : State := setReg (.hlLink 2) 0 0x040 (0xC0000000 + gptp * 2 ^ 28) (link2 k up)
def l2 (s : State) : Link := getLink s 2
theorem test_l_ctl_write : canWrite (rom (linkOn2 { st := 4 })) keeper (.hlLink 2) 0x040 ∧ canWrite (rom up) keeper (.hlLink 2) 0x040 := by unfold canWrite; decide
theorem test_link_enable : (l2 (after (.linkEnable keeper 2 0x80000000) (rom up))).st = 1 ∧ linkEn (after (.linkEnable keeper 2 0x80000000) (rom up)) 2 = true := by decide
/-- Sixteen links of the vehicle profile are enabled. -/
def crowdedLinks : State := { (List.range' 10 16).foldl (fun s l => setReg (.hlLink l) 0 0x040 0x80000000 s) (rom up) with fuses := { up.fuses with vehicle := true } }
theorem test_seventeenth : canWrite crowdedLinks keeper (.hlLink 2) 0x040 ∧ ((List.range 48).filter fun i => i ≠ 2 && linkEn crowdedLinks i).length = 16 := by unfold canWrite; decide
theorem test_seventeenth_refused : linkEn (after (.linkEnable keeper 2 0x80000000) crowdedLinks) 2 = false
    ∧ getReg (after (.linkEnable keeper 2 0x80000000) crowdedLinks) .hl 0 0x024 = 0x80012000 := by decide +kernel
theorem test_link_disable : (l2 (after (.linkDisable keeper 2 0) (rom (linkOn2 { st := 4, lanes := 15, peer := some 7 })))) = {} := by decide
theorem test_lanes_locked : (after (.lanesLocked 2) (linkOn2 { st := 1 })).out = [.hawser 2 "HELLO" [0x030000B0, 0, 0, 0, 0, 0, 0], .annexChanged]
    ∧ l2 (after (.lanesLocked 2) (ether2 0 { st := 1 })) = { st := 4, lanes := 15, epoch := 1 } := by decide
def helloOf (major : Nat) (id : Option Nat) : HelloMsg := { version := major * 2 ^ 24, grade := 0, id := id, fixed := true, eligible := true, manager := none, hops := 0 }
def fixed5 (s : State) : State := { setReg .hl 0 0x040 0xC0000005 s with hl := { s.hl with idValid := true, hubId := 5 } }
theorem test_hello : (l2 (after (.hello 2 (helloOf 3 (some 7))) (linkOn2 { st := 2 }))).st = 3 ∧ (l2 (after (.hello 2 (helloOf 2 (some 7))) (linkOn2 { st := 2 }))).st = 2
    ∧ (after (.hello 2 (helloOf 3 (some 5))) (fixed5 (linkOn2 { st := 2 }))).hl.role = 4 := by decide
theorem test_session_up : l2 (after (.sessionUp 2 true) (linkOn2 { st := 3, peer := some 7 })) = { st := 4, peer := some 7, epoch := 1, keyGen := 1 }
    ∧ (after (.sessionUp 2 true) (linkOn2 { st := 3, peer := some 7 })).hl.known = [7]
    ∧ getReg (after (.sessionUp 2 false) (linkOn2 { st := 3, peer := some 7 })) .hl 0 0x024 = 0x80046007 := by decide
theorem test_hello_same_id : (let t := after (.hello 2 (helloOf 3 (some 5))) { fixed5 (linkOn2 { st := 2 }) with hl := { (fixed5 (linkOn2 { st := 2 })).hl with links := [(2, { st := 2 }), (4, { st := 4 })] } }
      ((l2 t).st, t.hl.role)) = (2, 0)
    ∧ (after (.hello 2 (helloOf 3 (some 5))) { fixed5 (linkOn2 { st := 2 }) with hl := { (fixed5 (linkOn2 { st := 2 })).hl with links := [(2, { st := 2 }), (4, { st := 3 })] } }).hl.links.map (fun p => p.2.st) = [2, 2]
    ∧ (l2 (after (.hello 2 (helloOf 3 (some 7))) { linkOn2 { st := 2 } with hl := { (linkOn2 { st := 2 }).hl with role := 4 } })).st = 2 := by decide
/-- A neighbour of this hub's ID that belongs to a system turns the hub down; every link that is UP goes back to HELLO. -/
def twoLinks (k : Link) (s : State) : State := { s with hl := { s.hl with links := [(2, { st := 2 }), (4, k)] } }
theorem test_hello_turned_down : (let t := after (.hello 2 { helloOf 3 (some 5) with manager := some 3, hops := 1 }) (twoLinks { st := 4 } (fixed5 (linkOn2 { st := 2 })))
    (t.hl.role, t.hl.idValid, t.hl.links.map fun p => p.2.st)) = (4, false, [2, 2]) := by decide
theorem test_ether_flits : getReg (after (.flitReceive 2 (.good 3)) (ether2 0 { st := 4 })) (.hlLink 2) 0 0x04C = 3 ∧ isEther (ether2 0 { st := 4 }) 2 = true
    ∧ getReg (after (.flitReceive 2 .uncorrectable) (ether2 0 { st := 4 })) (.hlLink 2) 0 0x050 = 1 := by decide
theorem test_flits : (l2 (after (.flitReceive 2 (.good 3)) (linkOn2 { st := 4 }))).flits = 1 ∧ getReg (after (.flitReceive 2 (.good 3)) (linkOn2 { st := 4 })) (.hlLink 2) 0 0x04C = 3
    ∧ (after (.flitReceive 2 (.good 0)) (linkOn2 { st := 4 })).regs = (linkOn2 { st := 4 }).regs
    ∧ (l2 (after (.flitReceive 2 .badCrc) (linkOn2 { st := 4, replays := 7 }))).st = 4 ∧ (l2 (after (.flitReceive 2 .badTag) (linkOn2 { st := 4, replays := 8 }))).st = 5
    ∧ getReg (after (.flitReceive 2 .uncorrectable) (linkOn2 { st := 4 })) (.hlLink 2) 0 0x050 = 1 := by decide
theorem test_rekey_not_due : after (.linkRekey 2) (linkOn2 { st := 4 }) = linkOn2 { st := 4 } ∧ (l2 (after (.linkRekey 2) (linkOn2 { st := 4, flits := 2 ^ 32 }))).keyGen = 1 := by decide
theorem test_lock_lost_early : (l2 (after (.laneLockLost 2) (linkOn2 { st := 3, peer := some 7 }))) = { st := 1 } := by decide
theorem test_rekey_asked : (l2 (after (.linkRekey 2) (after (.flitReceive 2 .keyUpdate) (linkOn2 { st := 4 })))) = { st := 4, keyGen := 1 } := by decide
theorem test_retraining : (l2 (after (.laneLockLost 2) (linkOn2 { st := 4 }))).st = 5
    ∧ ([Instr.retrainDone 2, .linkRetrainExpiry 2].map fun i => (l2 (after i (linkOn2 { st := 5 }))).st) = [4, 6] := by decide
/-- Mover 3 of command 0 has a remote write of tag 9 open on link 2. -/
def remoteOf (kind st : Nat) : State :=
  let s := withCmd { cmdOf (entry [(0, 0x10)]) with phase := .running, remote := [9] } (linkOn2 { st := st })
  { s with gm := { s.gm with movers := [(3, { k := 0 })] },
           hl := { s.hl with outs := [{ tag := 9, link := 2, who := .mover 3, kind := kind, va := 0x5000, len := 4, win := 1, seq := 6 }] } }
theorem test_link_lost_hypotheses : (remoteOf 1 5).hl.outs.filter (fun o => o.link = 2) = (remoteOf 1 5).hl.outs ∧ ((getCmd (remoteOf 1 5) 0).map (·.stop)) = some none := by decide
theorem test_link_lost_ends_requests : ((getCmd (after (.linkRetrainExpiry 2) (remoteOf 1 5)) 0).map fun c => (c.stop, c.fault, c.remote)) = some (some (stLinkGone, 0), 0, [])
    ∧ (after (.linkRetrainExpiry 2) (remoteOf 1 5)).hl.outs = [] := by decide

/-- A request of hub 7 that came over link 4 and went on over link 2, and a WINDOW_CREATE whose registration went out over link 2. -/
def passedOn : State :=
  let s := linkOn2 { st := 5 }
  { s with hl := { s.hl with links := [(2, { st := 5 }), (4, { st := 4 })], forwards := [⟨20, 2, 4, 7, 9⟩] } }
theorem test_link_lost_forwarded : hawserUp passedOn 4 = true ∧ (after (.linkRetrainExpiry 2) passedOn).hl.forwards = []
    ∧ Out.remoteAck 4 7 9 stLinkGone 0 [] false ∈ (after (.linkRetrainExpiry 2) passedOn).out := by decide
/-! The manager. Hub 5 is fixed and eligible, with link 2 UP to hub 7. -/
def win17 : InWin := { f := 0, base := 0x10000, len := 0x10000, rights := ⟨true, true, true⟩, tag := 0x4B560001, allowId := 0, allowMask := 0, open_ := true }
def hub5 (role : Nat) (cand : Option Nat) : State :=
  let s := fixed5 (linkOn2 { st := 4, peer := some 7 })
  let m := if role = 2 ∨ role = 3 then cand else none
  { s with hl := { s.hl with role := role, cand := cand, manager := m, upstream := 2, known := [5, 0, 1, 7], inw := [(17, win17)] } }
theorem test_eligible : eligible (hub5 1 none) = true ∧ hawserUp (hub5 1 none) 2 = true ∧ (hub5 1 none).hl.idValid = true ∧ ((hub5 1 none).hl.inw.map Prod.fst).Nodup
    ∧ (hub5 1 none).hl.links.map Prod.fst = [2] ∧ eligible (linkOn2 {}) = false := by decide
theorem test_announce_timer : (after .announceTimer (hub5 3 (some 5))).hl.beat = 1 ∧ (after .announceTimer (hub5 3 (some 5))).out = [.hawser 2 "ANNOUNCE" [5, 0, 1]]
    ∧ (after .announceTimer (hub5 2 (some 3))).out = [.hawser 2 "ANNOUNCE" [3, 0, 0]] ∧ (after .announceTimer (hub5 1 none)).hl.cand = some 5 := by decide
theorem test_announce : ((after (.announce 2 3 1 9) (hub5 1 none)).hl.role, (after (.announce 2 3 1 9) (hub5 1 none)).hl.manager, (after (.announce 2 3 1 9) (hub5 1 none)).hl.hops) = (2, some 3, 2)
    ∧ Out.hawser 2 "REGISTER" [5, 17, 0x4B560001, 0x10000, 7, 0, 0] ∈ (after (.announce 2 3 1 9) (hub5 1 none)).out ∧ (after (.announce 2 9 1 9) (hub5 1 none)).hl.cand = none
    ∧ ((after (.announce 2 3 1 0) (hub5 3 (some 5))).hl.role, (after (.announce 2 3 1 0) (hub5 3 (some 5))).hl.manager) = (1, none)
    ∧ after (.announce 2 3 1 9) (linkOn2 { st := 3 }) = linkOn2 { st := 3 } := by decide +kernel
/-- A hub that is not eligible and knows no candidate announces none. -/
theorem test_announce_none : (after .announceTimer (linkOn2 { st := 4 })).out = [.hawser 2 "ANNOUNCE" [4096, 0, 0]] ∧ (linkOn2 { st := 4 }).hl.cand = none := by decide
theorem test_elect : (after .electTimeExpiry (hub5 1 (some 5))).hl.role = 3 ∧ ((after .electTimeExpiry (hub5 1 none)).hl.dir.map fun d => (d.hub, d.win)) = [(5, 17)]
    ∧ after .electTimeExpiry (hub5 1 (some 3)) = hub5 1 (some 3) := by decide
theorem test_mgr_timeout : ((after .mgrTimeout (hub5 2 (some 3))).hl.role, (after .mgrTimeout (hub5 2 (some 3))).hl.cand) = (1, none) ∧ after .mgrTimeout (hub5 1 none) = hub5 1 none := by decide
/-- Requests for an ID that this hub has sent on, in a state of its own. -/
def asked (l : List (Option Nat)) (s : State) : State := { s with hl := { s.hl with idAsks := l } }
theorem test_ids : (after (.idRequest 2 (.ask none)) (hub5 3 (some 5))).out = [.hawser 2 "ID_ASSIGN" [2]]
    ∧ ((after (.idRequest 2 (.ask none)) (hub5 2 (some 3))).out, (after (.idRequest 2 (.ask none)) (hub5 2 (some 3))).hl.idAsks) = ([.hawser 2 "ID_REQUEST" []], [some 2])
    ∧ after (.idRequest 2 (.ask none)) (hub5 1 none) = hub5 1 none
    ∧ ((after (.idRequest 2 (.assign 12)) (asked [none, some 2] (linkOn2 { st := 4 }))).hl.hubId, (after (.idRequest 2 (.assign 12)) (asked [none, some 2] (linkOn2 { st := 4 }))).hl.idAsks) = (12, [some 2])
    ∧ after (.idRequest 2 (.assign 12)) (asked [none] (hub5 2 (some 3))) = asked [] (hub5 2 (some 3)) ∧ (after (.idRequest 2 (.assign 12)) (asked [some 2] (hub5 2 (some 3)))).out = [.hawser 2 "ID_ASSIGN" [12]]
    ∧ after (.idRequest 2 (.assign 12)) (hub5 2 (some 3)) = hub5 2 (some 3) := by decide

/-- Fixed IDs: held by hub 7 or by the manager itself, free, relayed, answered; and a refusal of this hub's own. -/
theorem test_fixed_ids : ([none, some 5, some 1, some 12].map fun i => (after (.idRequest 2 (.ask i)) (hub5 3 (some 5))).out)
      = [[.hawser 2 "ID_ASSIGN" [2]], [.hawser 2 "ID_REFUSED" [5]], [.hawser 2 "ID_REFUSED" [1]], [.hawser 2 "ID_ASSIGN" [12]]]
    ∧ (after (.idRequest 2 (.ask (some 12))) (hub5 3 (some 5))).hl.claims = [(12, 2)] ∧ (after (.idRequest 2 (.ask (some 12))) (hub5 2 (some 3))).out = [.hawser 2 "ID_REQUEST" [12]]
    ∧ (after (.idRequest 2 .refused) (asked [some 2] (hub5 2 (some 3)))).out = [.hawser 2 "ID_REFUSED" []] := by decide
theorem test_own_id_refused : (let t := after (.idRequest 2 .refused) (asked [none] (hub5 2 (some 3))); (t.hl.role, t.hl.idValid, (l2 t).st)) = (4, false, 2)
    ∧ (asked [none] (hub5 2 (some 3))).hl.outs = [] ∧ (asked [none] (hub5 2 (some 3))).mem.queue = []
    ∧ after (.idRequest 2 .refused) (asked [none] (linkOn2 { st := 4 })) = asked [] (linkOn2 { st := 4 }) := by decide
/-! Windows. Command 0 is a WINDOW_CREATE that waits. -/
def creating (kind role stage : Nat) : State :=
  let s := withCmd { cmdOf (entry [(0, 0x8A), (16, kind), (18, 5), (20, 1), (24, 7), (26, 44), (30, 0xFF)]) with sq := 0, phase := .running, stage := stage, aux := 17 } (hub5 role (some 3))
  { s with hm := { s.hm with cores := [(1, { st := 0 })] } }
theorem test_creating : ((adminIn (creating 0 1 1) 0 0x8A).map (·.aux)) = some 17 ∧ waitingCreate (creating 0 2 2) (fun c => fld c.raw 16 1 = 0 && c.aux = 17) = some 0
    ∧ waitingCreate (creating 1 2 2) (fun c => fld c.raw 16 1 = 1 && fld c.raw 26 2 = 44 && fld c.raw 20 4 = 1) = some 0 := by decide
theorem test_window_proceeds : (creating 0 1 1).qe.cmds.filter (fun p => p.2.op = 0x8A && p.2.sq < 64 && p.2.phase = .running && p.2.stage = 1) = (creating 0 1 1).qe.cmds
    ∧ ((getCmd (after (.announce 2 3 1 9) (creating 0 1 1)) 0).map (·.stage)) = some 2 := by decide +kernel
theorem test_win_wait : ((getCmd (after (.winWaitExpiry 0) (creating 0 1 1)) 0).map fun c => (c.phase, c.status)) = some (.finished, stLinkGone) ∧ (after (.winWaitExpiry 0) (creating 0 1 1)).hl.inw = []
    ∧ after (.winWaitExpiry 0) (creating 0 2 1) = creating 0 2 1 := by decide
theorem test_register : (after (.windowRegister 7 4 9 (.register 65536) 7 0 0) (hub5 3 (some 5))).hl.dir = [⟨7, 4, 9, 65536, ⟨true, true, true⟩, 0, 0⟩]
    ∧ (after (.windowRegister 7 4 9 (.register 65536) 7 0 0) (hub5 3 (some 5))).out = [.hawser 2 "REGISTERED" [7, 4]]
    ∧ ((getCmd (after (.windowRegister 5 17 1 .accepted 7 0 0) (creating 0 2 2)) 0).map fun c => (c.status, c.done)) = some (stSuccess, 17)
    ∧ (after (.windowRegister 7 4 9 (.register 65536) 7 0 0) (hub5 2 (some 3))).out = [.hawser 2 "REGISTER" [7, 4, 9, 65536, 7, 0, 0]] := by decide
/-- A registration that waits on link 2 when it falls. -/
def registering : State := let s := creating 0 2 2; { s with hl := { s.hl with links := [(2, { st := 5 })], winAsks := [(0, 2)], inw := [(17, win17)] } }
theorem test_link_lost_create : (adminIn registering 0 0x8A).isSome = true ∧ ((getCmd (after (.linkRetrainExpiry 2) registering) 0).map fun c => (c.phase, c.status)) = some (.finished, stLinkGone)
    ∧ (after (.linkRetrainExpiry 2) registering).hl.inw = [] := by decide
/-- An acceptance and a deregistration on their way, and answers for a core that is down. -/
def coreDown (s : State) : State := { s with hm := { s.hm with cores := [] } }
theorem test_register_relays : (after (.windowRegister 7 4 9 .accepted 7 0 0) (hub5 2 (some 3))).out = [.hawser 2 "REGISTERED" [7, 4]]
    ∧ (after (.windowRegister 7 4 9 .deregister 7 0 0) (hub5 2 (some 3))).out = [.hawser 2 "DEREGISTER" [7, 4]]
    ∧ (after (.windowRegister 7 4 9 .deregister 7 0 0) (after (.windowRegister 7 4 9 (.register 65536) 7 0 0) (hub5 3 (some 5)))).hl.dir = [] := by decide
theorem test_answers_to_a_core_down : adminCoreUp (coreDown (creating 0 2 2)) 0 = false ∧ adminCoreUp (creating 0 2 2) 0 = true
    ∧ ((getCmd (after (.windowRegister 5 17 1 .accepted 7 0 0) (coreDown (creating 0 2 2))) 0).map (·.stage)) = some 1
    ∧ ((getCmd (after (.resolve 5 44 1 (.ok 3 65536 1)) (coreDown (creating 1 2 2))) 0).map (·.stage)) = some 1 := by decide
theorem test_resolve_relays : (after (.resolve 7 5 9 .ask) (hub5 2 (some 3))).out = [.hawser 2 "RESOLVE" [7, 5, 9]]
    ∧ (after (.resolve 7 5 9 .refused) (hub5 2 (some 3))).out = [.hawser 2 "RESOLVED" [7, 5, 9, 0]]
    ∧ (after (.resolve 7 5 9 (.ok 1 2 3)) (hub5 2 (some 3))).out = [.hawser 2 "RESOLVED" [7, 5, 9, 1, 1, 2, 3]] := by decide
theorem test_resolve_ask : (after (.resolve 7 5 9 .ask) { hub5 3 (some 5) with hl := { (hub5 3 (some 5)).hl with dir := [⟨5, 17, 9, 65536, ⟨true, true, false⟩, 7, 0xFFF⟩] } }).out
      = [.hawser 2 "RESOLVED" [7, 5, 9, 1, 17, 65536, 3]]
    ∧ (after (.resolve 7 5 8 .ask) (hub5 3 (some 5))).out = [.hawser 2 "RESOLVED" [7, 5, 8, 0]] := by decide
theorem test_resolve_answer : ((getCmd (after (.resolve 5 44 1 .refused) (creating 1 2 2)) 0).map (·.status)) = some stNotPermitted
    ∧ (after (.resolve 5 44 1 (.ok 3 65536 1)) (creating 1 2 2)).hl.outw = [(5, { f := 0, target := 44, win := 3, len := 65536, rights := ⟨true, false, false⟩ })] := by decide

/-! Requests of hub 7 to window 17 of hub 5, whose first page is at DPA 0x3000. -/
def served5 (xs : List Xl) : State :=
  let s := hub5 2 (some 3)
  setReg (.tuFn 0) 0 0x040 1 { s with hl := { s.hl with outw := [] }, tu := { s.tu with central := xs } }
def page3 (r : Rights) : Xl := { f := 0, pasid := none, space := 1, base := 0x10000, len := 4096, out := 0x3000, kind := .dpa, rights := r }
def all7 : Rights := ⟨true, true, true⟩
def req (win off : Nat) (op : RemOp) : RemReq := { link := 2, src := 7, dst := 5, tag := 9, hops := 15, win := win, off := off, op := op }
theorem test_remote_hypotheses : mapLive (served5 []) 0 = true ∧ (served5 []).tu.plans = [] ∧ (served5 []).sl.h = 0 ∧ bit (getReg (served5 []) .tu 0 0x048) 31 = false
    ∧ ((served5 [page3 all7]).tu.central.find? fun x => x.covers 0 none 1 0x10000) = some (page3 all7) ∧ (served5 []).hl.ins = [] ∧ (served5 []).mem.journal = [] := by decide
theorem test_remote_line : quietLine (served5 [page3 all7]) 0x3000 0 := by unfold quietLine; decide +kernel
theorem test_remote_refused : (after (.remoteRequest (req 18 0 (.read 8))) (served5 [])).out = [.remoteAck 2 7 9 stFault 0 [] false]
    ∧ (after (.remoteRequest (req 17 0xFFFC (.read 8))) (served5 [])).out = [.remoteAck 2 7 9 stFault 0 [] false]
    ∧ ((after (.remoteRequest (req 17 0xFFF8 (.read 8))) (served5 [])).tu.walks.map (·.page)) = [0x1F000] := by decide
theorem test_remote_read_write : (after (.remoteRequest (req 17 8 (.read 4))) (served5 [page3 all7])).out = [.remoteAck 2 7 9 0 0 [0, 0, 0, 0] false]
    ∧ (after (.remoteRequest (req 17 8 (.write [1, 0, 3] false))) (served5 [page3 all7])).mem.bytes = [(0x3008, 1), (0x300A, 3)]
    ∧ (after (.remoteRequest (req 17 8 (.write [1, 0, 3] false))) (served5 [page3 all7])).out = [.remoteAck 2 7 9 0 0 [] false] := by decide +kernel
theorem test_remote_atomic : (after (.remoteRequest (req 17 8 (.nonIdem 4 (.atomic .add 4 3 0)))) (served5 [page3 all7])).mem.bytes = [(0x3008, 3)]
    ∧ (after (.remoteRequest (req 17 8 (.nonIdem 4 (.atomic .add 4 3 0)))) (served5 [page3 all7])).out = [.remoteAck 2 7 9 0 0 [0, 0, 0, 0] false] := by decide +kernel
theorem test_plan : (after (.plan 2 7 9 15 [⟨17, 0, 7⟩]) (served5 [page3 all7])).out = [.remoteAck 2 7 9 0 0 [] false]
    ∧ (after (.plan 2 7 9 15 [⟨17, 0, 7⟩]) (served5 [page3 ⟨true, false, true⟩])).out = [.remoteAck 2 7 9 stRights 2 (leBytes 8 (17 * 2 ^ 35)) false]
    ∧ (after (.plan 2 7 9 15 [⟨17, 0x10000, 7⟩]) (served5 [])).out = [.remoteAck 2 7 9 stFault 0 (leBytes 8 (17 * 2 ^ 35 + 0x10000)) false] := by decide
theorem test_plan_in_a_request : after (.remoteRequest (req 0 0 (.plan [⟨17, 0, 7⟩]))) (served5 [page3 all7]) = after (.plan 2 7 9 15 [⟨17, 0, 7⟩]) (served5 [page3 all7]) := by decide
theorem test_forwarded_answer : (let s := { linkOn2 { st := 4 } with hl := { (linkOn2 { st := 4 }).hl with forwards := [⟨20, 4, 2, 7, 9⟩] } }; let t := after (.remoteAck 20 0 0 [5] false) s
    (hawserUp s 2, t.out, t.hl.forwards)) = (true, [.remoteAck 2 7 9 0 0 [5] false], []) := by decide
theorem test_remote_ack : ((mget (after (.remoteAck 9 0 0 [5] false) (remoteOf 0 4)).gm.movers 3).map (·.buf)) = some [{ at_ := 0x5000, val := 5 }]
    ∧ (after (.remoteAck 9 0 0 [] false) (remoteOf 2 4)).out = [.hawser 2 "JOURNAL_ACK" [0, 6]]
    ∧ ((getCmd (after (.remoteAck 9 stRights 0 [] false) (remoteOf 1 4)) 0).map (·.stop)) = some (some (stRights, 2))
    ∧ ((getCmd (after (.remoteAck 9 stRights 2 [] false) (remoteOf 1 4)) 0).map fun c => (c.stop, c.fault)) = some (some (stRights, 2), 0x5000)
    ∧ after (.remoteAck 8 0 0 [] false) (remoteOf 1 4) = remoteOf 1 4 := by decide
theorem test_forward : (after (.forward { req 0 0 (.read 8) with dst := 7, hops := 2 }) (hub5 2 (some 3))).out = [.remote 2 { req 0 0 (.read 8) with dst := 7, hops := 1, tag := (hub5 2 (some 3)).hl.nextTag }]
    ∧ (after (.forward { req 0 0 (.read 8) with dst := 7, hops := 1 }) (hub5 2 (some 3))).out = [.remoteAck 2 7 9 stLinkGone 0 [] false]
    ∧ (after (.forward { req 0 0 (.read 8) with dst := 8 }) (hub5 2 (some 3))).out = [.remoteAck 2 7 9 stLinkGone 0 [] false] := by decide

/-! Time and streams. -/
theorem test_time_sync : ((after (.timeSyncExchange 2 true 1001) (hub5 2 (some 3))).time, (after (.timeSyncExchange 2 true 1000) (hub5 2 (some 3))).time) = (1001, 0)
    ∧ ((after (.timeSyncExchange 2 true 1000) (hub5 2 (some 3))).hl.slew, (after (.timeSyncExchange 2 false 7) (hub5 2 (some 3))).hl.slew) = (1, -1)
    ∧ after (.timeSyncExchange 2 true 5) (hub5 1 none) = hub5 1 none := by decide
theorem test_gptp : (after (.gptpSync 2) (setReg .hl 0 0x06C 9 (ether2 1 { st := 4 }))).out = [.gptp 2 9] ∧ (l2 (after (.gptpFrame 2 77) (ether2 2 { st := 4 }))).gptpOfs = 77
    ∧ ([Instr.gptpFrame 2 77, .frameDropped 2].map fun i => getReg (after i (ether2 0 { st := 4 })) (.hlLink 2) 0 0x058) = [1, 1] := by decide
def chan (kind sample : Nat) : Chan :=
  { link := 2, kind := kind, sample := sample, streamId := 6, width := 64, height := 4, ring := 0x10000, pitch := 64, slots := 2, cls := 0, deadline := 0, desc := 0x20000, descLog2 := 4, vector := 0 }
def frame (kind pixel : Nat) (n : Nat) : Avtp := { kind := kind, stream := 6, seq := 1, stamp := 0, lineNo := 1, pixel := pixel, eof := false, payload := List.replicate n 7 }
def streaming (c : Chan) : State := { ether2 0 { st := 4 } with st := { chans := [(1, c)], slot := 1, map := [0x8100] } }
theorem test_avtp : chanOf (streaming (chan 1 1)) 2 (frame 1 0 4) = some (1, chan 1 1) ∧ chanOf (streaming (chan 1 1)) 2 (frame 0 0 4) = none
    ∧ ((mget (after (.avtpFrame 2 (frame 1 0 4)) (streaming (chan 1 1))).st.chans 1).map (·.input.length)) = some 1
    ∧ getReg (after (.avtpFrame 2 (frame 0 0 4)) (streaming (chan 1 1))) (.hlLink 2) 0 0x058 = 1 := by decide
theorem test_avtp_long : getReg (after (.avtpFrame 2 (frame 1 0 9175)) (streaming (chan 1 1))) (.hlLink 2) 0 0x058 = 1
    ∧ ((mget (after (.avtpFrame 2 (frame 1 0 9174)) (streaming (chan 1 1))).st.chans 1).map (·.input.length)) = some 1 := by decide +kernel
theorem test_avtp_full : 32768 < ((({ chan 1 1 with input := List.replicate 4 { frame := frame 1 0 8192, arrival := 0, present := 0, gap := false } } : Chan).input.map
    fun p => p.frame.payload.length - p.taken).sum + (frame 1 0 4).payload.length) := by decide
/-- A channel with one packet in its buffer and slot 0 of its ring under way. -/
def buffered (c : Chan) (f : Avtp) : State := streaming { c with cur := some 0, lastSlot := some 0, input := [{ frame := f, arrival := 0, present := 0, gap := false }] }
theorem test_stream_line : quietLine (buffered (chan 1 1) (frame 1 0 3)) 0x10000 0 ∧ quietLine (buffered (chan 0 0) (frame 0 5 3)) 0x10040 0 := by unfold quietLine; decide +kernel
theorem test_stream_slot : (after .streamSlot (buffered (chan 1 1) (frame 1 0 2))).mem.bytes = [(0x10000, 7), (0x10001, 7)]
    ∧ (after .streamSlot (buffered (chan 0 0) (frame 0 5 2))).mem.bytes = [(0x10045, 7), (0x10046, 7)] ∧ (after .streamSlot (buffered (chan 0 0) (frame 0 5 2))).st.slot = 2 := by decide +kernel
theorem test_stream_slot_unassigned : (after .streamSlot { streaming (chan 1 1) with st := { slot := 2, map := [0x8100] } }).st.slot = 3 := by decide

/-! ### The Separator -/

/-- The responder after `n` steps of the negotiation, with session 0x10001 open and handshake 0x20002 begun. -/
def spdm (n : Nat) : State := { up with sp := { up.sp with negotiated := n, sessions := [(0x10001, 1)], handshakes := [(0x20002, 2)], nextSession := 3 } }
theorem test_spdm_reaches : (spdm 3).hm.stage = 2 ∧ (spdm 3).gw.detached = false ∧ linkUp (spdm 3) 0 = true ∧ after .spdmGetVersion State.reset = State.reset := by decide
theorem test_spdm_negotiation : ([(Instr.spdmGetVersion, 0), (.spdmGetCapabilities, 0), (.spdmGetCapabilities, 1), (.spdmNegotiateAlgorithms, 1), (.spdmNegotiateAlgorithms, 2), (.spdmGetDigests, 2)].map
    fun p => ((after p.1 (spdm p.2)).out, (after p.1 (spdm p.2)).sp.negotiated)) = [([.spdm "VERSION" [0x13]], 1), ([.spdm "ERROR" [4, 0]], 0), ([.spdm "CAPABILITIES" []], 2), ([.spdm "ERROR" [4, 0]], 1),
      ([.spdm "ALGORITHMS" []], 3), ([.spdm "ERROR" [4, 0]], 2)] := by decide
theorem test_spdm_requests : ([.spdmGetCertificate 1 0 9, .spdmChallenge 5, .spdmKeyExchange 7, .spdmFinish 0x20002 true, .spdmFinish 0x20002 false, .spdmFinish 9 true,
    .spdmKeyUpdate 0x10001, .spdmHeartbeat 0x10001, .spdmEndSession 0x10001, .spdmHeartbeat 9, .spdmUnsupportedRequest 0xE0].map fun i => (after i (spdm 3)).out) =
  [[.spdm "ERROR" [1, 0]], [.spdm "CHALLENGE_AUTH" [5, up.sp.alias_.key.toNat]], [.spdm "KEY_EXCHANGE_RSP" [0x30007]], [.spdm "FINISH_RSP" [0x20002]], [.spdm "ERROR" [6, 0]], [.spdm "ERROR" [2, 0]],
    [.spdm "KEY_UPDATE_ACK" [0x10001]], [.spdm "HEARTBEAT_ACK" [0x10001]], [.spdm "END_SESSION_ACK" [0x10001]], [.spdm "ERROR" [2, 0]], [.spdm "ERROR" [7, 0xE0]]] := by decide
theorem test_spdm_chain : (after .spdmGetDigests (spdm 3)).out = [.spdm "DIGESTS" [0, (Config.chainDigest (Config.identityCert.map BitVec.toNat ++ up.sp.alias_.fields)).toNat]]
    ∧ (after (.spdmGetCertificate 0 0 9) (spdm 3)).out = [.spdm "CERTIFICATE" ([0, 9] ++ (Config.identityCert.map BitVec.toNat ++ up.sp.alias_.fields))] := ⟨rfl, rfl⟩
theorem test_spdm_full : (after (.spdmKeyExchange 7) { spdm 3 with sp := { (spdm 3).sp with sessions := (List.range 16).map fun i => (i, i) } }).out = [.spdm "ERROR" [10, 0]] := by decide

/-- Page 0x10 is to take tag 9. -/
def retagging (first : Nat) : State := setReg .sp 0 0x04C first up
theorem test_retag_write : canWrite (retagging 0x10) pf .sp 0x054 ∧ canWrite (retagging 0x1FE000) pf .sp 0x054 ∧ canWrite (rom (retagging 0x1FE000)) keeper .sp 0x054 := by unfold canWrite; decide
theorem test_retag_hypotheses : fwPages (retagging 0x10) 0x10 0x11 = 0 ∧ fwPages (retagging 0x1FE000) 0x1FE000 0x1FE001 = 1 := by decide
theorem test_retag : (after (.retag pf 0x109) (retagging 0x10)).sp.retag = some (0x10, 0x11, 9) ∧ (after (.retag pf 0x109) (retagging 0x1FE000)).sp.retag = none
    ∧ (after (.retag pf 0x149) (retagging 0x10)).sp.retag = none ∧ (after (.retag keeper 0x109) (rom (retagging 0x1FE000))).sp.retag = some (0x1FE000, 0x1FE001, 9)
    ∧ getReg (after (.retag pf 0x149) (retagging 0x10)) .sp 0 0x024 = 0x80040000 := by decide
theorem test_retag_done : (after .retagDone (after (.retag pf 0x109) (retagging 0x10))).mem.tags = [(0x10, 9)] ∧ getReg (after .retagDone (after (.retag pf 0x109) (retagging 0x10))) .sp 0 0x054 = 9
    ∧ after .retagDone up = up := by decide
/-- An access to page 0x11 waits: of the range 0x10 to 0x12 page 0x10 alone is retagged. -/
def retagBusy : State :=
  { up with sp := { up.sp with retag := some (0x10, 0x12, 9) },
            mem := { up.mem with queue := [{ id := 4, line := 0x11040, tenant := 0, firmware := false, origin := pf, cls := 0, act := .read, who := .none, jid := none }] } }
theorem test_retag_busy : (after .retagDone retagBusy).mem.tags = [(0x10, 9)] ∧ (after .retagDone retagBusy).sp.retag = some (0x11, 0x12, 9) := by decide
/-- Tenant 9 holds slot 4, SRAM page 0x10 and context 1, and its command 0 runs; a teardown is at a step. -/
def tearing (step : Nat) (phase : Phase) : State :=
  let s := withCmd { cmdOf [] with f := 9, phase := phase } (queued { sq64 with f := 9 } { cq64 with f := 9 })
  { s with sp := { s.sp with teardowns := [{ f := 9, step := step }], slots := [(4, { st := if step = 5 then 2 else 1, bounce := false, f := 9, ctx := 0, key := 2 })] },
           qe := { s.qe with ctxs := [(1, { f := 9, pasid := none, report := false, drop := false })] }, mem := { s.mem with tags := [(0x10, 9)], bytes := [(0x10004, 7), (0x20000, 8)] } }
theorem test_teardown_limit : (getCmd (after (.teardownLimitExpiry 9) (tearing 2 .running)) 0).map (·.stop) = some (some (stAborted, 0))
    ∧ (after (.teardownLimitExpiry 9) (tearing 2 .running)).sp.teardowns.map (·.step) = [3] ∧ after (.teardownLimitExpiry 9) (tearing 3 .running) = tearing 3 .running := by decide
theorem test_key_zero : (after (.teardownKeyZero 9) (tearing 3 .running)) = tearing 3 .running ∧ ((mget (after (.teardownKeyZero 9) (tearing 3 .finished)).sp.slots 4).map fun x => (x.st, x.key)) = some (2, 0)
    ∧ (after (.teardownKeyZero 9) (tearing 3 .finished)).sp.teardowns.map (·.step) = [5] ∧ (after (.teardownKeyZero 9) (tearing 3 .finished)).qe.ctxs = [] := by decide
theorem test_teardown_left : after (.teardownDone 9) { tearing 5 .finished with sp := { (tearing 5 .finished).sp with teardowns := [{ f := 9, step := 5, left := 1 }] } }
    = { tearing 5 .finished with sp := { (tearing 5 .finished).sp with teardowns := [{ f := 9, step := 5, left := 1 }] } } := by decide
theorem test_teardown_done : (after (.teardownDone 9) (tearing 5 .finished)).mem.bytes = [(0x20000, 8)] ∧ (after (.teardownDone 9) (tearing 5 .finished)).mem.tags = []
    ∧ (after (.teardownDone 9) (tearing 5 .finished)).sp.slots = [] ∧ after (.teardownDone 9) (tearing 3 .running) = tearing 3 .running := by decide

/-! ### The Harbourmaster and the event controller -/

theorem test_boot_recovery : (after (.boot true true false true) State.reset).hm.stage = 1 ∧ (after (.boot true true false true) State.reset).mem.lpddrAbsent = true
    ∧ getReg (after (.boot true true false true) State.reset) .sp 0 0x074 = 2
    ∧ after (.boot true true true false) up = up := by decide +kernel
theorem test_boot_hypotheses : State.reset.hm.stage = 0 ∧ State.reset.sl.power = 6 ∧ State.reset.tg.cause = 0 ∧ State.reset.fuses.debugLock = false := by decide
theorem test_hm_writes : ([0x068, 0x04C, 0x064, 0x05C, 0x06C, 0x074].all fun off => originUp up pf && pageExists .hm && admitted up pf .hm off) = true ∧ canWrite up pf (.hmFn 0) 0x040 ∧ canWrite (rom up) keeper .ec 0x040 ∧ canWrite (rom up) keeper .ec 0x044 := by
  unfold canWrite; decide
theorem test_die_reset_write : (after (.dieResetWrite pf 0xA5A5) up).sl.ramp = some 1 ∧ (after (.dieResetWrite pf 0xA5A4) up).sl.ramp = none := by decide
/-- A reset of cause 4 whose ramp has begun. -/
def rampedDown : State := let s := queued sq64 cq64; { s with sl := { s.sl with ramp := some 1, rampCause := 4 } }
theorem test_whole_die_reset : (after (.wholeDieReset 4) (queued sq64 cq64)).sl.ramp = some 1 ∧ (after (.wholeDieReset 4) (queued sq64 cq64)).qe.sqs.length = 1
    ∧ (after (.wholeDieReset 4) rampedDown).qe.sqs = [] ∧ (after (.wholeDieReset 4) rampedDown).tg.cause = 4 ∧ (after (.wholeDieReset 4) rampedDown).hm.stage = 0
    ∧ after (.wholeDieReset 9) up = up ∧ (after (.wholeDieReset 5) up).sl = (after .keelLockLoss up).sl := by decide
/-- The hub in H4, entered by a thermal trip or not, its sensors hot or cool. -/
def inCold (thermal : Bool) (temp : Nat) : State := { up with sl := { up.sl with h := 4, power := 8, railEn := 9, thermalH4 := thermal }, tg := { up.tg with chans := [(3, { out := temp })] } }
theorem test_reset_in_h4 : (after (.wholeDieReset 9) (inCold false 0)).sl.railEn = 11 ∧ (after (.wholeDieReset 6) (inCold true 0)).tg.cause = 6 ∧ coolEnough (inCold true 4095) = false
    ∧ (after (.wholeDieReset 6) (inCold true 4095)).tg.wake = some 0 ∧ after (.wholeDieReset 6) (inCold false 0) = inCold false 0 ∧ ckptTripped (inCold false 0) = false := by decide +kernel
def imaged (fused image : Nat) (busy : Bool) : State := { up with hm := { up.hm with fusedSvn := fused, imageSvn := image, svnBusy := busy } }
theorem test_svn : (after (.svnCommit pf 1) (imaged 2 3 false)).hm.svnBusy = true ∧ (after (.svnCommit keeper 1) (rom (imaged 2 3 false))).hm.svnBusy = false
    ∧ (after .svnCommitDone (imaged 2 3 true)).hm.fusedSvn = 3 ∧ getReg (after .svnCommitDone (imaged 3 3 true)) .hm 0 0x04C = 2 ∧ after .svnCommitDone (imaged 2 3 false) = imaged 2 3 false := by decide
theorem test_flash_go : ([(Instr.flashRead pf 1), .flashErase pf 3, .flashProgram pf 5].map fun i => ((after i (setReg .hm 0 0x060 0x800 up)).hm.flashOp, getReg (after i (setReg .hm 0 0x060 0x800 up)) .hm 0 0x064))
    = [(some (0, 0x800), 0x80000001), (some (1, 0x800), 0x80000003), (some (2, 0x800), 0x80000005)] := by decide
/-- A flash operation under way, on a flash with two bytes written; the hub runs from slot B. -/
def flashing (op a : Nat) : State := setReg .hm 0 0x800 0xFF01FFFF { up with hm := { up.hm with slotUsed := 1, flashOp := some (op, a), flash := [(0x800, 7), (0x10000, 8)] } }
theorem test_flash_read : (flashBytes (flashing 0 0x800) 0x800 4) = [7, 0xFF, 0xFF, 0xFF] ∧ bootedFrom (flashing 0 0x800) 0x2000000 = true ∧ bootedFrom (flashing 0 0x800) 0x800 = false := by decide
theorem test_flash_erase : (after (.flashDone false) (flashing 1 0x9000)).hm.flash = [(0x10000, 8)] ∧ getReg (after (.flashDone true) (flashing 1 0x9000)) .hm 0 0x064 = 0x302
    ∧ getReg (after (.flashDone false) (flashing 1 0x2000000)) .hm 0 0x064 = 0x102 := by decide +kernel
theorem test_flash_program : (after (.flashDone false) (flashing 2 0x800)).hm.flash.find? (fun c => c.1 = 0x802) = some (0x802, 1) ∧ (after (.flashDone false) (flashing 2 0x801)).hm.flash = [(0x800, 7), (0x10000, 8)]
    ∧ getReg (after (.flashDone false) (flashing 2 0x801)) .hm 0 0x064 = 0x204 := by decide +kernel
theorem test_wdog_kick : (after (.wdogKick pf 1) up).hm = up.hm ∧ (after (.wdogKick pf 1) up).lb.seq = 1 := by decide
/-- Core c runs, and serves source 7. -/
def running (c : Nat) : State := { up with tclk := 10000000, hm := { up.hm with cores := [(c, { st := 0, stack := [64], inService := [7], run := 3 })] } }
theorem test_crash : ((getCore (after (.watchdogExpiry 6) (running 6)) 6).st, (getCore (after (.watchdogExpiry 6) (running 6)) 6).cause, (getCore (after (.watchdogExpiry 6) (running 6)) 6).run) = (1, 1, 64)
    ∧ 7 ∈ (after (.coreCrash 6 3) (running 6)).ec.pend ∧ (after (.coreCrash 6 3) (running 6)).sl.ramp = none ∧ (after (.coreCrash 0 3) (running 0)).sl.ramp = some 1
    ∧ after (.coreCrash 5 3) (running 6) = running 6 ∧ (after (.coreCrash 6 3) (setReg .hm 0 0x058 0x10064 (running 6))).sl.rampCause = 4 := by decide
theorem test_kicked : after (.watchdogExpiry 6) { running 6 with hm := { (running 6).hm with cores := [(6, { st := 0, kicked := 100000000 })] } }
    = { running 6 with hm := { (running 6).hm with cores := [(6, { st := 0, kicked := 100000000 })] } }
    ∧ ((after (.wdogKick keeper 1) (rom (running 0))).hm.cores.map fun p => p.2.kicked) = [100000000] ∧ wdogPeriod (running 6) ≤ 100000000 := by decide
theorem test_reload : (getCore (after (.coreReload 5 true) (running 6)) 5).st = 0 ∧ ((after (.coreReload 5 false) (running 6)).sl.ramp, (after (.coreReload 5 false) (running 6)).sl.rampCause) = (some 1, 3)
    ∧ after (.coreReload 6 true) (running 6) = running 6 := by decide
theorem test_f_iface : ([0x03000001, 0x03000000, 0x02000001].map fun v => getReg (after (.fIfaceWrite pf 0 v) (setReg .hm 0 0x040 0x03010000 up)) (.hmFn 0) 0 0x044) = [0, 1, 1] := by decide

/-- The trace ring at page `lo`, enabled or not. -/
def tracing (lo cfg : Nat) : State := setReg .hm 0 0x06C cfg (setReg .hm 0 0x070 lo { up with mem := { up.mem with bytes := [(0x20000, 9), (0x30000, 8)] } })
theorem test_trace_switch : pageTag (after (.traceEnable pf 0x80000010) (tracing 0x20 0)) 0x2F = 64 ∧ pageTag (after (.traceEnable pf 0x80000010) (tracing 0x20 0)) 0x30 = 0
    ∧ bit (getReg (after (.traceEnable pf 0x80000010) (tracing 0x1FBFF1 0)) .hm 0 0x06C) 31 = false
    ∧ (after (.traceDisable pf 0x11) (tracing 0x20 0x80000010)).mem.bytes = [(0x30000, 8)] ∧ pageTag (after (.traceDisable pf 0x11) (tracing 0x20 0x80000010)) 0x20 = 0 := by decide +kernel
theorem test_trace_head : getReg (after (.traceHeadWrite pf 0xFF000123) up) .hm 0 0x074 = 0x123 ∧ (after (.traceHeadWrite pf 0xFF000123) up).lb = up.lb := by decide
def sensed (rate : Nat) (pend unmasked : List Nat) : State := setReg .ec 0 0x050 rate { up with ec := { up.ec with pend := pend, unmasked := unmasked, storm := [(5, 4)] } }
theorem test_doorbell : (after (.ecDoorbell keeper 5) (rom (sensed 0 [] [5]))).ec.pend = [5] ∧ getReg (after (.ecDoorbell keeper 5) (rom (sensed 0 [5] [5]))) .ec 0 0x054 = 1
    ∧ (after (.ecDoorbell keeper 5) (rom (sensed 4 [] [5]))).ec.unmasked = [] ∧ (after (.ecDoorbell keeper 5) (rom (sensed 5 [] [5]))).ec.unmasked = [5] := by decide
/-- Core 6 idles; sources 7 and 9 are for it, with PRIO 20 and 5; 9 is ONESHOT. -/
def delivering : State := { up with hm := { up.hm with cores := [(0, wide), (6, { st := 0 })] }, ec := { up.ec with pend := [7, 9], unmasked := [7, 9], cfg := [(7, 0x94060003), (9, 0xC5060009)] } }
theorem test_deliver_hypotheses : srcEligible delivering 6 9 = true ∧ srcEligible delivering 6 7 = true ∧ srcPrio delivering 9 = 5 ∧ srcPrio delivering 7 = 20 := by decide
theorem test_deliver : (after (.ecDeliver 6) delivering).out = [.vector 6 288] ∧ (after (.ecDeliver 6) delivering).ec.pend = [7] ∧ (after (.ecDeliver 6) delivering).ec.unmasked = [7]
    ∧ (getCore (after (.ecDeliver 6) delivering) 6).run = 5 ∧ after (.ecDeliver 6) { delivering with ec := { delivering.ec with pend := [] } } = { delivering with ec := { delivering.ec with pend := [] } } := by decide
theorem test_eoi : (getCore (after (.eoi keeper 0) (rom (running 0))) 0).run = 64 ∧ getReg (after (.eoi keeper 0) (rom delivering)) .ec 0 0x05C = 1 ∧ originCore keeper = some 0
    ∧ canWrite (rom (running 0)) keeper .ec 0x044 ∧ canWrite (rom delivering) keeper .ec 0x044 := by unfold canWrite; decide
/-- Wherever the stepping puts it, the EC page lies below BAR0 page 0x1000. -/
theorem ec_page : pageNumber .ec < 0x1000 := by
  have h : basePage .ec < 0x1000 := by
    unfold basePage
    by_cases hl : layoutLegal = true
    · have h1 := hl
      unfold layoutLegal at h1
      have h2 := (List.all_eq_true.1 (Bool.and_eq_true_iff.1 h1).1) .ec (by decide)
      have h3 := (List.all_eq_true.1 h2) (Config.pageBase (kindCode .ec)) (by simp [kindPages, pageCount])
      have h4 : Config.pageBase (kindCode .ec) < 0x20 + 0xFE0 := of_decide_eq_true (Bool.and_eq_true_iff.1 (Bool.and_eq_true_iff.1 h3).1).2
      simp only [hl, if_true]; omega
    · simp only [hl]; decide
  show basePage .ec + 0 * stridePages .ec < 0x1000
  omega
/-- Core 6 with a region over every register may write EC.EOI. -/
def coreSix : State := { delivering with hm := { delivering.hm with cores := [(6, { st := 0, regions := [⟨0x200000, 0x210000, true, true, false⟩] })] } }
theorem test_core_write : canWrite coreSix ⟨.hmFw, 6⟩ .ec 0x044 := by
  refine ⟨by decide, by decide, by decide, ?_, by decide, by decide⟩
  have h := ec_page
  have hc : (getCore coreSix 6).regions = [⟨0x200000, 0x210000, true, true, false⟩] := by decide
  have hb : coreBarred coreSix 6 (0x200000000 + pageNumber .ec * 4096 + 0x044) 4 true = false := by
    simp only [coreBarred, hc, List.any_cons, List.any_nil]
    simp
    omega
  have ho : originCore ⟨.hmFw, 6⟩ = some 6 := by decide
  simp only [mpuDenies, ho, Option.filter, hb]
  rfl

/-! ### Rails, the governor and Tidegauge -/

/-- The hub at a point of power-up, with the rails of `en` enabled. -/
def rising (power en : Nat) : State := { up with sl := { up.sl with power := power, railEn := en } }
theorem test_vin : (after .vinAonApplied (rising 0 0)).sl.power = 1 ∧ (after .vinAonApplied (rising 0 0)).sl.railEn = 1 ∧ after .vinAonApplied up = up
    ∧ ((after .vinAonRemoved up).sl.power, (after .vinAonRemoved up).sl.railEn) = (0, 0) := by decide +kernel
theorem test_rail_pg : after (.railPg 0) (rising 1 1) = { rising 2 3 with out := [.pin "RAIL_EN" 1 true] } ∧ after (.railPg 3) (rising 4 15) = rising 5 15 ∧ after (.railPg 2) (rising 1 1) = rising 1 1
    ∧ after (.railPg 1) (rising 2 11) = { rising 3 15 with out := [.pin "RAIL_EN" 2 true] } := by decide +kernel
theorem test_rail_late : (after (.railPgTimeout 1) (rising 2 3)).out = [.pin "FAULT" 0 true, .pin "RAIL_EN" 0 false, .pin "RAIL_EN" 1 false] ∧ (after (.railPgTimeout 1) (rising 2 3)).tg.cause = 10
    ∧ (after (.railPgTimeout 1) (rising 2 3)).sl.power = 7 ∧ after (.railPgTimeout 2) (rising 2 3) = rising 2 3 := by decide +kernel
theorem test_keel : (after .keelLock (rising 5 15)).sl.power = 6 ∧ after .keelLock up = up ∧ (after .keelLockLoss up).sl.rampCause = 5 ∧ (after .keelLockLoss up).out = [.pin "FAULT" 0 true]
    ∧ after .keelLockLoss (rising 5 15) = rising 5 15 := by decide +kernel
/-- Berth 2 was cut off before the power-up; and a reset's ramp is under way as the Keel loses lock. -/
def cutOff : State := { rising 5 15 with qy := { up.qy with berths := [(2, { depart := 2 })] } }
theorem test_keel_more : bit (getReg (after .keelLock cutOff) (.qyBerth 2) 0 0x018) 1 = true ∧ (after .keelLock cutOff).sl.power = 6
    ∧ (after .keelLockLoss { up with sl := { up.sl with ramp := some 1, rampCause := 3 } }).sl.rampCause = 5
    ∧ Out.pin "VID" 3 (bit up.fuses.vid.val 3) ∈ (after .vinAonApplied (rising 0 0)).out := by decide +kernel
/-- Some supplies are up, the last enabled at 0; the berths of `b` are enabled. -/
def staggered (m l tclk : Nat) (b : List Nat) : State :=
  b.foldl (fun s k => setReg (.qyBerth k) 0 0x044 1 s) { up with tclk := tclk, qy := { up.qy with staggerLast := some 0 }, sl := { up.sl with mpwr := m, lpwr := l } }
theorem test_stagger : (after .staggerEnable (staggered 1 0 99999 [])).sl.mpwr = 3 ∧ (after .staggerEnable (staggered 15 0 99999 [])).sl.lpwr = 1 ∧ after .staggerEnable (staggered 1 0 999 []) = staggered 1 0 999 []
    ∧ (after .staggerEnable (staggered 15 15 99999 [2, 5])).out = [.pin "BPWR_EN" 2 true] ∧ after .staggerEnable (staggered 15 15 99999 []) = staggered 15 15 99999 [] := by decide +kernel
/-- A ramp toward state h, or for a reset. -/
def ramping (h : Nat) : State := { up with sl := { up.sl with ramp := some h, rampCause := 5, railEn := 15 }, mem := { up.mem with bytes := [(7, 1)] } }
theorem test_ramp : (after .rampDone (ramping 1)).sl.power = 5 ∧ (after .rampDone (ramping 1)).mem.bytes = [] ∧ (after .rampDone (ramping 2)).sl.h = 2 ∧ getReg (after .rampDone (ramping 3)) .sl 0 0x044 = 0x10000
    ∧ ((after .rampDone (ramping 4)).sl.h, (after .rampDone (ramping 4)).sl.railEn) = (4, 9)
    ∧ (after .rampDone (ramping 5)).sl = { up.sl with rampCause := 5, railEn := 15, hubW := getReg up .sl 0 0x070, ballast := 0 } ∧ after .rampDone up = up := by decide +kernel
/-- Link 0 is in D3cold, the PF's PME_En set or not; berth 2 is trained. -/
def cold (pme : Bool) : State :=
  { up with gw := { up.gw with perst := true, cold := true, fns := [(0, { fnCfg up 0 with pmeEn := pme })] }, qy := { up.qy with berths := [(2, { st := 3 })] } }
/-- Rule i is enabled in every state, on an input, with a comparison, an action and a count. -/
def ruled (i inp cmp act persist target : Nat) (s : State) : State :=
  setReg .tg i 0x054 (2 ^ 31 + inp * 2 ^ 24 + cmp * 2 ^ 22 + act * 2 ^ 19 + target * 2 ^ 16 + persist * 2 ^ 8 + 31) (setReg .tg i 0x058 (100 * 2 ^ 16 + 1000) (setReg .tg i 0x05C 250 s))
/-- Rule 3 is a tripped BELOW rule. -/
def trippedOn (act : Nat) (s : State) : State := setRule 3 { tripped := true } (ruled 3 0 1 act 2 0 s)
theorem test_rails_fail : armedD3cold (after .mainRailsFail (cold true)) = true ∧ (after .mainRailsFail (cold true)).qy.berths = [(2, { depart := 2 })]
    ∧ (after .mainRailsFail (cold false)).sl.power = 0 ∧ armedD3cold up = false ∧ (after .mainRailsFail up).tg.cause = 8 ∧ (after .mainRailsFail up).sl.power = 1
    ∧ (after .mainRailsFail { up with tg := { up.tg with ckptDone := true } }).tg.cause = 7 ∧ ckptTripped (trippedOn 3 up) = true ∧ ((after .mainRailsFail (trippedOn 3 up)).sl.power, (after .mainRailsFail (trippedOn 3 up)).sl.railEn) = (8, 0)
    ∧ after .mainRailsFail (rising 8 0) = rising 8 0 ∧ (after .mainRailsFail { rising 8 9 with sl := { (rising 8 9).sl with h := 4 } }).sl.railEn = 0 := by decide +kernel
/-- TCLK edge `k` is past, and a slew stands. -/
def clocked (k time left : Nat) (dir : Int) : State := { up with tclk := k, time := BitVec.ofNat 64 time, hl := { up.hl with slew := dir, slewLeft := left }, ec := { up.ec with storm := [(5, 4)] } }
theorem test_tclk : ([clocked 98 0 5 1, clocked 99 0 5 1, clocked 99 0 5 (-1), clocked 99 0 0 1].map fun s => ((after .tclkEdge s).time.toNat, (after .tclkEdge s).hl.slewLeft)) = [(10, 5), (11, 4), (9, 4), (10, 0)]
    ∧ (after .tclkEdge (clocked 7 999989 0 0)).ec.storm = [(5, 4)] ∧ (after .tclkEdge (clocked 7 999990 0 0)).ec.storm = [] := by decide +kernel
/-- A retag of ten pages takes six at the edge, and a grant of 30 W that is due counts. -/
theorem test_tclk_due : (let t := after .tclkEdge { up with sp := { up.sp with retag := some (0x10, 0x1A, 9) } }; (t.sp.retag, t.mem.tags.length)) = (some (0x16, 0x1A, 9), 6)
    ∧ ((after .tclkEdge { up with qy := { up.qy with berths := [(2, { st := 3, counted := 20, rises := [(10, 30)] })] } }).qy.berths.map fun p => (p.2.counted, p.2.rises)) = [(30, [])] := by decide +kernel
/-- The governor with ballast to 100 W, and STRICT or not. -/
def governed (strict : Nat) : State := setReg .sl 0 0x054 0x80000064 (setReg .sl 0 0x074 strict up)
theorem test_estimate : ([(0, 400), (0, 9)].map fun p => let t := after (.powerEstimate p.2 p.2 p.2) (governed p.1); (t.sl.hubW, t.sl.ballast)) = [(Nat.min 400 (hubCap (governed 0)), Nat.min (400 - pStep up - Nat.min 400 (hubCap (governed 0))) 100), (9, 0)]
    ∧ getReg (after (.powerEstimate 1000 1000 0) (governed 0)) .sl 0 0x078 = 1 ∧ getReg (after (.powerEstimate 0 1000 0) (governed 0)) .sl 0 0x07C = 1 ∧ getReg (after (.powerEstimate 0 1000 0) (governed 1)) .sl 0 0x07C = 0
    ∧ (after (.powerEstimate 0 1000 0) (governed 0)).sl.ballast = 100 := by decide +kernel

/-- Channel 1 holds samples 5, 9, 3 and 2, with filter `f`. -/
def sampled (f : Nat) : State := setReg .tg 1 0x048 f { up with tg := { up.tg with chans := [(1, { last := [5, 9, 3, 2], y := some 8 })] } }
theorem test_filters : ([0, 0x10, 0x09].map fun f => (mgetD (after (.adcSample 1 4) (sampled f)).tg.chans 1 {}).out) = [4, 4, 6] ∧ (after (.adcSample 0 4) up).tg.us = 10 ∧ after (.adcSample 1 4) (rising 0 0) = rising 0 0
    ∧ (mgetD (after (.adcSample 0 4) (setReg .tg 0 0x048 0x0A up)).tg.chans 0 {}).y = some 4 := by decide +kernel
theorem test_thermal : (after (.adcSample 3 2784) up).sl.ramp = some 4 ∧ (after (.adcSample 3 2784) up).tg.hot = [3] ∧ (after (.adcSample 3 2544) up).sl = up.sl ∧ (after (.adcSample 3 2464) (after (.adcSample 3 2544) up)).tg.hot = []
    ∧ (after (.adcSample 3 2465) (after (.adcSample 3 2544) up)).tg.hot = [3] := by decide +kernel
/-- Whether at most rule 3 is enabled. -/
def oneRule (s : State) : Bool := (List.range 32).all fun j => j = 3 || !bit (ruleCfg s j) 31
theorem test_one_rule : oneRule up = true ∧ oneRule (ruled 3 0 1 2 2 1 up) = true ∧ oneRule (trippedOn 3 up) = true ∧ oneRule (ruled 3 32 2 4 2 0 up) = true := by decide +kernel
theorem test_rule_above : ([1000, 1001].map fun v => ruleSt (after (.adcSample 0 v) (ruled 3 0 0 4 2 0 up)) 3) = [{}, { run := 1 }] ∧ ruleSt (after (.adcSample 0 1001) (ruled 3 0 0 4 0 0 up)) 3 = { tripped := true }
    ∧ (after (.adcSample 0 1001) (ruled 3 0 0 4 1 0 up)).tg.faultPin = true ∧ mget (after (.adcSample 0 1001) (ruled 3 0 0 0 1 0 up)).tg.log 0 = some ⟨10, 3, 0, 1001⟩
    ∧ ruleSt (after (.adcSample 0 900) (setRule 3 { tripped := true } (ruled 3 0 0 4 1 0 up))) 3 = { tripped := true } ∧ ruleSt (after (.adcSample 0 899) (setRule 3 { tripped := true } (ruled 3 0 0 4 1 0 up))) 3 = {} := by decide +kernel
theorem test_rule_below : (after (.adcSample 0 999) (ruled 3 0 1 2 1 0 up)).tg.throttles = [(3, 250)] ∧ (after (.adcSample 0 999) (ruled 3 0 1 1 1 1 { up with sl := { up.sl with h := 2 } })).sl.h = 1
    ∧ (after (.adcSample 0 999) (ruled 3 0 1 3 1 0 (withCmd { cmdOf [] with phase := .running } up))).sl.ramp = some 5 ∧ ((getCmd (after (.adcSample 0 999) (ruled 3 0 1 3 1 0 (withCmd { cmdOf [] with phase := .running } up))) 0).map (·.stop)) = some (some (stAborted, 0))
    ∧ ruleSt (after (.adcSample 0 1100) (trippedOn 2 up)) 3 = { tripped := true } ∧ ruleSt (after (.adcSample 0 1101) (trippedOn 2 up)) 3 = {} := by decide +kernel
/-- The hub in the H3 of a checkpoint. -/
def inCkptH3 : State := trippedOn 3 { up with tg := { up.tg with ckpt := true }, sl := { up.sl with h := 3, ckptH3 := true } }
theorem test_ckpt_ends : (after (.adcSample 0 1101) inCkptH3).sl.h = 0 ∧ (after (.adcSample 0 1101) inCkptH3).tg.ckpt = false ∧ (after (.adcSample 0 1100) inCkptH3).sl.h = 3 := by decide +kernel
/-- Hub SRAM was lost already as the checkpoint began. -/
def gone : State := { inCkptH3 with sl := { inCkptH3.sl with sramGone := true }, mem := { up.mem with bytes := [(7, 1)] } }
theorem test_ckpt_sram_gone : (after (.adcSample 0 1101) gone).mem.bytes = [] ∧ (after (.adcSample 0 1101) { gone with sl := inCkptH3.sl }).mem.bytes = [(7, 1)]
    ∧ (after .checkpointDone (trippedOn 3 { up with tg := { up.tg with ckpt := true }, sl := { up.sl with h := 3 } })).sl.sramGone = true := by decide +kernel
theorem test_digital : (after (.tgDigitalInput 32) (ruled 3 32 2 4 2 0 up)).tg.faultPin = true ∧ (after (.tgDigitalInput 35) (ruled 3 35 2 2 2 0 (setReg (.hlLink 9) 0 0x040 0x80000000 up))).tg.throttles = [(3, 250)] ∧ after (.tgDigitalInput 33) up = up := by decide +kernel
/-- Signal detect with no Hawser link enabled, and the end of PERST# while WAKE# is driven. -/
theorem test_digital_other : after (.tgDigitalInput 35) (ruled 3 35 2 2 2 0 up) = ruled 3 35 2 2 2 0 up
    ∧ (let t := after (.tgDigitalInput 34) { up with gw := { up.gw with perst := true, wakePin := true } }; (t.gw.perst, t.gw.wakePin, t.out)) = (false, false, [.pin "WAKE_N" 0 true])
    ∧ oneRule (ruled 3 35 2 2 2 0 (setReg (.hlLink 9) 0 0x040 0x80000000 up)) = true := by decide +kernel
/-- A checkpoint whose ramp is over. -/
def ckptRun (s : State) : State := { s with tg := { s.tg with ckpt := true } }
theorem test_ckpt_done : requestsOut (ckptRun up) = false ∧ ((after .checkpointDone (ckptRun (trippedOn 3 up))).sl.h, (after .checkpointDone (ckptRun (trippedOn 3 up))).tg.ckptDone) = (3, true) ∧ (after .checkpointDone (ckptRun up)).sl.h = 0
    ∧ after .checkpointDone up = up ∧ after .checkpointDone (withCmd { cmdOf [] with phase := .running } (ckptRun up)) = withCmd { cmdOf [] with phase := .running } (ckptRun up) := by decide +kernel
theorem test_fault_clear : (after (.faultClear pf 0xA0000000) { up with tg := { up.tg with faultPin := true, ckptDone := true } }).tg.faultPin = false ∧ (after (.faultClear pf 0xA0000000) { up with tg := { up.tg with faultPin := true, ckptDone := true } }).tg.ckptDone = false
    ∧ (after (.faultClear pf 0x80000000) { up with tg := { up.tg with ckptDone := true } }).tg.ckptDone = true := by decide +kernel
theorem test_fault_write : canWrite up pf .tg 0x040 := by unfold canWrite; decide

/-! ### The whole machine, and well-formed commands -/

theorem test_fuses_stand : (after .vinAonRemoved { up with pending := [.keelLock] }).fuses = up.fuses ∧ (after .vinAonRemoved { up with pending := [.keelLock] }).pending = [.keelLock]
    ∧ (match step { up with pending := [.acDecay] } with | .next t => decide (t = up) | _ => false) = true := by decide +kernel
theorem test_memory_canonical : memoryCanonical up ∧ memoryCanonical (flashing 0 0) ∧ (after (.bar2Access ⟨0, 0x100, some [7], 1, false⟩) up).mem.bytes = [(0x100, 7)] := by
  unfold memoryCanonical; decide +kernel
theorem test_reset_values : getReg State.reset .sl 0 0x04C = 150 ∧ getReg State.reset .qe 0 0x040 = 0x408 ∧ ruleCfg State.reset 31 = 0 := by decide
/-- For each check of well-formedness, a command it refuses. -/
theorem test_ill_formed : ([.registerWrite ⟨⟨.hostPf, 1⟩, .hl, 0x40, 4, 0⟩, .registerWrite ⟨pf, .hl, 0x40, 9, 0⟩, .registerWrite ⟨pf, .hl, 0x40, 4, 2 ^ 32⟩, .registerWrite ⟨pf, .hl, 0xFFD, 4, 0⟩, .registerWrite ⟨pf, .hl, 0, 0, 0⟩,
    .registerWrite ⟨pf, .qeFn 64, 0x40, 4, 0⟩, .registerWrite ⟨⟨.hostVf, 0⟩, .hl, 0x40, 4, 0⟩, .registerWrite ⟨⟨.hmFw, 8⟩, .hl, 0x40, 4, 0⟩, .registerWrite ⟨⟨.regionFw, 16⟩, .hl, 0x40, 4, 0⟩,
    .registerWrite ⟨⟨.partner, 8⟩, .hl, 0x40, 4, 0⟩, .registerWrite ⟨⟨.peer, 4096⟩, .hl, 0x40, 4, 0⟩, .pageSeal pf .hl (2 ^ 32), .acClear pf (2 ^ 32), .groupModeWrite pf 0x04C 1, .lbStatRead ⟨.keeper, 1⟩, .vfCounterRead 0 .qe 0x40,
    .byteCounterRead pf 3 0 false, .registerRead pf .hl 0xFFD 4, .sqDoorbell 64 0 0 4 0, .sqDoorbell 0 8192 0 4 0, .cqHeadUpdate 0 0 9 0, .fbValueWrite pf 256 0 8 0, .fbStatusWrite pf 0 255 4 0, .adminCfgWrite pf 64 0,
    .clusterResetRequest pf 512 0, .berthEnable pf 8 0, .linkEnable pf 48 0, .fetchTurn 8192, .entryArrival 0 0 [] false, .copy 64, .redPack 8, .ld 32768, .sequencerStart 512] : List Instr).all (fun c => !c.wf) = true
  ∧ ([.atsTranslationCompletion 0 (.xlate 0 11 true true), .pageRequestResponse 64 0 .success, .atsInvalidateRequest 4 0 none 0 12 0, .journaledRequest 0 (2 ^ 24) 0 0 ⟨.atomic .add 4 0 0, 0⟩, .replicaSyncDone 16,
    .groupModeApply true 31, .regulationUpdate [], .bar2Access ⟨4, 0, none, 1, false⟩, .hdmCommit 8 0 0 0 0, .hostReadCompletion 0 (List.replicate 257 0) false, .detach 0, .linkLost 4, .flr 64, .wake 4,
    .cardTimeout 8, .berthLinkUp 0 true 16 0 0, .card 8 (bmsg 0 0 0 0 0 0 0 0 [] false), .card 0 (bmsg 8 0 0 0 0 0 0 0 [] false), .card 0 { bmsg 0 0 0 0 0 0 0 0 [] false with len := 5 }, .card 0 { bmsg 0 0 0 0 0 0 0 0 [] false with payload := [0] }, .cxlPartnerRequest 8 0 none false, .lanesLocked 48, .sessionUp 48 true, .announce 0 4097 0 0,
    .idRequest 48 (.ask none), .windowRegister 4096 0 0 (.register 0) 0 0 0, .resolve 4096 0 0 .refused, .plan 48 0 0 0 [], .remoteAck 0 256 0 [] false, .timeSyncExchange 48 true 0, .watchdogExpiry 24, .coreCrash 6 0, .railPg 4, .adcSample 19 0,
    .adcSample 0 4096, .tgDigitalInput 31, .wholeDieReset 11, .hostLinkUp 0 false 8 0, .configSpaceWrite 4 (.sriov true 1)] : List Instr).all (fun c => !c.wf) = true := by decide

end Sys2Proof.Tests
end

section
/-! SUPPORT. What a dropped write does (R35, R480): its Logbook entry, the capture of a debug write, and nothing else; and the
obligation on dropped writes. -/

namespace Sys2Proof.Machine

/-! ### Changes of the register file and the Logbook alone -/

/-- From s to t only the registers of the keys in `ks` and the Logbook change. -/
def OnlyRegsAndLog (ks : List Nat) (s t : State) : Prop :=
  t = { s with regs := t.regs, tg := { s.tg with regs := t.tg.regs }, lb := t.lb }
    ∧ ∀ k, k ∉ ks → mget t.regs k = mget s.regs k ∧ mget t.tg.regs k = mget s.tg.regs k

theorem OnlyRegsAndLog.setLb (s : State) (l : Lb) : OnlyRegsAndLog [] s { s with lb := l } := ⟨rfl, fun _ _ => ⟨rfl, rfl⟩⟩

theorem OnlyRegsAndLog.setReg (p : Page) (b o v : Nat) (s : State) : OnlyRegsAndLog [regKey p b o] s (setReg p b o v s) := by
  unfold Machine.setReg
  split
  · exact ⟨rfl, fun k hk => ⟨rfl, mget_mset_of_ne _ (List.ne_of_not_mem_cons hk) _⟩⟩
  · exact ⟨rfl, fun k hk => ⟨mget_mset_of_ne _ (List.ne_of_not_mem_cons hk) _, rfl⟩⟩

theorem OnlyRegsAndLog.trans {ks js : List Nat} {s t u : State} (h : OnlyRegsAndLog ks s t) (h' : OnlyRegsAndLog js t u) :
    OnlyRegsAndLog (ks ++ js) s u := by
  obtain ⟨ht, hks⟩ := h
  obtain ⟨hu, hjs⟩ := h'
  refine ⟨hu.trans (by rw [ht]), fun k hk => ?_⟩
  obtain ⟨hk1, hk2⟩ := not_or.mp (fun h => hk (List.mem_append.mpr h))
  exact ⟨(hjs k hk2).1.trans (hks k hk1).1, (hjs k hk2).2.trans (hks k hk1).2⟩

/-! ### An entry with room in the ring -/

/-- The entry that a write to a page adds to the Logbook now (R40). -/
def entryNow (s : State) (o : Origin) (flags : Nat) (p : Page) (off old new : Nat) : LogEntry :=
  { seq := s.lb.seq, time := s.time.toNat, origin := o, flags := flags, page := some p, off := off, old := old, new := new }

/-- The Logbook with one more entry, while it has room (R41). -/
def Lb.push (l : Lb) (e : LogEntry) : Lb := { l with ring := (e :: l.ring).take (2 ^ 20), seq := (l.seq + 1) % 2 ^ 32 }

theorem Lb.head_push (l : Lb) (e : LogEntry) : (l.push e).ring.head? = some e := rfl

/-- With room in the ring an entry is put in front, LB.SEQ counts it, and the page's PAGE_SEQ takes its number (R41, R42). -/
theorem logAppend_room {s : State} (hl : logFull s = false) (o : Origin) (flags : Nat) (p : Page) (off old new : Nat) :
    logAppend o flags (some p) off old new s =
      setReg p 0 0x028 s.lb.seq { s with lb := s.lb.push (entryNow s o flags p off old new) } := by
  simp only [logAppend, hl, Bool.false_eq_true, if_false, Lb.push, entryNow]

theorem logAppend_room_lb {s : State} (hl : logFull s = false) (o : Origin) (flags : Nat) (p : Page) (off old new : Nat) :
    (logAppend o flags (some p) off old new s).lb = s.lb.push (entryNow s o flags p off old new) := by
  rw [logAppend_room hl, setReg_lb]

theorem logAppend_room_only {s : State} (hl : logFull s = false) (o : Origin) (flags : Nat) (p : Page) (off old new : Nat) :
    OnlyRegsAndLog [regKey p 0 0x028] s (logAppend o flags (some p) off old new s) := by
  rw [logAppend_room hl]
  exact (OnlyRegsAndLog.setLb ..).trans (OnlyRegsAndLog.setReg ..)

theorem getReg_logAppend_room {s : State} (hl : logFull s = false) (o : Origin) (flags : Nat) (p q : Page) (off old new c r : Nat)
    (hr : r % 4096 ≠ 0x028) : getReg (logAppend o flags (some p) off old new s) q c r = getReg s q c r := by
  rw [logAppend_room hl, getReg_setReg_off _ _ hr]
  rfl

theorem ownerAdmits_logAppend_room {s : State} (hl : logFull s = false) (o w : Origin) (flags : Nat) (p q : Page) (off old new : Nat) :
    ownerAdmits (logAppend o flags (some p) off old new s) w q = ownerAdmits s w q := by
  unfold ownerAdmits
  rw [getReg_logAppend_room hl (hr := by decide)]

theorem debugUnlocked_logAppend_room {s : State} (hl : logFull s = false) (o : Origin) (flags : Nat) (p : Page) (off old new : Nat) :
    debugUnlocked (logAppend o flags (some p) off old new s) = debugUnlocked s := by
  unfold debugUnlocked
  rw [getReg_logAppend_room hl (hr := by decide)]

/-! ### The capture of an error -/

theorem capErr_free {s : State} {p : Page} (h : bit (getReg s p 0 0x024) 31 = false) (code : Nat) (o : Origin) :
    capErr p code o s = setReg p 0 0x024 (2 ^ 31 + code * 2 ^ 16 + originCode o) s := by
  simp [capErr, h]

theorem capErr_taken {s : State} {p : Page} (h : bit (getReg s p 0 0x024) 31 = true) (code : Nat) (o : Origin) :
    capErr p code o s = s := by
  simp [capErr, h]

theorem originCode_lt (o : Origin) : originCode o < 2 ^ 16 := by
  have hc : classCode o.cls < 8 := by cases o.cls <;> decide
  unfold originCode
  omega

/-- A free capture then holds VALID, the code and the origin: they fit the register (R30). -/
theorem getReg_capErr_free {s : State} {p : Page} (h : bit (getReg s p 0 0x024) 31 = false) {code : Nat} (hc : code < 2 ^ 12) (o : Origin) :
    getReg (capErr p code o s) p 0 0x024 = 2 ^ 31 + code * 2 ^ 16 + originCode o := by
  have ho := originCode_lt o
  rw [capErr_free h, getReg_setReg_self, Nat.mod_eq_of_lt (by omega)]

/-! ### A dropped write -/

/-- A write of a class OWNER does not admit, or by the debug port while it is locked (R35, R480). -/
def Unadmitted (s : State) (o : Origin) (p : Page) : Prop :=
  ownerAdmits s o p = false ∨ (o.cls = .debug ∧ debugUnlocked s = false)

theorem Unadmitted.not_admitted {s : State} {o : Origin} {p : Page} (h : Unadmitted s o p) (off : Nat) : admitted s o p off = false := by
  rcases h with h | ⟨hc, hu⟩
  · simp [admitted, h]
  · simp [admitted, hc, hu]

/-- A debug write is refused as such, by OWNER or by the lock: the condition under which dropWrite captures it. -/
theorem Unadmitted.denies {s : State} {o : Origin} {p : Page} (h : Unadmitted s o p) (off : Nat) :
    (!ownerAdmits s o p || !debugUnlocked s || !harbourAdmits o p off) = true := by
  rcases h with h | ⟨-, hu⟩
  · simp [h]
  · simp [hu]

/-- An unadmitted write to a page of the origin's view is logged, and captured if it is a debug write. -/
theorem dropWrite_unadmitted {s : State} {o : Origin} {p : Page} (h : Unadmitted s o p) (hv : viewHolds s o p = true)
    (hl : logFull s = false) (off old v : Nat) (race : Bool) :
    dropWrite o p off old v race false s =
      let t := logAppend o (1 + 8 * b2n race) (some p) off old v s
      if o.cls = .debug then capErr p 0xFFF o t else t := by
  simp [dropWrite, hv, ownerAdmits_logAppend_room hl, debugUnlocked_logAppend_room hl, h.denies, b2n]

/-- The Logbook after an unadmitted write holds its entry, and the capture does not touch it. -/
theorem dropWrite_unadmitted_lb {s : State} {o : Origin} {p : Page} (h : Unadmitted s o p) (hv : viewHolds s o p = true)
    (hl : logFull s = false) (off old v : Nat) (race : Bool) :
    (dropWrite o p off old v race false s).lb =
      s.lb.push (entryNow s o (1 + 8 * b2n race) p off old v) := by
  rw [dropWrite_unadmitted h hv hl, ← logAppend_room_lb hl]
  dsimp only
  split
  · exact capErr_lb ..
  · rfl

/-- A debug write that finds ERR_CAP free is captured with code 0xFFF, DEBUG_DENIED (R35). -/
theorem dropWrite_captured {s : State} {o : Origin} {p : Page} (h : Unadmitted s o p) (hv : viewHolds s o p = true)
    (hl : logFull s = false) (hd : o.cls = .debug) (hfree : bit (getReg s p 0 0x024) 31 = false) (off old v : Nat) (race : Bool) :
    OnlyRegsAndLog [regKey p 0 0x028, regKey p 0 0x024] s (dropWrite o p off old v race false s)
      ∧ getReg (dropWrite o p off old v race false s) p 0 0x024 = 2 ^ 31 + 0xFFF * 2 ^ 16 + originCode o := by
  have hlog := logAppend_room_only hl o (1 + 8 * b2n race) p off old v
  have hfree' : bit (getReg (logAppend o (1 + 8 * b2n race) (some p) off old v s) p 0 0x024) 31 = false := by
    rw [getReg_logAppend_room hl (hr := by decide), hfree]
  rw [dropWrite_unadmitted h hv hl]
  dsimp only
  rw [if_pos hd]
  refine ⟨hlog.trans ?_, getReg_capErr_free hfree' (by decide) o⟩
  rw [capErr_free hfree']
  exact OnlyRegsAndLog.setReg ..

/-- Another write, or one that finds ERR_CAP taken, changes PAGE_SEQ and the Logbook alone. -/
theorem dropWrite_uncaptured {s : State} {o : Origin} {p : Page} (h : Unadmitted s o p) (hv : viewHolds s o p = true)
    (hl : logFull s = false) (hn : ¬(o.cls = .debug ∧ bit (getReg s p 0 0x024) 31 = false)) (off old v : Nat) (race : Bool) :
    OnlyRegsAndLog [regKey p 0 0x028] s (dropWrite o p off old v race false s) := by
  have hlog := logAppend_room_only hl o (1 + 8 * b2n race) p off old v
  rw [dropWrite_unadmitted h hv hl]
  dsimp only
  split
  · next hd =>
    have htaken : bit (getReg s p 0 0x024) 31 = true := by simpa [hd] using hn
    rwa [capErr_taken (by rw [getReg_logAppend_room hl (hr := by decide), htaken])]
  · exact hlog

/-- A whole write that is not admitted is dropped when the ring has room for its entry. -/
theorem write32_dropped {s : State} {o : Origin} {p : Page} {off v : Nat} (ht : inTurn s o) (ho : originUp s o = true)
    (hp : pageExists p = true) (hm : mpuDenies s o p off 4 true = none) (hk : plainPage p off = true) (h4 : off % 4 = 0)
    (h : off + 4 ≤ 4096) (hv : v < 2 ^ 32) (ha : admitted s o p off = false) (hl : logFull s = false) :
    write32 o p off v s = dropWrite o p off (regValue s p off) v (raced s p off (regValue s p off)) false s := by
  rw [write32_piece ht ho hp hm hk h4 h, Nat.mod_eq_of_lt hv]
  simp [writePiece, refused, ha, hl]

theorem exec_registerWrite_word (o : Origin) (p : Page) (off v : Nat) (s : State) :
    exec (.registerWrite ⟨o, p, off, 4, v⟩) s = .next (write32 o p off v s) := rfl

/-- Settles O5: the write is dropped (`write32_dropped`), and what a dropped write changes depends on whether ERR_CAP captures it. -/
theorem writeOfAnUnadmittedClassIsDropped : Obligations.WriteOfAnUnadmittedClassIsDropped := by
  intro s o p off v ht ho hp hm hk h4 h hv hd hview hl captures
  have hd : Unadmitted s o p := hd
  have hlb := dropWrite_unadmitted_lb hd hview hl off (regValue s p off) v (raced s p off (regValue s p off))
  refine ⟨_, (exec_registerWrite_word ..).trans
    (congrArg _ (write32_dropped ht ho hp hm hk h4 h hv (hd.not_admitted off) hl)), ?_⟩
  by_cases hc : captures
  · obtain ⟨⟨hframe, hregs⟩, hcap⟩ :=
      dropWrite_captured hd hview hl hc.1 hc.2 off (regValue s p off) v (raced s p off (regValue s p off))
    refine ⟨hframe, fun k hk1 hk2 => hregs k ?_, fun _ => hcap, ?_, ?_⟩
    · have hk3 : k ≠ regKey p 0 0x024 := fun hk => hk2 ⟨hc, hk⟩
      simp [hk1, hk3]
    · rw [hlb, Lb.push]
    · rw [hlb, Lb.head_push, entryNow]
  · obtain ⟨hframe, hregs⟩ :=
      dropWrite_uncaptured hd hview hl hc off (regValue s p off) v (raced s p off (regValue s p off))
    refine ⟨hframe, fun k hk1 _ => hregs k (by simpa using hk1), fun hc' => absurd hc' hc, ?_, ?_⟩
    · rw [hlb, Lb.push]
    · rw [hlb, Lb.head_push, entryNow]

end Sys2Proof.Machine
end

section
/-! SUPPORT. What the writing of completion records leaves alone: the head of every CQ and ADMIN_CFG, through the homes, the host links, the
fences and the records themselves (R81, R84, R89). -/

namespace Sys2Proof.Machine

/-! ### What the Queue Engine's writing of records leaves alone -/

/-- At CQ slot q: the head of the CQ there, and the ADMIN_CFG of function q. Writing records, what they wait for at the homes included, changes
neither; only a head update moves the head. -/
def headView (q : Nat) (s : State) : Option Nat × Nat := ((mget s.qe.cqs q).map Cq.head, getReg s (.qeFn q) 0 0x050)

variable (q : Nat)

@[simp] theorem headView_mem (s : State) (m) : headView q { s with mem := m } = headView q s := rfl
@[simp] theorem headView_gw (s : State) (m) : headView q { s with gw := m } = headView q s := rfl
@[simp] theorem headView_qy (s : State) (m) : headView q { s with qy := m } = headView q s := rfl
@[simp] theorem headView_hl (s : State) (m) : headView q { s with hl := m } = headView q s := rfl
@[simp] theorem headView_sl (s : State) (m) : headView q { s with sl := m } = headView q s := rfl
@[simp] theorem headView_lb (s : State) (m) : headView q { s with lb := m } = headView q s := rfl
@[simp] theorem headView_fresh (s : State) (m) : headView q { s with fresh := m } = headView q s := rfl
@[simp] theorem headView_errDpa (s : State) (m) : headView q { s with errDpa := m } = headView q s := rfl
@[simp] theorem headView_cmds (s : State) (m) : headView q { s with qe := { s.qe with cmds := m } } = headView q s := rfl
@[simp] theorem headView_emit (o : Out) (s : State) : headView q (emit o s) = headView q s := rfl
@[simp] theorem headView_draw (s : State) : headView q (draw s).2 = headView q s := rfl
@[simp] theorem headView_updCmd (k : Nat) (f : Cmd → Cmd) (s : State) : headView q (updCmd k f s) = headView q s := rfl
@[simp] theorem headView_finish (k st d n a : Nat) (s : State) : headView q (finish k st d n a s) = headView q s := rfl
@[simp] theorem headView_updSq (k : Nat) (f : Sq → Sq) (s : State) : headView q (updSq k f s) = headView q s := rfl
@[simp] theorem headView_setFence (n : Nat) (v : Fence) (s : State) : headView q (setFence n v s) = headView q s := rfl
@[simp] theorem headView_updBerth (b : Nat) (f : Berth → Berth) (s : State) : headView q (updBerth b f s) = headView q s := rfl

@[simp] theorem headView_setReg {p : Page} {b o v : Nat} {s : State} (h : 0x050 ≠ o % 4096) :
    headView q (setReg p b o v s) = headView q s := by
  simp [headView, getReg_setReg_off v s (p := p) (q := .qeFn q) (b := b) (c := 0) (r := 0x050) h]

@[simp] theorem headView_bump {p : Page} {o n : Nat} {s : State} (h : 0x050 ≠ o % 4096) :
    headView q (bump p o n s) = headView q s := headView_setReg q h

@[simp] theorem headView_bump64 {p : Page} {o n : Nat} {s : State} (h : 0x050 ≠ o % 4096) (h' : 0x050 ≠ (o + 4) % 4096) :
    headView q (bump64 p o n s) = headView q s := (headView_setReg q h').trans (headView_setReg q h)

@[simp] theorem headView_capErr (p : Page) (c : Nat) (o : Origin) (s : State) : headView q (capErr p c o s) = headView q s := by
  unfold capErr; split <;> simp

@[simp] theorem headView_capDpa (p : Page) (c : Nat) (o : Origin) (d : Nat) (s : State) :
    headView q (capDpa p c o d s) = headView q s := by
  unfold capDpa
  split
  · rfl
  · exact headView_capErr q p c o s

@[simp] theorem headView_raise (p : Page) (b : Nat) (s : State) : headView q (raise p b s) = headView q s := by
  simp [headView, raise_getReg]

@[simp] theorem headView_startReset (c : Nat) (s : State) : headView q (startReset c s) = headView q s := by
  unfold startReset; split <;> rfl

/-! ### Folds -/

theorem headView_foldl {α : Type} (l : List α) (g : State → α → State) (s : State)
    (h : ∀ s x, headView q (g s x) = headView q s) : headView q (l.foldl g s) = headView q s := foldl_same _ l g s h

/-- A fold that carries data beside the state leaves alone what each of its steps leaves alone. -/
theorem headView_foldl_snd {α β : Type} (l : List α) (g : β × State → α → β × State) (a : β × State)
    (h : ∀ a x, headView q (g a x).2 = headView q a.2) : headView q (l.foldl g a).2 = headView q a.2 := by
  induction l generalizing a with
  | nil => rfl
  | cons x t ih => rw [List.foldl_cons, ih, h]

/-! ### Memory and the homes -/

@[simp] theorem headView_captureReserved (w : Who) (f d : Nat) (s : State) : headView q (captureReserved w f d s) = headView q s := by
  simp [captureReserved]

@[simp] theorem headView_setPoison (a d : Nat) (s : State) : headView q (setPoison a d s) = headView q s := rfl

@[simp] theorem headView_ueNote (a : Nat) (o : Origin) (s : State) : headView q (ueNote a o s) = headView q s := by simp [ueNote]

@[simp] theorem headView_ceNote (a : Nat) (s : State) : headView q (ceNote a s) = headView q s := by
  unfold ceNote; dsimp only; split <;> simp

@[simp] theorem headView_corrected (a : Nat) (s : State) : headView q (corrected a s) = headView q s := by
  unfold corrected; split <;> simp

@[simp] theorem headView_foundEffect (a : Nat) (o : Origin) (f : Found) (s : State) : headView q (foundEffect a o f s) = headView q s := by
  unfold foundEffect
  cases f <;> simp

@[simp] theorem headView_readRest (m : Bool) (a t : Nat) (o : Origin) (w : Bool) (s : State) :
    headView q (readRest m a t o w s) = headView q s := by
  unfold readRest
  dsimp only
  split
  · rw [headView_foundEffect, headView_foldl]
    intro s l; split <;> simp
  · rw [headView_foldl]
    intro s l; split <;> simp

@[simp] theorem headView_writeCopy (k m : Bool) (a t : Nat) (o : Origin) (bs : List PByte) (s : State) :
    headView q (writeCopy k m a t o bs s) = headView q s := by
  have hp (l : List Nat) (u : State) :
      headView q (l.foldl (fun s j => ({ s with mem := { s.mem with poison := mset s.mem.poison j 0 } } : State)) u) = headView q u :=
    headView_foldl _ _ _ _ fun _ _ => rfl
  unfold writeCopy
  dsimp only
  repeat' split
  all_goals simp [hp]

@[simp] theorem headView_replicaNote (n c a : Nat) (d : Bool) (o : Origin) (s : State) : headView q (replicaNote n c a d o s) = headView q s := by
  unfold replicaNote; cases d <;> simp

@[simp] theorem headView_repair (n a t : Nat) (o : Origin) (l : List Byte) (bad : List (Nat × Nat)) (s : State) :
    headView q (repair n a t o l bad s) = headView q s := headView_foldl _ _ _ _ fun _ _ => by simp

@[simp] theorem headView_setEntry (l : Nat) (e : Option SfEntry) (s : State) : headView q (setEntry l e s) = headView q s := rfl

@[simp] theorem headView_loseDeparted (l : Nat) (s : State) : headView q (loseDeparted l s) = headView q s := by
  unfold loseDeparted
  split
  · rfl
  · split
    · dsimp only
      split
      · exact headView_foldl _ _ _ _ fun _ _ => rfl
      · rfl
    · rfl

@[simp] theorem headView_countBytes (a c n : Nat) (w : Bool) (s : State) : headView q (countBytes a c n w s) = headView q s := rfl

@[simp] theorem headView_freeBytes (n : Nat) (s : State) : headView q (freeBytes n s).2 = headView q s := rfl

@[simp] theorem headView_readLineOf (g : Bool) (a t : Nat) (o : Origin) (s : State) :
    headView q (readLineOf g a t o s).2 = headView q s := by
  have hmet (l : List (Nat × Nat)) (u : State) : headView q (l.foldl (fun s p => corrected (place s p.2) s) u) = headView q u :=
    headView_foldl _ _ _ _ fun _ _ => headView_corrected ..
  unfold readLineOf
  extract_lets u one
  have hu : headView q u = headView q s := headView_loseDeparted ..
  have hone (v : State) : headView q (one v).2 = headView q v := by
    dsimp only [one]
    cases lookAt v a t <;> dsimp only <;> split <;> simp
  clear_value u one
  split
  · dsimp only
    repeat' split
    all_goals simp [hone, hmet, hu]
  · rw [hone, hu]

@[simp] theorem headView_readLine (a t : Nat) (o : Origin) (s : State) : headView q (readLine a t o s).2 = headView q s :=
  headView_readLineOf ..

@[simp] theorem headView_writeLineOf (k m : Bool) (a t : Nat) (o : Origin) (bs : List PByte) (s : State) :
    headView q (writeLineOf k m a t o bs s) = headView q s :=
  (headView_foldl _ _ _ _ fun _ _ => headView_writeCopy ..).trans (headView_loseDeparted ..)

@[simp] theorem headView_rewriteLine (f : Found) (a t : Nat) (o : Origin) (bs : List PByte) (s : State) :
    headView q (rewriteLine f a t o bs s) = headView q s := headView_writeLineOf ..

@[simp] theorem headView_putBresa (b : Nat) (m : BresaMsg) (s : State) : headView q (putBresa b m s) = headView q s := by
  simp [putBresa]

@[simp] theorem headView_pumpBresa (b : Nat) (s : State) : headView q (pumpBresa b s) = headView q s := by
  unfold pumpBresa
  rw [headView_foldl, headView_updBerth]
  intro s m
  dsimp only
  split <;> simp

@[simp] theorem headView_sendBresa (b : Nat) (m : BresaMsg) (s : State) : headView q (sendBresa b m s) = headView q s := by
  unfold sendBresa
  dsimp only
  split
  · rfl
  · split <;> simp

@[simp] theorem headView_tagDeny (o : Origin) (s : State) : headView q (tagDeny o s) = headView q s := by simp [tagDeny]

@[simp] theorem headView_snoop (l b : Nat) (s : State) : headView q (snoop l b s) = headView q s := by
  unfold snoop
  dsimp only
  split <;> simp

@[simp] theorem headView_backInvalidate (l : Nat) (s : State) : headView q (backInvalidate l s) = headView q s := by
  unfold backInvalidate
  split <;> simp

theorem headView_snoops {α : Type} (l : List α) (f g : α → Nat) (s : State) :
    headView q (l.foldl (fun s x => snoop (f x) (g x) s) s) = headView q s := headView_foldl _ _ _ _ fun _ _ => headView_snoop ..

@[simp] theorem headView_homeAsk (op : HomeOp) (s : State) : headView q (homeAsk op s) = headView q s := by
  have hlost (l : List SfEntry) (u : State) : headView q (l.foldl (fun s e => loseDeparted e.line s) u) = headView q u :=
    headView_foldl _ _ _ _ fun _ _ => headView_loseDeparted ..
  unfold homeAsk
  extract_lets u
  have hu : headView q u = headView q s := by
    refine headView_foldl _ _ _ _ fun s l => ?_
    extract_lets v
    have hv : headView q v = headView q s := headView_snoops ..
    split <;> simp [hv]
  clear_value u
  split
  iterate 2
    · dsimp only
      repeat' split
      all_goals simp [headView_snoops, hlost, hu]
  · exact hu

theorem headView_of_gather {w : Who} {bs : List PByte} {st : Nat} {s t : State} {g : Option Gather} (h : gather w bs st s = (g, t)) :
    headView q t = headView q s := by
  have ht : t = (gather w bs st s).2 := by rw [h]
  subst ht
  unfold gather
  split
  · rfl
  · dsimp only
    split <;> rfl

@[simp] theorem headView_denyCmd (k : Nat) (a : HomeAct) (s : State) : headView q (denyCmd k a s) = headView q s := rfl

@[simp] theorem headView_noteDst (k a d : Nat) (s : State) : headView q (noteDst k a d s) = headView q s := rfl

@[simp] theorem headView_creditBack (b : Nat) (m : BresaMsg) (s : State) : headView q (creditBack b m s) = headView q s := by
  simp [creditBack]

@[simp] theorem headView_bresaReply (b id st d : Nat) (bs : List Byte) (s : State) : headView q (bresaReply b id st d bs s) = headView q s := by
  unfold bresaReply
  split
  · rfl
  · dsimp only
    split
    · rfl
    · split <;> simp

@[simp] theorem headView_bresaAnswer (b id d : Nat) (bs : List PByte) (st : Nat) (s : State) :
    headView q (bresaAnswer b id d bs st s) = headView q s := by
  unfold bresaAnswer
  split
  next h => exact headView_of_gather q h
  next h => rw [headView_bresaReply, headView_of_gather q h]

@[simp] theorem headView_cxlAnswer (b id : Nat) (bs : List Byte) (p : Bool) (s : State) : headView q (cxlAnswer b id bs p s) = headView q s := by
  unfold cxlAnswer
  split
  · rfl
  · dsimp only
    split <;> simp

@[simp] theorem headView_remoteReply (l src tag st d : Nat) (bs : List Byte) (p : Bool) (s : State) :
    headView q (remoteReply l src tag st d bs p s) = headView q s := by
  unfold remoteReply
  dsimp only
  split <;> rfl

@[simp] theorem headView_answer (op : HomeOp) (bs : List PByte) (p : Option Nat) (d : Bool) (s : State) :
    headView q (answer op bs p d s) = headView q s := by
  unfold answer
  dsimp only
  split
  · split <;> simp
  · split
    · simp
    · split <;> simp
  · split
    · split
      · simp
      · split <;> simp
    · rfl
  · simp
  · simp
  iterate 2
    · split
      · split
        next h => exact headView_of_gather q h
        next h => exact (headView_emit ..).trans (headView_of_gather q h)
      · rfl
  · split
    next h => exact headView_of_gather q h
    next h => rw [headView_remoteReply, headView_of_gather q h]
  · split
    · simp
    · split <;> simp
  · rfl

@[simp] theorem headView_sfGrant (l b t : Nat) (o : Bool) (s : State) : headView q (sfGrant l b t o s) = headView q s := rfl

@[simp] theorem headView_journalAdd (op : HomeOp) (old : Nat) (p : Option Nat) (s : State) :
    headView q (journalAdd op old p s) = headView q s := by
  unfold journalAdd; split <;> rfl

@[simp] theorem headView_macMet (op : HomeOp) (s : State) : headView q (macMet op s).2 = headView q s := by
  unfold macMet
  dsimp only
  split
  · split
    · rfl
    · split <;> rfl
  · rfl

@[simp] theorem headView_snoopEvicting (op : HomeOp) (s : State) : headView q (snoopEvicting op s) = headView q s := by
  unfold snoopEvicting
  split
  · split <;> simp
  · split <;> simp
  · rfl

@[simp] theorem headView_afterHome (op : HomeOp) (s : State) : headView q (afterHome op s) = headView q s := by
  unfold afterHome
  rw [headView_snoopEvicting]
  split <;> rfl

/-- Performing an access at its home changes neither a CQ's head nor an ADMIN_CFG. -/
@[simp] theorem headView_perform (op : HomeOp) (s : State) : headView q (perform op s) = headView q s := by
  unfold perform
  dsimp only
  split
  · simp
  · split
    · split <;> simp
    · rw [headView_afterHome]
      cases op.act <;> dsimp only
      case read => simp
      case share => split <;> simp
      case own => split <;> simp
      case write => simp
      case atomic =>
        split
        · simp
        · split <;> simp
      case packet => split <;> simp
      case accumulate =>
        split
        · simp
        · rw [headView_answer, headView_journalAdd, headView_foldl, headView_foldl_snd]
          · intro a l; simp
          · intro s x; simp

@[simp] theorem headView_homeServe (fuel : Nat) (s : State) : headView q (homeServe fuel s) = headView q s := by
  induction fuel generalizing s with
  | zero => rfl
  | succ fuel ih =>
    unfold homeServe
    dsimp only
    split
    · simp [ih]
    · split
      · exact headView_foldl _ _ _ _ fun s l => by split <;> simp
      · exact (ih _).trans (headView_foldl _ _ _ _ fun s l => by split <;> simp)

@[simp] theorem headView_issueOf (r : Nat) (w : Bool) (l t : Nat) (fw : Bool) (o : Origin) (c : Nat) (a : HomeAct) (who : Who)
    (j : Option (Nat × Nat)) (s : State) : headView q (issueOf r w l t fw o c a who j s) = headView q s := by
  unfold issueOf
  dsimp only
  split <;> simp [homeDrain]

@[simp] theorem headView_issueWrite (a t : Nat) (fw : Bool) (o : Origin) (c : Nat) (bs : List PByte) (who : Who) (s : State) :
    headView q (issueWrite a t fw o c bs who s) = headView q s := headView_foldl _ _ _ _ fun _ _ => headView_issueOf ..

/-! ### Host writes, flushes and interrupts -/

@[simp] theorem headView_hostWrite1 (g : HostTag) (k : Option Nat) (a : Nat) (bs : List Byte) (p : Bool) (s : State) :
    headView q (hostWrite1 g k a bs p s) = headView q s := by
  unfold hostWrite1
  dsimp only
  split <;> cases k <;> rfl

@[simp] theorem headView_hostWrite (g : HostTag) (k : Option Nat) (a : Nat) (bs : List Byte) (p : Bool) (s : State) :
    headView q (hostWrite g k a bs p s) = headView q s := headView_foldl _ _ _ _ fun _ _ => headView_hostWrite1 ..

@[simp] theorem headView_flushRead (l : Nat) (i k : Option Nat) (s : State) : headView q (flushRead l i k s) = headView q s := by
  unfold flushRead
  cases k <;> rfl

@[simp] theorem headView_flushOn (k : Nat) (ls : List Nat) (s : State) : headView q (flushOn k ls s) = headView q s := by
  unfold flushOn
  rw [headView_updCmd, headView_foldl]
  intro s l
  exact headView_flushRead ..

/-! ### Records, fences and completions -/

theorem headView_withKept {ks : List Kept} {go : State → State} {s : State} (h : headView q (go s) = headView q s) :
    headView q (withKept ks go s) = headView q s := by
  unfold withKept
  split
  · exact headView_startReset ..
  · exact h

/-- A change of a CQ that is no head update. -/
@[simp] theorem headView_updCq {j : Nat} {f : Cq → Cq} {s : State} (h : ∀ c, (f c).head = c.head) :
    headView q (updCq j f s) = headView q s := by
  have hm : (mget (mupd s.qe.cqs j f) q).map Cq.head = (mget s.qe.cqs q).map Cq.head := by
    rw [mget_mupd]
    split
    · rw [Option.map_map, funext (f := Cq.head ∘ f) h]
    · rfl
  exact Prod.ext hm rfl

@[simp] theorem headView_signalCq (j : Nat) (s : State) : headView q (signalCq j s) = headView q s := by
  unfold signalCq
  split
  · rfl
  · split
    · dsimp only
      split <;> simp
    · split <;> simp [msix]

@[simp] theorem headView_writeRec (j : Nat) (r : Rec) (s : State) : headView q (writeRec j r s) = headView q s := by
  refine headView_withKept q ?_
  split
  · rfl
  · dsimp only
    repeat' split
    all_goals simp

theorem headView_noteFull {p : Nat → Rec → State → State} (hp : ∀ f r s, headView q (p f r s) = headView q s) (j : Nat) (s : State) :
    headView q (noteFull p j s) = headView q s := by
  unfold noteFull
  split
  · rfl
  · split
    · rfl
    · dsimp only
      split <;> simp [hp]

@[simp] theorem headView_postAdmin (f : Nat) (r : Rec) (s : State) : headView q (postAdmin f r s) = headView q s := by
  unfold postAdmin
  split
  · rfl
  · split
    · rfl
    · split
      · rw [headView_noteFull q (fun _ _ _ => rfl), headView_writeRec]
      · simp

@[simp] theorem headView_postEvent (f st d j : Nat) (s : State) : headView q (postEvent f st d j s) = headView q s := by
  unfold postEvent
  split <;> simp

@[simp] theorem headView_checkWaiters (n : Nat) (s : State) : headView q (checkWaiters n s) = headView q s := rfl

@[simp] theorem headView_failFence (n st : Nat) (s : State) : headView q (failFence n st s) = headView q s := by
  unfold failFence
  dsimp only
  split <;> simp

@[simp] theorem headView_signalFence (n : Nat) (v : DWord) (s : State) : headView q (signalFence n v s) = headView q s := by
  refine headView_withKept q ?_
  dsimp only
  split
  · simp
  · split <;> simp

@[simp] theorem headView_signalOnce (k : Nat) (c : Cmd) (s : State) : headView q (signalOnce k c s) = headView q s := by
  unfold signalOnce applySignal
  rw [headView_updCmd]
  dsimp only
  split
  · split <;> simp
  · rfl

@[simp] theorem headView_ltrTell (s : State) : headView q (ltrTell s) = headView q s := by
  unfold ltrTell
  split <;> rfl

@[simp] theorem headView_retire (k : Nat) (c : Cmd) (s : State) : headView q (retire k c s) = headView q s :=
  headView_ltrTell ..

/-- The admin slots of a function stay while ADMIN_CFG.EN is set (R89). -/
theorem freeAdmin_live {f : Nat} {s : State} (h : bit (headView f s).2 31 = true) : freeAdmin f s = s := if_pos (by simpa [headView] using .inl h)

/-- Serving the records that an I/O CQ, or the CQ of a function whose admin queues are live, has held moves no head and frees no slot. -/
theorem headView_serveHeld {fuel : Nat} {s : State} (h : 64 ≤ q ∨ bit (headView q s).2 31 = true) :
    headView q (serveHeld fuel q s) = headView q s := by
  induction fuel generalizing s with
  | zero => rfl
  | succ fuel ih =>
    unfold serveHeld
    split
    · rfl
    · split
      · rfl
      · next r _ _ =>
        extract_lets cmd need t u w
        clear_value cmd need
        have ht : headView q t = headView q s := by cases cmd <;> simp [t]
        have hu : headView q u = headView q s := by simp [u, ht]
        have hw : headView q w = headView q s := by
          rw [headView_noteFull q fun f r s => by split <;> simp, headView_writeRec, hu]
        have hstay : headView q (if q < 64 then freeAdmin q w else w) = headView q w := by
          split
          · next hq =>
            rw [freeAdmin_live]
            simpa [hw, Nat.not_le.mpr hq] using h
          · rfl
        rw [← hw, ← hstay] at h
        split
        · rfl
        · split
          · cases cmd <;> simp
          · rw [ih h, hstay, hw]

end Sys2Proof.Machine
end

section
/-! SUPPORT. Doorbell pages: what waking leaves alone (R446, R523), the owner's write of a CQ head (R71, R73), and the obligation on it. -/

namespace Sys2Proof.Machine

/-! ### Waking -/

@[simp] theorem loseSram_qe (s : State) : (loseSram s).qe = s.qe := raise_qe ..
@[simp] theorem loseSram_lb (s : State) : (loseSram s).lb = s.lb := raise_lb ..
@[simp] theorem loseSram_damaged (s : State) : (loseSram s).damaged = s.damaged := raise_damaged ..

/-- A register that no event touches stays as hub SRAM is lost. -/
theorem getReg_loseSram {p : Page} {b o : Nat} (s : State) (h1 : o % 4096 ≠ 0x018) (h2 : o % 4096 ≠ 0x01C)
    (h3 : o % 4096 ≠ 0x054 ∧ o % 4096 ≠ 0x058) : getReg (loseSram s) p b o = getReg s p b o :=
  raise_getReg _ _ _ _ _ _ h1 h2 (.inl h3)

/-- What the exit from a sleeping state leaves alone: it is the loss of hub SRAM, the reload of the cores and the sleep state, or less. -/
theorem wakeUp_same {β : Type} (π : State → β) (hsl : ∀ s x, π { s with sl := x } = π s) (hhm : ∀ s x, π { s with hm := x } = π s)
    (hlose : ∀ s, π (loseSram s) = π s) (s : State) : π (wakeUp s) = π s := by
  unfold wakeUp
  split
  · rfl
  · split
    · exact hsl ..
    · split
      · rfl
      · refine (hsl ..).trans ?_
        split
        · refine (hhm ..).trans ?_
          split
          · rfl
          · exact hlose s
        · rfl

@[simp] theorem wakeUp_qe (s : State) : (wakeUp s).qe = s.qe := wakeUp_same State.qe (fun _ _ => rfl) (fun _ _ => rfl) loseSram_qe s
@[simp] theorem wakeUp_lb (s : State) : (wakeUp s).lb = s.lb := wakeUp_same State.lb (fun _ _ => rfl) (fun _ _ => rfl) loseSram_lb s
@[simp] theorem wakeUp_damaged (s : State) : (wakeUp s).damaged = s.damaged :=
  wakeUp_same State.damaged (fun _ _ => rfl) (fun _ _ => rfl) loseSram_damaged s

theorem getReg_wakeUp {p : Page} {b o : Nat} (s : State) (h1 : o % 4096 ≠ 0x018) (h2 : o % 4096 ≠ 0x01C)
    (h3 : o % 4096 ≠ 0x054 ∧ o % 4096 ≠ 0x058) : getReg (wakeUp s) p b o = getReg s p b o :=
  wakeUp_same (getReg · p b o) (fun _ _ => rfl) (fun _ _ => rfl) (getReg_loseSram · h1 h2 h3) s

/-! ### The doorbell page -/

@[simp] theorem countDoorbell_qe (s : State) : (countDoorbell s).qe = s.qe := rfl
@[simp] theorem countDoorbell_damaged (s : State) : (countDoorbell s).damaged = s.damaged := rfl
@[simp] theorem countDoorbell_getReg (s : State) (p : Page) (b o : Nat) : getReg (countDoorbell s) p b o = getReg s p b o := rfl

@[simp] theorem dbBad_qe (s : State) : (dbBad s).qe = s.qe := by simp [dbBad]
@[simp] theorem dbBad_lb (s : State) : (dbBad s).lb = s.lb := by simp [dbBad]

/-- A bad doorbell counts in QE.DB_BAD (R73). -/
theorem getReg_dbBad (s : State) : getReg (dbBad s) .qe 0 0x05C = (getReg s .qe 0 0x05C + 1) % 2 ^ 32 := by
  rw [dbBad, raise_getReg _ _ _ _ _ _ (by decide) (by decide) (.inl (by decide)), bump, getReg_setReg_self, Nat.mod_mod]

/-- A host function's write to a doorbell page reaches it at once when no posted write waits (R440). -/
theorem access_bell {s : State} (h : hostLate s = false) (f page off size v : Nat) :
    access (.bell f page off size v) s = bar4Write f page off size v s := by
  simp [access, h, regAccess]

/-- The owner's write at offset 0x800 is counted and is the slot's head update, by the low 16 bits of its value (R71, R73). -/
theorem bar4Write_head {s : State} {f page size v : Nat} {c : Cq} (hp : s.sl.power = 6) (hf : fnReaches s f = true) (h4 : 4 ≤ size)
    (hc : mget s.qe.cqs page = some c) (ho : c.f = f) (hb : c.berth = none) :
    bar4Write f page 0x800 size v s = headUpdate page (v % 2 ^ 16) (countDoorbell (wakeUp s)) := by
  simp [bar4Write, hp, hf, Nat.not_lt.mpr h4, hc, ho, hb, bits]

theorem exec_cqHeadUpdate {s : State} {f page size v : Nat} {c : Cq} (hp : s.sl.power = 6) (hf : fnReaches s f = true)
    (hl : hostLate s = false) (hpage : page < 8192) (h4 : 4 ≤ size) (hc : mget s.qe.cqs page = some c) (ho : c.f = f) (hb : c.berth = none) :
    exec (.cqHeadUpdate f page size v) s = .next (headUpdate page (v % 2 ^ 16) (countDoorbell (wakeUp s))) := by
  rw [← bar4Write_head hp hf h4 hc ho hb, ← access_bell hl]
  exact if_pos hpage

/-! ### The head update -/

/-- How far a head update moves the head of a CQ (R71). -/
def Cq.dist (c : Cq) (head : Nat) : Nat := (head + 2 ^ c.log2 - c.head) % 2 ^ c.log2

/-- A CQ with its head moved by d records (R71). -/
def Cq.moved (head d : Nat) (c : Cq) : Cq :=
  { c with head := head, unread := c.unread - d, fullPosted := if d = 0 then c.fullPosted else false }

/-- A head update of a CQ whose state is sound (R71). -/
theorem headUpdate_eq {s : State} {q : Nat} {c : Cq} (hc : mget s.qe.cqs q = some c) (hk : spoilt s [.cq q] = false) (head : Nat) :
    headUpdate q head s =
      if 2 ^ c.log2 ≤ head ∨ c.unread < c.dist head then dbBad s
      else serveHeld (c.held.length + 1) q (updCq q (Cq.moved head (c.dist head)) s) := by
  simp only [headUpdate, withKept, hk, hc, Bool.false_eq_true, if_false, Bool.or_eq_true, decide_eq_true_eq]
  rfl

/-- An accepted head update leaves the new head in the slot's view. -/
theorem headView_moved {s : State} {q : Nat} {c : Cq} (hc : mget s.qe.cqs q = some c) (head d : Nat) :
    headView q (updCq q (Cq.moved head d) s) = (some head, getReg s (.qeFn q) 0 0x050) := by
  simp [headView, updCq, hc, Cq.moved, getReg, regReset]

/-- A CQ that holds no record has none to serve. -/
theorem serveHeld_nothing {s : State} {q : Nat} {c : Cq} (hc : mget s.qe.cqs q = some c) (hh : c.held = []) (fuel : Nat) :
    serveHeld fuel q s = s := by
  cases fuel <;> simp [serveHeld, hc, hh]

/-- Settles O11: an accepted update moves the head, and serving what the CQ held keeps it (`headView_serveHeld`); any other is a bad doorbell. -/
theorem cqHeadUpdateMovesTheHead : Obligations.CqHeadUpdateMovesTheHead := by
  intro s f page size v c hp hf hl hpage h4 hc ho hb hk depth head d
  have hexec := exec_cqHeadUpdate (v := v) hp hf hl hpage h4 hc ho hb
  have hc' : mget (countDoorbell (wakeUp s)).qe.cqs page = some c := by simpa using hc
  have hk' : spoilt (countDoorbell (wakeUp s)) [.cq page] = false := by simpa [spoilt] using hk
  have hupd := headUpdate_eq hc' hk' head
  have hmoves (hh : head < depth) (hd : d ≤ c.unread) : exec (.cqHeadUpdate f page size v) s =
      .next (serveHeld (c.held.length + 1) page (updCq page (Cq.moved head d) (countDoorbell (wakeUp s)))) :=
    hexec.trans (congrArg _ (hupd.trans (if_neg (not_or.mpr ⟨Nat.not_le.mpr hh, Nat.not_lt.mpr hd⟩))))
  refine ⟨fun hh hd hheld => ?_, fun hh hd hlive => ?_, fun hbad => ?_⟩
  · have hslot : mget (updCq page (Cq.moved head d) (countDoorbell (wakeUp s))).qe.cqs page = some (c.moved head d) := by
      simp [updCq, hc]
    exact (hmoves hh hd).trans (congrArg _ (serveHeld_nothing hslot hheld _))
  · have hview := headView_moved hc' head d
    rw [countDoorbell_getReg, getReg_wakeUp _ (by decide) (by decide) (by decide)] at hview
    have hkept := (headView_serveHeld page (fuel := c.held.length + 1) (hview ▸ hlive)).trans hview
    obtain ⟨c', hslot, hhead⟩ := Option.map_eq_some_iff.mp (congrArg Prod.fst hkept)
    exact ⟨_, c', hmoves hh hd, hslot, hhead⟩
  · refine ⟨_, hexec.trans (congrArg _ (hupd.trans (if_pos hbad))), ?_, ?_, ?_⟩
    · simp
    · rw [getReg_dbBad, countDoorbell_getReg, getReg_wakeUp _ (by decide) (by decide) (by decide)]
    · simp [countDoorbell]

end Sys2Proof.Machine
end

section
/-! SUPPORT. Host accesses held behind posted writes (R440), and the obligation on writes to a fence block, which such a write refutes. -/

namespace Sys2Proof.Machine

/-! ### A host access behind a posted write -/

theorem postedOpen_of_postedBefore {s : State} {n : Nat} (h : postedBefore s n = true) : postedOpen s = true := by
  obtain ⟨op, hmem, hop⟩ := List.any_eq_true.mp h
  obtain ⟨-, hposted⟩ := Bool.and_eq_true_iff.mp hop
  exact List.any_eq_true.mpr ⟨op, hmem, hposted⟩

/-- A host access that follows a posted write still at its home is kept for later, and nothing else happens (R440). -/
theorem access_held {s : State} {a : HostReg} (ha : a.ofHost = true) (hp : postedBefore s s.mem.nextOp = true) (hl : s.gw.later = []) :
    access a s = { s with gw := { s.gw with later := [(s.mem.nextOp, a)] } } := by
  have hlate : hostLate s = true := by simp [hostLate, postedOpen_of_postedBefore hp]
  have hp' (l : List (Nat × HostReg)) : postedBefore { s with gw := { s.gw with later := l } } s.mem.nextOp = true := hp
  simp [access, ha, hlate, hl, laterDrain, serveLater, hp']

theorem getFence_later (s : State) (l : List (Nat × HostReg)) (n : Nat) :
    getFence { s with gw := { s.gw with later := l } } n = getFence s n := rfl

theorem exec_fbValueWrite {b i : Nat} (hb : b < 256) (hi : i < 256) (o : Origin) (v : Nat) (s : State) :
    exec (.fbValueWrite o b (8 * i) 8 v) s = .next (access (.write ⟨o, .qeFb b, 0x800 + 8 * i, 8, v⟩) s) := by
  have hoff : 8 * i < 0x800 := by omega
  exact (if_pos hb).trans (congrArg _ (if_pos hoff))

/-! ### A signal that has to wait -/

/-- The PF's link is up, fence block 0 is the PF's, and the partner in berth 2 holds the hub-SRAM line 0x1040. -/
def partnerHoldsLine : State :=
  { State.reset with
    hm := { State.reset.hm with stage := 2 }
    gw := { State.reset.gw with links := [(0, { up := true, width := 5, rate := 5 })] }
    qe := { State.reset.qe with blocks := [(0, { f := 0, ctx := 1 })] }
    qy := { State.reset.qy with
      filter := [{ line := 0x1040, holders := [2], modified := false, tenant := 0 }]
      berths := [(2, { st := 3, major := 2, minor := 2, txCredits := [10, 10, 10, 10, 10, 10, 10], powered := true, resetPin := false })] } }

/-- A BAR2 write of the PF to the line that the partner holds. -/
def postedWrite : HostAcc := { link := 0, addr := 0x1040, data := some [7, 8], len := 0, poison := false }

/-- The hub after that write: it waits at the line's home until the partner answers the snoop. -/
def behindPostedWrite : State := bar2Go postedWrite partnerHoldsLine

/-- The refuting state is one that a command of the model leads to. -/
theorem exec_postedWrite : exec (.bar2Access postedWrite) partnerHoldsLine = .next behindPostedWrite := by
  have hlink : postedWrite.link < 4 := by decide
  show onUnit postedWrite.link 4 behindPostedWrite = _
  rw [onUnit, if_pos hlink]

theorem behindPostedWrite_waits :
    postedBefore behindPostedWrite behindPostedWrite.mem.nextOp = true ∧ behindPostedWrite.gw.later = [] := by
  decide +kernel

/-- The PF's signal of 1 to fence 0, which holds 0, meets every hypothesis on a value that moves its fence. -/
theorem behindPostedWrite_signal_admitted :
    originUp behindPostedWrite ⟨.hostPf, 0⟩ = true ∧ admitted behindPostedWrite ⟨.hostPf, 0⟩ (.qeFb 0) (0x800 + 8 * 0) = true
      ∧ mpuDenies behindPostedWrite ⟨.hostPf, 0⟩ (.qeFb 0) (0x800 + 8 * 0) 8 true = none ∧ mhas behindPostedWrite.qe.blocks 0 = true
      ∧ spoilt behindPostedWrite [.fence (256 * 0 + 0)] = false ∧ (getFence behindPostedWrite (256 * 0 + 0)).value = 0 := by
  decide +kernel

/-- Refutes O20: the value half does not ask that the write be in turn. Behind a posted write of its host a signal is held (`access_held`),
so the command leaves the fence as it was (R440). -/
theorem not_fenceBlockWrites : ¬ Obligations.FenceBlockWrites := by
  rintro ⟨hvalue, -⟩
  obtain ⟨hup, hadm, hmpu, hblock, hsound, hold⟩ := behindPostedWrite_signal_admitted
  obtain ⟨hposted, hnone⟩ := behindPostedWrite_waits
  obtain ⟨hmoves, -⟩ := hvalue behindPostedWrite ⟨.hostPf, 0⟩ 0 0 1 hup (by decide) (by decide) hadm hmpu hblock (by decide) hsound
  obtain ⟨t, ht, -, hfence, -⟩ := hmoves (by rw [hold]; decide) (by rw [hold]; decide)
  have hheld := exec_fbValueWrite (b := 0) (i := 0) (by decide) (by decide) ⟨.hostPf, 0⟩ 1 behindPostedWrite
  rw [access_held rfl hposted hnone] at hheld
  obtain rfl := Host.Outcome.next.inj (hheld.symm.trans ht)
  rw [getFence_later] at hfence
  have hkept : (getFence behindPostedWrite (256 * 0 + 0)).value = 1 := congrArg Fence.value hfence
  exact absurd (hold.symm.trans hkept) (by decide)

end Sys2Proof.Machine
end
